-- ==== Sys2Proof/Word.lean ====
section
/-! DEFINITION. The word types of the JN4160 (R2), and the names of the agents that reach the hub. -/

namespace Sys2Proof

/-- A byte: 8 bits (R2). -/
abbrev Byte := BitVec 8
/-- An instruction word: 32 bits (R2). -/
abbrev Word32 := BitVec 32
/-- A doubleword, the width of every S register and system register (R2, R169). -/
abbrev W64 := BitVec 64
/-- A value lane: 40 bits, a wif value or an integer (R119, R121). -/
abbrev Lane := BitVec 40

/-- The agents that reach the hub register window from outside the pieces (R39, R89, R292, R294): the two host
functions, the sidecar cluster, the management core. A device source is an access thread (`s.lnch`, R43). -/
inductive HubAgent where
  | host0
  | host1
  | sidecar
  | mgmt
  | thread
deriving DecidableEq, Repr

/-- What a sidecar core does (R118): a load or store, an atomic by its operation code of R184, a load-reserved or store-conditional,
with aq and rl, or a FENCE with its sets: bit 0 writes, 1 reads, 2 output, 3 input. -/
inductive SideOp where
  | load
  | store
  | amo (op : Fin 9) (aq rl : Bool)
  | lr (aq rl : Bool)
  | sc (aq rl : Bool)
  | fence (pred succ : BitVec 4)
deriving DecidableEq, Repr

/-- What a hub hears from the hub at the other end of a pair about a binding (R279, R280): a stream bind flit, a memory
bind flit, the answer to one of its own, an unbind flit. -/
inductive BindMsg where
  | stream
  | memory
  | answer (ok : Bool)
  | unbind
deriving DecidableEq, Repr

end Sys2Proof
end

