-- ==== Sys2Proof/Syntax.lean ====
section
/-! DEFINITION. The instruction set: one constructor for every row of spec/opcode_table.json. Text words carry the
fields of their encoding (R146, R148, R151), `t` being the tack field TK; element move words carry the fields of R153;
the rows without an encoding are the steps (events) of the other units of the part, with the unit they name. -/

namespace Sys2Proof

/-- One step of the part: a text word, an element move word, or an event. -/
inductive Instr where
  /-- Sets rd to ra plus rb, modulo 2^64 (R169). -/
  | sAdd (t : BitVec 4) (d : BitVec 5) (a : BitVec 5) (b : BitVec 5)
  /-- Sets rd to ra minus rb, modulo 2^64 (R169). -/
  | sSub (t : BitVec 4) (d : BitVec 5) (a : BitVec 5) (b : BitVec 5)
  /-- Sets rd to ra AND rb (R169). -/
  | sAnd (t : BitVec 4) (d : BitVec 5) (a : BitVec 5) (b : BitVec 5)
  /-- Sets rd to ra OR rb (R169). -/
  | sOr (t : BitVec 4) (d : BitVec 5) (a : BitVec 5) (b : BitVec 5)
  /-- Sets rd to ra XOR rb (R169). -/
  | sXor (t : BitVec 4) (d : BitVec 5) (a : BitVec 5) (b : BitVec 5)
  /-- Sets rd to ra AND NOT rb (R169). -/
  | sAndn (t : BitVec 4) (d : BitVec 5) (a : BitVec 5) (b : BitVec 5)
  /-- Shifts ra left by rb[5:0] (R169). -/
  | sSll (t : BitVec 4) (d : BitVec 5) (a : BitVec 5) (b : BitVec 5)
  /-- Shifts ra right by rb[5:0], bringing in zeros (R169). -/
  | sSrl (t : BitVec 4) (d : BitVec 5) (a : BitVec 5) (b : BitVec 5)
  /-- Shifts ra right by rb[5:0], copying bit 63 (R169). -/
  | sSra (t : BitVec 4) (d : BitVec 5) (a : BitVec 5) (b : BitVec 5)
  /-- Sets rd to the low 64 bits of ra times rb (R169). -/
  | sMul (t : BitVec 4) (d : BitVec 5) (a : BitVec 5) (b : BitVec 5)
  /-- Sets rd to the high 64 bits of the signed product (R169). -/
  | sMulh (t : BitVec 4) (d : BitVec 5) (a : BitVec 5) (b : BitVec 5)
  /-- Sets rd to the high 64 bits of the unsigned product (R169). -/
  | sMulhu (t : BitVec 4) (d : BitVec 5) (a : BitVec 5) (b : BitVec 5)
  /-- Signed division truncated toward zero, all ones on division by zero (R169). -/
  | sDiv (t : BitVec 4) (d : BitVec 5) (a : BitVec 5) (b : BitVec 5)
  /-- Unsigned division, all ones on division by zero (R169). -/
  | sDivu (t : BitVec 4) (d : BitVec 5) (a : BitVec 5) (b : BitVec 5)
  /-- Signed remainder with the sign of ra (R169). -/
  | sRem (t : BitVec 4) (d : BitVec 5) (a : BitVec 5) (b : BitVec 5)
  /-- Unsigned remainder (R169). -/
  | sRemu (t : BitVec 4) (d : BitVec 5) (a : BitVec 5) (b : BitVec 5)
  /-- Signed minimum of ra and rb (R169). -/
  | sMin (t : BitVec 4) (d : BitVec 5) (a : BitVec 5) (b : BitVec 5)
  /-- Signed maximum of ra and rb (R169). -/
  | sMax (t : BitVec 4) (d : BitVec 5) (a : BitVec 5) (b : BitVec 5)
  /-- Unsigned minimum of ra and rb (R169). -/
  | sMinu (t : BitVec 4) (d : BitVec 5) (a : BitVec 5) (b : BitVec 5)
  /-- Unsigned maximum of ra and rb (R169). -/
  | sMaxu (t : BitVec 4) (d : BitVec 5) (a : BitVec 5) (b : BitVec 5)
  /-- Sets rd to 1 if ra is below rb, signed (R169). -/
  | sSlt (t : BitVec 4) (d : BitVec 5) (a : BitVec 5) (b : BitVec 5)
  /-- Sets rd to 1 if ra is below rb, unsigned (R169). -/
  | sSltu (t : BitVec 4) (d : BitVec 5) (a : BitVec 5) (b : BitVec 5)
  /-- Sets rd to 1 if ra equals rb (R169). -/
  | sSeq (t : BitVec 4) (d : BitVec 5) (a : BitVec 5) (b : BitVec 5)
  /-- Sets rd to 1 if ra differs from rb (R169). -/
  | sSne (t : BitVec 4) (d : BitVec 5) (a : BitVec 5) (b : BitVec 5)
  /-- Counts the leading zero bits of ra (R170). -/
  | sClz (t : BitVec 4) (d : BitVec 5) (a : BitVec 5)
  /-- Counts the trailing zero bits of ra (R170). -/
  | sCtz (t : BitVec 4) (d : BitVec 5) (a : BitVec 5)
  /-- Counts the one bits of ra (R170). -/
  | sPopc (t : BitVec 4) (d : BitVec 5) (a : BitVec 5)
  /-- Sign-extends ra[7:0] (R170). -/
  | sSextB (t : BitVec 4) (d : BitVec 5) (a : BitVec 5)
  /-- Sign-extends ra[15:0] (R170). -/
  | sSextH (t : BitVec 4) (d : BitVec 5) (a : BitVec 5)
  /-- Sign-extends ra[31:0] (R170). -/
  | sSextW (t : BitVec 4) (d : BitVec 5) (a : BitVec 5)
  /-- Zero-extends ra[31:0] (R170). -/
  | sZextW (t : BitVec 4) (d : BitVec 5) (a : BitVec 5)
  /-- Adds the sign-extended immediate to ra (R171). -/
  | sAddi (t : BitVec 4) (d : BitVec 5) (a : BitVec 5) (i : BitVec 10)
  /-- ANDs ra with the zero-extended immediate (R171). -/
  | sAndi (t : BitVec 4) (d : BitVec 5) (a : BitVec 5) (i : BitVec 10)
  /-- ORs ra with the zero-extended immediate (R171). -/
  | sOri (t : BitVec 4) (d : BitVec 5) (a : BitVec 5) (i : BitVec 10)
  /-- XORs ra with the zero-extended immediate (R171). -/
  | sXori (t : BitVec 4) (d : BitVec 5) (a : BitVec 5) (i : BitVec 10)
  /-- Sets rd to 1 if ra is below the immediate, signed (R171). -/
  | sSlti (t : BitVec 4) (d : BitVec 5) (a : BitVec 5) (i : BitVec 10)
  /-- Sets rd to 1 if ra is below the sign-extended immediate, unsigned (R171). -/
  | sSltiu (t : BitVec 4) (d : BitVec 5) (a : BitVec 5) (i : BitVec 10)
  /-- Shifts ra left by an immediate amount (R171). -/
  | sSlli (t : BitVec 4) (d : BitVec 5) (a : BitVec 5) (h : BitVec 6)
  /-- Shifts ra right logically by an immediate amount (R171). -/
  | sSrli (t : BitVec 4) (d : BitVec 5) (a : BitVec 5) (h : BitVec 6)
  /-- Shifts ra right arithmetically by an immediate amount (R171). -/
  | sSrai (t : BitVec 4) (d : BitVec 5) (a : BitVec 5) (h : BitVec 6)
  /-- Sets rd to the immediate shifted left by 30 (R171). -/
  | sLui (t : BitVec 4) (d : BitVec 5) (i : BitVec 10)
  /-- Replaces the bank bits of a vault offset by the swizzled bank of the given mode (R174). -/
  | sSwz (t : BitVec 4) (d : BitVec 5) (a : BitVec 5) (m : BitVec 3)
  /-- Extracts a bit field of ra, cut at bit 63 (R173). -/
  | sBfx (t : BitVec 4) (d : BitVec 5) (a : BitVec 5) (p : BitVec 6) (w : BitVec 3)
  /-- Inserts the low bits of ra into a field of rd (R173). -/
  | sBfi (t : BitVec 4) (d : BitVec 5) (a : BitVec 5) (p : BitVec 6) (w : BitVec 3)
  /-- Sets rd to rd plus ra times rb (R172). -/
  | sMadd (t : BitVec 4) (d : BitVec 5) (a : BitVec 5) (b : BitVec 5)
  /-- Immediate prefix that widens the next S word's immediate to 30 bits (R147). -/
  | sImx (i : BitVec 20)
  /-- Prefix giving ordering, scope and knots to the next S memory word (R93). -/
  | sSem (o : BitVec 2) (s : BitVec 3) (w : BitVec 3) (k : BitVec 3)
  /-- Loads a sign-extended byte (R175). -/
  | sLdB (t : BitVec 4) (d : BitVec 5) (a : BitVec 5) (w : BitVec 3) (k : BitVec 3)
  /-- Loads a sign-extended halfword (R175). -/
  | sLdH (t : BitVec 4) (d : BitVec 5) (a : BitVec 5) (w : BitVec 3) (k : BitVec 3)
  /-- Loads a sign-extended word (R175). -/
  | sLdW (t : BitVec 4) (d : BitVec 5) (a : BitVec 5) (w : BitVec 3) (k : BitVec 3)
  /-- Loads a doubleword (R175). -/
  | sLdD (t : BitVec 4) (d : BitVec 5) (a : BitVec 5) (w : BitVec 3) (k : BitVec 3)
  /-- Loads a zero-extended byte (R175). -/
  | sLdBu (t : BitVec 4) (d : BitVec 5) (a : BitVec 5) (w : BitVec 3) (k : BitVec 3)
  /-- Loads a zero-extended halfword (R175). -/
  | sLdHu (t : BitVec 4) (d : BitVec 5) (a : BitVec 5) (w : BitVec 3) (k : BitVec 3)
  /-- Loads a zero-extended word (R175). -/
  | sLdWu (t : BitVec 4) (d : BitVec 5) (a : BitVec 5) (w : BitVec 3) (k : BitVec 3)
  /-- Stores a byte (R175). -/
  | sStB (t : BitVec 4) (d : BitVec 5) (a : BitVec 5) (w : BitVec 3) (k : BitVec 3)
  /-- Stores a halfword (R175). -/
  | sStH (t : BitVec 4) (d : BitVec 5) (a : BitVec 5) (w : BitVec 3) (k : BitVec 3)
  /-- Stores a word (R175). -/
  | sStW (t : BitVec 4) (d : BitVec 5) (a : BitVec 5) (w : BitVec 3) (k : BitVec 3)
  /-- Stores a doubleword (R175). -/
  | sStD (t : BitVec 4) (d : BitVec 5) (a : BitVec 5) (w : BitVec 3) (k : BitVec 3)
  /-- Reserves a q entry and reads 16 consecutive elements into one token (R177). -/
  | sQld (t : BitVec 4) (q : BitVec 5) (a : BitVec 5) (b : BitVec 5)
  /-- Reserves a q entry and reads one element into lane 0 (R177). -/
  | sQld1 (t : BitVec 4) (q : BitVec 5) (a : BitVec 5) (b : BitVec 5)
  /-- Reserves a q entry and reads 16 strided elements (R177). -/
  | sQlds (t : BitVec 4) (q : BitVec 5) (a : BitVec 5) (b : BitVec 5)
  /-- Pops a y token and writes its valid lanes narrowed to memory (R178). -/
  | sQst (t : BitVec 4) (q : BitVec 5) (a : BitVec 5) (b : BitVec 5)
  /-- Pops a y token and writes its lane 0 to memory (R178). -/
  | sQst1 (t : BitVec 4) (q : BitVec 5) (a : BitVec 5) (b : BitVec 5)
  /-- Reads a selected field of the head of a y queue into a register and pops it (R179). -/
  | sQpop (t : BitVec 4) (q : BitVec 5) (a : BitVec 5) (b : BitVec 5)
  /-- Reads a selected field of the head of a y queue without popping (R179). -/
  | sQpeek (t : BitVec 4) (q : BitVec 5) (a : BitVec 5) (b : BitVec 5)
  /-- Pushes a one-lane data token from a register into a q queue (R179). -/
  | sQpsh (t : BitVec 4) (q : BitVec 5) (a : BitVec 5)
  /-- Returns the occupancy of a q, y or bq queue (R179). -/
  | sQcnt (t : BitVec 4) (q : BitVec 5) (a : BitVec 5) (c : BitVec 5)
  /-- Discards every token and reserved entry of a queue and returns the count (R181). -/
  | sQdisc (t : BitVec 4) (q : BitVec 5) (a : BitVec 5) (c : BitVec 5)
  /-- Pushes a hem of a given level into a q queue (R179). -/
  | sQhem (t : BitVec 4) (q : BitVec 5) (l : BitVec 5)
  /-- Reads a version of a versioned cell, parking while it is future (R183). -/
  | sVld (t : BitVec 4) (d : BitVec 5) (a : BitVec 5) (b : BitVec 5)
  /-- Creates the next version of a versioned cell, waiting in the bank element for a reclaim if needed (R183). -/
  | sVst (t : BitVec 4) (d : BitVec 5) (a : BitVec 5) (b : BitVec 5)
  /-- Reclaims versions of a cell up to the given one and wakes parked stores (R183). -/
  | sVrc (t : BitVec 4) (a : BitVec 5) (b : BitVec 5)
  /-- Atomic integer add returning the old value (R184). -/
  | sAmoAdd (t : BitVec 4) (d : BitVec 5) (a : BitVec 5) (b : BitVec 5) (w : BitVec 1)
  /-- Atomic AND returning the old value (R184). -/
  | sAmoAnd (t : BitVec 4) (d : BitVec 5) (a : BitVec 5) (b : BitVec 5) (w : BitVec 1)
  /-- Atomic OR returning the old value (R184). -/
  | sAmoOr (t : BitVec 4) (d : BitVec 5) (a : BitVec 5) (b : BitVec 5) (w : BitVec 1)
  /-- Atomic XOR returning the old value (R184). -/
  | sAmoXor (t : BitVec 4) (d : BitVec 5) (a : BitVec 5) (b : BitVec 5) (w : BitVec 1)
  /-- Atomic signed minimum returning the old value (R184). -/
  | sAmoMin (t : BitVec 4) (d : BitVec 5) (a : BitVec 5) (b : BitVec 5) (w : BitVec 1)
  /-- Atomic signed maximum returning the old value (R184). -/
  | sAmoMax (t : BitVec 4) (d : BitVec 5) (a : BitVec 5) (b : BitVec 5) (w : BitVec 1)
  /-- Atomic unsigned minimum returning the old value (R184). -/
  | sAmoMinu (t : BitVec 4) (d : BitVec 5) (a : BitVec 5) (b : BitVec 5) (w : BitVec 1)
  /-- Atomic unsigned maximum returning the old value (R184). -/
  | sAmoMaxu (t : BitVec 4) (d : BitVec 5) (a : BitVec 5) (b : BitVec 5) (w : BitVec 1)
  /-- Atomic swap returning the old value (R184). -/
  | sAmoSwap (t : BitVec 4) (d : BitVec 5) (a : BitVec 5) (b : BitVec 5) (w : BitVec 1)
  /-- Atomic fp32 or packed bf16 add returning the old value (R184). -/
  | sAmoFadd (t : BitVec 4) (d : BitVec 5) (a : BitVec 5) (b : BitVec 5) (w : BitVec 1)
  /-- Compare-and-swap of a word or doubleword, returning the old value (R185). -/
  | sCas (t : BitVec 4) (d : BitVec 5) (a : BitVec 5) (b : BitVec 5) (w : BitVec 1)
  /-- Orders the thread's memory operations by issue order at a scope (R101). -/
  | sFence (t : BitVec 4) (o : BitVec 2) (s : BitVec 3)
  /-- Stalls S until the named knot's set is empty (R186). -/
  | sKwait (t : BitVec 4) (k : BitVec 5)
  /-- Empties a knot's set without waiting (R186). -/
  | sKclr (t : BitVec 4) (k : BitVec 5)
  /-- Sends a remote invocation to a bank element and waits for its result (R187). -/
  | sRinv (t : BitVec 4) (d : BitVec 5) (a : BitVec 5) (b : BitVec 5) (i : BitVec 5)
  /-- Unconditional branch, pushing steer entries when fanned (R188). -/
  | sB (t : BitVec 4) (f : BitVec 1) (d : BitVec 11)
  /-- Branch if ra equals zero (R188). -/
  | sBeqz (t : BitVec 4) (f : BitVec 1) (a : BitVec 5) (d : BitVec 11)
  /-- Branch if ra is not zero (R188). -/
  | sBnez (t : BitVec 4) (f : BitVec 1) (a : BitVec 5) (d : BitVec 11)
  /-- Branch if ra is below zero (R188). -/
  | sBltz (t : BitVec 4) (f : BitVec 1) (a : BitVec 5) (d : BitVec 11)
  /-- Branch if ra is zero or more (R188). -/
  | sBgez (t : BitVec 4) (f : BitVec 1) (a : BitVec 5) (d : BitVec 11)
  /-- Branch if ra is above zero (R188). -/
  | sBgtz (t : BitVec 4) (f : BitVec 1) (a : BitVec 5) (d : BitVec 11)
  /-- Branch if ra is zero or less (R188). -/
  | sBlez (t : BitVec 4) (f : BitVec 1) (a : BitVec 5) (d : BitVec 11)
  /-- Pops bq into ra and branches always (R188). -/
  | sBqb (t : BitVec 4) (f : BitVec 1) (a : BitVec 5) (d : BitVec 11)
  /-- Pops bq and branches if the value is zero (R188). -/
  | sBqbEqz (t : BitVec 4) (f : BitVec 1) (a : BitVec 5) (d : BitVec 11)
  /-- Pops bq and branches if the value is not zero (R188). -/
  | sBqbNez (t : BitVec 4) (f : BitVec 1) (a : BitVec 5) (d : BitVec 11)
  /-- Pops bq and branches if the value is below zero (R188). -/
  | sBqbLtz (t : BitVec 4) (f : BitVec 1) (a : BitVec 5) (d : BitVec 11)
  /-- Pops bq and branches if the value is zero or more (R188). -/
  | sBqbGez (t : BitVec 4) (f : BitVec 1) (a : BitVec 5) (d : BitVec 11)
  /-- Pops bq and branches if the value is above zero (R188). -/
  | sBqbGtz (t : BitVec 4) (f : BitVec 1) (a : BitVec 5) (d : BitVec 11)
  /-- Pops bq and branches if the value is zero or less (R188). -/
  | sBqbLez (t : BitVec 4) (f : BitVec 1) (a : BitVec 5) (d : BitVec 11)
  /-- Jumps to a displacement and saves the return address (R189). -/
  | sJal (t : BitVec 4) (d : BitVec 5) (i : BitVec 15)
  /-- Jumps to a register plus offset and saves the return address (R189). -/
  | sJalr (t : BitVec 4) (d : BitVec 5) (a : BitVec 5) (i : BitVec 10)
  /-- Writes a register into a field of a stream descriptor (R190). -/
  | sSdw (t : BitVec 4) (s : BitVec 4) (f : BitVec 6) (a : BitVec 5)
  /-- Writes a register into a field of the loop-nest table's lining (R191). -/
  | sMtw (t : BitVec 4) (l : BitVec 3) (f : BitVec 3) (a : BitVec 5)
  /-- Sends a control token to an element port over the control network (R192). -/
  | sInj (t : BitVec 4) (a : BitVec 5) (x : BitVec 4) (y : BitVec 4) (p : BitVec 6)
  /-- Raises ECALL with TPCS at the next word (R193). -/
  | sEcall (t : BitVec 4)
  /-- Returns from a trap, resuming, restarting, or ending the task, sequence or launch as ACT gives (R344). -/
  | sEret (t : BitVec 4)
  /-- S waits until a push into a y queue or bq, a tack toward S, or a trap (R193). -/
  | sPark (t : BitVec 4)
  /-- Lets the core's other ready threads issue first (R193). -/
  | sYield (t : BitVec 4)
  /-- Raises BREAK with TPCS at the next word (R193). -/
  | sBreak (t : BitVec 4)
  /-- Stops the engine that reaches it, which then waits for the end of the task (R18). -/
  | sEnd (t : BitVec 4)
  /-- Does nothing (R193). -/
  | sNop (t : BitVec 4)
  /-- Reads a system register into rd (R194). -/
  | sMvfs (t : BitVec 4) (d : BitVec 5) (r : BitVec 10)
  /-- Writes a register into a system register field by field (R194). -/
  | sMvts (t : BitVec 4) (a : BitVec 5) (r : BitVec 10)
  /-- Sets a barrier's target and clears its count and pending bytes (R195). -/
  | sBarInit (t : BitVec 4) (a : BitVec 5) (b : BitVec 5)
  /-- Sends an arrival to a barrier and returns its phase (R195). -/
  | sBarArv (t : BitVec 4) (d : BitVec 5) (a : BitVec 5)
  /-- Waits until a barrier's phase reaches the given value (R195). -/
  | sBarWait (t : BitVec 4) (a : BitVec 5) (b : BitVec 5)
  /-- Adds pending bytes to a barrier as a start event (R195). -/
  | sBarAddb (t : BitVec 4) (a : BitVec 5) (b : BitVec 5)
  /-- Posts a launch record to a launch queue and returns the hub's answer (R197). -/
  | sLnch (t : BitVec 4) (d : BitVec 5) (a : BitVec 5) (b : BitVec 5)
  /-- Waits until a notify register has a masked bit set and returns its value (R196). -/
  | sWfn (t : BitVec 4) (d : BitVec 5) (a : BitVec 5) (b : BitVec 5)
  /-- ORs bits into a notify register (R196). -/
  | sNsig (t : BitVec 4) (a : BitVec 5) (b : BitVec 5)
  /-- Clears bits of a notify register (R196). -/
  | sNclr (t : BitVec 4) (a : BitVec 5) (b : BitVec 5)
  /-- Records a request to cut the piece at the next seam (R198). -/
  | sPcut (t : BitVec 4) (a : BitVec 5)
  /-- Records a request to join the piece into a larger shape at the next seam (R198). -/
  | sPjoin (t : BitVec 4) (a : BitVec 5)
  /-- Returns the present shape and the last reshape result (R198). -/
  | sPqry (t : BitVec 4) (d : BitVec 5)
  /-- Invalidates translations of one page and ASID in every cache of the package (R199). -/
  | sTlbiVa (t : BitVec 4) (a : BitVec 5) (b : BitVec 5)
  /-- Invalidates every translation of an ASID (R199). -/
  | sTlbiAsid (t : BitVec 4) (b : BitVec 5)
  /-- Invalidates every translation (R199). -/
  | sTlbiAll (t : BitVec 4)
  /-- Asks the hub to turn a turn table entry and returns TURNS (R200). -/
  | sTurn (t : BitVec 4) (d : BitVec 5) (a : BitVec 5)
  /-- Clears an event counter and selects the event it counts (R201). -/
  | sCnt (t : BitVec 4) (a : BitVec 5) (b : BitVec 5)
  /-- Checks a descriptor, takes a slot and starts or queues its stream (R211). -/
  | cGo (t : BitVec 4) (s : BitVec 4)
  /-- Ends every stream of a descriptor early (R212). -/
  | cStop (t : BitVec 4) (s : BitVec 4)
  /-- Waits for every stream of a descriptor to end with its writes performed (R211). -/
  | cWait (t : BitVec 4) (s : BitVec 4)
  /-- Waits for every stream of the piece to end with its writes performed (R211). -/
  | cWaitAll (t : BitVec 4)
  /-- Adds credit to the running stream of a descriptor (R211). -/
  | cAdv (t : BitVec 4) (s : BitVec 4) (n : BitVec 16)
  /-- Arrives at the barrier bound to a descriptor register (R211). -/
  | cBar (t : BitVec 4) (s : BitVec 4)
  /-- Writes a journal checkpoint once earlier updates are applied (R214). -/
  | cJrnl (t : BitVec 4) (s : BitVec 4)
  /-- Pushes the running stream's partial token or ec8 unit at once (R211). -/
  | cFlush (t : BitVec 4) (s : BitVec 4)
  /-- Pushes a hem into an outgoing link queue (R211). -/
  | cLnk (t : BitVec 4) (l : BitVec 3) (q : BitVec 8)
  /-- Orders operations of earlier streams before those of later streams at a scope (R213). -/
  | cFence (t : BitVec 4) (s : BitVec 3)
  /-- Sets the priority of every stream of a descriptor (R211). -/
  | cPri (t : BitVec 4) (s : BitVec 4) (p : BitVec 3)
  /-- Repeats the next C words a given number of times (R215). -/
  | cRep (t : BitVec 4) (l : BitVec 5) (c : BitVec 12)
  /-- Turns the loop-nest table and starts the nest (R229). -/
  | mGo (t : BitVec 4) (l : BitVec 3) (r : BitVec 9)
  /-- Waits until no nest runs and every drain has completed (R230). -/
  | mWait (t : BitVec 4)
  /-- Fills the B lining of every core from its B binding (R222). -/
  | mLdb (t : BitVec 4) (k : BitVec 7)
  /-- Swaps the B face and lining (R217). -/
  | mSwb (t : BitVec 4)
  /-- Makes passes for a range of accumulator rows (R224). -/
  | mMma (t : BitVec 4) (n : BitVec 9) (r : BitVec 9)
  /-- Drains a range of accumulator rows to the result binding (R225). -/
  | mDrn (t : BitVec 4) (n : BitVec 9) (r : BitVec 9)
  /-- Sets a range of accumulator rows to zero (R225). -/
  | mZero (t : BitVec 4) (n : BitVec 9) (r : BitVec 9)
  /-- Sets the A format, B format and drain form (R220). -/
  | mFmt (t : BitVec 4) (f : BitVec 2) (b : BitVec 4) (a : BitVec 4)
  /-- Loads the scale registers from a source (R226). -/
  | mScl (t : BitVec 4) (s : BitVec 10)
  /-- Sets every scale register to 1.0 (R226). -/
  | mSclOne (t : BitVec 4)
  /-- Binds an operand role to a queue, link queue or edge port (R221). -/
  | mBind (t : BitVec 4) (r : BitVec 3) (o : BitVec 2) (s : BitVec 10)
  /-- Binds the result to a memory stream descriptor (R221). -/
  | mBindMem (t : BitVec 4) (d : BitVec 4)
  /-- Unbinds an operand role (R221). -/
  | mUnbind (t : BitVec 4) (r : BitVec 3) (o : BitVec 2)
  /-- Marks the face, lining or both as held across seams (R227). -/
  | mKeep (t : BitVec 4) (n : BitVec 1) (f : BitVec 1)
  /-- Releases the named B planes and clears their hold (R227). -/
  | mKeepRelease (t : BitVec 4) (n : BitVec 1) (f : BitVec 1)
  /-- Runs the toile product on every core and compares signatures (R231). -/
  | mToil (t : BitVec 4)
  /-- Repeats the next M words a given number of times (R215). -/
  | mRep (t : BitVec 4) (l : BitVec 5) (c : BitVec 12)
  /-- Checks and loads a fabric image into the block's linings (R246). -/
  | fCfgl (t : BitVec 4) (o : BitVec 21)
  /-- Marks input edge ports to insert a turn token behind the next level-0 hem (R248). -/
  | fTurn (t : BitVec 4)
  /-- Marks input edge ports to insert a turn token at once (R248). -/
  | fTurnNow (t : BitVec 4)
  /-- Makes an input port convert its next data token into a kset token (R252). -/
  | fKset (t : BitVec 4) (e : BitVec 6)
  /-- Makes an edge port insert a hem after a number of further tokens (R253). -/
  | fHem (t : BitVec 4) (n : BitVec 8) (l : BitVec 3) (e : BitVec 6)
  /-- Starts the element block (R247). -/
  | fArm (t : BitVec 4)
  /-- Stops the element block (R247). -/
  | fStop (t : BitVec 4)
  /-- Waits until the turn in progress has reached every sink (R250). -/
  | fWdr (t : BitVec 4)
  /-- Maps an element's status word to a sink register (R255). -/
  | fSink (t : BitVec 4) (y : BitVec 4) (x : BitVec 4) (n : BitVec 6)
  /-- Clears the status word mapped to a sink register (R255). -/
  | fSinkClr (t : BitVec 4) (n : BitVec 6)
  /-- Sets a field width of the tag layout word in every element (R254). -/
  | fTag (t : BitVec 4) (w : BitVec 5) (f : BitVec 3)
  /-- Clears every tag counter (R254). -/
  | fTagClr (t : BitVec 4)
  /-- Sets a tag field width and clears every tag counter (R254). -/
  | fTagSetClr (t : BitVec 4) (w : BitVec 5) (f : BitVec 3)
  /-- Writes a pleat descriptor into an element's lining (R256). -/
  | fPleat (t : BitVec 4) (p : BitVec 6) (y : BitVec 4) (x : BitVec 4)
  /-- An element fires a move to a non-trigger port, applying LANES and TAGACT (R241). -/
  | move (g : BitVec 3) (s : BitVec 6) (d : BitVec 6) (l : BitVec 4) (t : BitVec 2)
  /-- Intersection delivers the matching lane pairs of two sparse inputs at pr.a and pr.b (R265). -/
  | isect (s : BitVec 6) (p : BitVec 8)
  /-- Integer add modulo 2^32 (R258). -/
  | add (g : BitVec 3) (s : BitVec 6) (l : BitVec 4) (t : BitVec 2) (i : BitVec 8)
  /-- Integer subtract modulo 2^32 (R258). -/
  | sub (g : BitVec 3) (s : BitVec 6) (l : BitVec 4) (t : BitVec 2) (i : BitVec 8)
  /-- Bitwise AND (R258). -/
  | and (g : BitVec 3) (s : BitVec 6) (l : BitVec 4) (t : BitVec 2) (i : BitVec 8)
  /-- Bitwise OR (R258). -/
  | or (g : BitVec 3) (s : BitVec 6) (l : BitVec 4) (t : BitVec 2) (i : BitVec 8)
  /-- Bitwise XOR (R258). -/
  | xor (g : BitVec 3) (s : BitVec 6) (l : BitVec 4) (t : BitVec 2) (i : BitVec 8)
  /-- Shift left by b[4:0] (R258). -/
  | shl (g : BitVec 3) (s : BitVec 6) (l : BitVec 4) (t : BitVec 2) (i : BitVec 8)
  /-- Logical shift right (R258). -/
  | shr (g : BitVec 3) (s : BitVec 6) (l : BitVec 4) (t : BitVec 2) (i : BitVec 8)
  /-- Arithmetic shift right (R258). -/
  | sar (g : BitVec 3) (s : BitVec 6) (l : BitVec 4) (t : BitVec 2) (i : BitVec 8)
  /-- Signed integer minimum (R258). -/
  | min (g : BitVec 3) (s : BitVec 6) (l : BitVec 4) (t : BitVec 2) (i : BitVec 8)
  /-- Signed integer maximum (R258). -/
  | max (g : BitVec 3) (s : BitVec 6) (l : BitVec 4) (t : BitVec 2) (i : BitVec 8)
  /-- Integer equality compare (R258). -/
  | ceq (g : BitVec 3) (s : BitVec 6) (l : BitVec 4) (t : BitVec 2) (i : BitVec 8)
  /-- Signed less-than compare (R258). -/
  | clt (g : BitVec 3) (s : BitVec 6) (l : BitVec 4) (t : BitVec 2) (i : BitVec 8)
  /-- Signed less-or-equal compare (R258). -/
  | cle (g : BitVec 3) (s : BitVec 6) (l : BitVec 4) (t : BitVec 2) (i : BitVec 8)
  /-- Saturating integer add (R258). -/
  | adds (g : BitVec 3) (s : BitVec 6) (l : BitVec 4) (t : BitVec 2) (i : BitVec 8)
  /-- Saturating integer subtract (R258). -/
  | subs (g : BitVec 3) (s : BitVec 6) (l : BitVec 4) (t : BitVec 2) (i : BitVec 8)
  /-- Multiply by a constant, shift right with rounding and saturate (R258). -/
  | mulsr (g : BitVec 3) (s : BitVec 6) (l : BitVec 4) (t : BitVec 2) (k : BitVec 3) (r : BitVec 5)
  /-- Selects alu.b or alu.c by the first operand (R258). -/
  | sel (g : BitVec 3) (s : BitVec 6) (l : BitVec 4) (t : BitVec 2)
  /-- Saturating absolute value (R258). -/
  | abs (g : BitVec 3) (s : BitVec 6) (l : BitVec 4) (t : BitVec 2)
  /-- Saturating negation (R258). -/
  | neg (g : BitVec 3) (s : BitVec 6) (l : BitVec 4) (t : BitVec 2)
  /-- Integer to wif conversion (R141). -/
  | cvtIf (g : BitVec 3) (s : BitVec 6) (l : BitVec 4) (t : BitVec 2)
  /-- Wif to saturated integer conversion, ties to even (R141). -/
  | cvtFi (g : BitVec 3) (s : BitVec 6) (l : BitVec 4) (t : BitVec 2)
  /-- Passes the token unchanged (R258). -/
  | pass (g : BitVec 3) (s : BitVec 6) (l : BitVec 4) (t : BitVec 2)
  /-- Wif add (R259). -/
  | fadd (g : BitVec 3) (s : BitVec 6) (l : BitVec 4) (t : BitVec 2) (i : BitVec 8)
  /-- Wif subtract (R259). -/
  | fsub (g : BitVec 3) (s : BitVec 6) (l : BitVec 4) (t : BitVec 2) (i : BitVec 8)
  /-- Wif multiply (R259). -/
  | fmul (g : BitVec 3) (s : BitVec 6) (l : BitVec 4) (t : BitVec 2) (i : BitVec 8)
  /-- Fused multiply-add a times b plus c (R259). -/
  | fma (g : BitVec 3) (s : BitVec 6) (l : BitVec 4) (t : BitVec 2)
  /-- Fused c minus a times b (R259). -/
  | fnma (g : BitVec 3) (s : BitVec 6) (l : BitVec 4) (t : BitVec 2)
  /-- Wif minimum (R259). -/
  | fmin (g : BitVec 3) (s : BitVec 6) (l : BitVec 4) (t : BitVec 2) (i : BitVec 8)
  /-- Wif maximum (R259). -/
  | fmax (g : BitVec 3) (s : BitVec 6) (l : BitVec 4) (t : BitVec 2) (i : BitVec 8)
  /-- Clips a between two constant bounds (R259). -/
  | fclip (g : BitVec 3) (s : BitVec 6) (l : BitVec 4) (t : BitVec 2) (h : BitVec 3) (lo : BitVec 3)
  /-- Wif less-than compare (R259). -/
  | fclt (g : BitVec 3) (s : BitVec 6) (l : BitVec 4) (t : BitVec 2) (i : BitVec 8)
  /-- Wif less-or-equal compare (R259). -/
  | fcle (g : BitVec 3) (s : BitVec 6) (l : BitVec 4) (t : BitVec 2) (i : BitVec 8)
  /-- Wif equality compare (R259). -/
  | fceq (g : BitVec 3) (s : BitVec 6) (l : BitVec 4) (t : BitVec 2) (i : BitVec 8)
  /-- Special function 2^x (R260). -/
  | exp2 (g : BitVec 3) (s : BitVec 6) (l : BitVec 4) (t : BitVec 2)
  /-- Special function log2 (R260). -/
  | log2 (g : BitVec 3) (s : BitVec 6) (l : BitVec 4) (t : BitVec 2)
  /-- Reciprocal (R260). -/
  | rcp (g : BitVec 3) (s : BitVec 6) (l : BitVec 4) (t : BitVec 2)
  /-- Reciprocal square root (R260). -/
  | rsqrt (g : BitVec 3) (s : BitVec 6) (l : BitVec 4) (t : BitVec 2)
  /-- Correctly rounded square root (R260). -/
  | sqrt (g : BitVec 3) (s : BitVec 6) (l : BitVec 4) (t : BitVec 2)
  /-- Hyperbolic tangent (R260). -/
  | tanh (g : BitVec 3) (s : BitVec 6) (l : BitVec 4) (t : BitVec 2)
  /-- Logistic sigmoid (R260). -/
  | sigm (g : BitVec 3) (s : BitVec 6) (l : BitVec 4) (t : BitVec 2)
  /-- Sum of the valid lanes into lane 0 (R261). -/
  | lsum (g : BitVec 3) (s : BitVec 6) (l : BitVec 4) (t : BitVec 2) (f : BitVec 1)
  /-- Maximum of the valid lanes into lane 0 (R261). -/
  | lmax (g : BitVec 3) (s : BitVec 6) (l : BitVec 4) (t : BitVec 2) (f : BitVec 1)
  /-- Minimum of the valid lanes into lane 0 (R261). -/
  | lmin (g : BitVec 3) (s : BitVec 6) (l : BitVec 4) (t : BitVec 2) (f : BitVec 1)
  /-- Counts the valid lanes (R261). -/
  | cnt (g : BitVec 3) (s : BitVec 6) (l : BitVec 4) (t : BitVec 2)
  /-- Running 16-lane sum over a fibre, emitted at its hem (R261). -/
  | acc (g : BitVec 3) (s : BitVec 6) (l : BitVec 4) (t : BitVec 2) (f : BitVec 1)
  /-- Running lane-wise maximum over a fibre (R261). -/
  | accm (g : BitVec 3) (s : BitVec 6) (l : BitVec 4) (t : BitVec 2) (f : BitVec 1)
  /-- Emits each token with its lanes replaced by the running sum (R261). -/
  | scan (g : BitVec 3) (s : BitVec 6) (l : BitVec 4) (t : BitVec 2) (f : BitVec 1)
  /-- Squeezes out invalid lanes and fills output tokens, optionally with coordinates (R262). -/
  | pack (g : BitVec 3) (s : BitVec 6) (l : BitVec 4) (t : BitVec 2) (z : BitVec 1) (c : BitVec 1)
  /-- Emits one token per valid lane (R262). -/
  | unpk (g : BitVec 3) (s : BitVec 6) (l : BitVec 4) (t : BitVec 2)
  /-- Buffers lanes and emits them reordered by a constant counter (R263). -/
  | reord (g : BitVec 3) (s : BitVec 6) (l : BitVec 4) (t : BitVec 2) (k : BitVec 3)
  /-- Merges two key-sorted streams (R264). -/
  | merge2 (g : BitVec 3) (s : BitVec 6) (l : BitVec 4) (t : BitVec 2)
  /-- Emits left and right values over the union of keys (R264). -/
  | union (g : BitVec 3) (s : BitVec 6) (l : BitVec 4) (t : BitVec 2)
  /-- Routes data to one of two outputs by a control token (R266). -/
  | steer (g : BitVec 3) (s : BitVec 6) (l : BitVec 4) (t : BitVec 2)
  /-- Emits the head of one of two inputs chosen by a control token (R266). -/
  | mrg (g : BitVec 3) (s : BitVec 6) (l : BitVec 4) (t : BitVec 2)
  /-- Copies a token to both outputs (R266). -/
  | dup (g : BitVec 3) (s : BitVec 6) (l : BitVec 4) (t : BitVec 2)
  /-- Emits the k largest entries of a fibre at its hem (R267). -/
  | topk (g : BitVec 3) (s : BitVec 6) (l : BitVec 4) (t : BitVec 2) (k : BitVec 7)
  /-- Accumulates sparse lanes into 512 slots and emits them sorted at a hem (R268). -/
  | spa (g : BitVec 3) (s : BitVec 6) (l : BitVec 4) (t : BitVec 2)
  /-- Multiplies a row vector by the stationary tile (R269). -/
  | tile (g : BitVec 3) (s : BitVec 6) (l : BitVec 4) (t : BitVec 2) (x : BitVec 1)
  /-- Swaps the stationary tiles and resets their row counters (R269). -/
  | swst (g : BitVec 3) (s : BitVec 6) (l : BitVec 4) (t : BitVec 2)
  /-- Gathers elements from memory at indexed addresses (R270). -/
  | gthr (g : BitVec 3) (s : BitVec 6) (l : BitVec 4) (t : BitVec 2)
  /-- Sends scatter updates of sparse lanes to memory (R270). -/
  | sctr (g : BitVec 3) (s : BitVec 6) (l : BitVec 4) (t : BitVec 2) (o : BitVec 2)
  /-- Applies read-modify-write updates on a bank element's own bank (R270). -/
  | rmw (g : BitVec 3) (s : BitVec 6) (l : BitVec 4) (t : BitVec 2) (o : BitVec 2)
  /-- An address generator fills a reserved q entry with the converted token when its reads return (R28). -/
  | queueLoadDeliver (p id : Nat)
  /-- Data of an earlier S load arrives and is written to its register, poisoned on an uncorrectable error (R167). -/
  | loadDataReturn (p id : Nat) (fwd : Bool)
  /-- An injected control token reaches its element port buffer and is applied (R243). -/
  | controlTokenArrive (p : Nat)
  /-- Once earlier lining writes have performed, the hub writes SEL and increments TURNS, releasing held accesses (R112). -/
  | hubTurn (n : Nat)
  /-- An address generator serves a running stream for one fabric cycle, moving up to 64 bytes (R207). -/
  | streamTransfer (p k : Nat)
  /-- A stream's writes have performed, its slot becomes FREE and a queued stream of its descriptor starts (R207). -/
  | streamEnd (p k : Nat)
  /-- A bank element applies one scatter update atomically (R84). -/
  | scatterUpdate (id : Nat)
  /-- A bank element applies an arrive, start or land event and tests for completion (R88). -/
  | barrierEventApply (id : Nat)
  /-- A nest makes one pass once its A and C rows are present (R229). -/
  | nestPass (p : Nat)
  /-- A drain pushes the next token when its destination has room (R225). -/
  | drainTokenPush (p : Nat)
  /-- An element operation delivers its result into its result register after its latency (R257). -/
  | operationResult (p e u : Nat)
  /-- A token crosses a neighbour link into the receiver's buffer when it has room (R240). -/
  | tokenLinkHop (p e d : Nat)
  /-- An edge port moves a token between a queue and its element (R237). -/
  | edgePortTransfer (p port : Nat)
  /-- An element with turn tokens on every bound input swaps face and lining and forwards one turn (R249). -/
  | elementTurn (p e : Nat)
  /-- An element writes constants from a kset at the head of an input and forwards it (R252). -/
  | ksetHandle (p e d : Nat)
  /-- An element idle for 16 fabric cycles is clock-gated (R274). -/
  | elementClockGate (p e : Nat)
  /-- An element idle for 2^16 cycles is power-gated with retention (R274). -/
  | elementPowerGate (p e : Nat)
  /-- A gated element finishes waking and takes waiting tokens (R274). -/
  | elementWake (p e : Nat)
  /-- The piece's stall count reaches WDOG.LIMIT and WATCHDOG is raised (R273). -/
  | watchdog (p : Nat)
  /-- A raised trap is delivered to S at an instruction boundary and S enters the handler (R342). -/
  | trapDelivery (p : Nat)
  /-- After the last engine reaches s.end and its words retire, the task ends at a seam and the next task starts (R347). -/
  | taskEnd (p : Nat)
  /-- A tail write is checked and accepted or discarded (R41). -/
  | lqtailWrite (ag : HubAgent) (n : Nat) (v : W64)
  /-- The hub reads and checks posted records and advances HEAD (R42). -/
  | launchRecordRead (n : Nat)
  /-- A waiting launch's last wait is met and it becomes READY (R47). -/
  | launchWaitMet (l : Nat)
  /-- After 2^24 ungranted cycles a launch's effective priority rises by one (R51). -/
  | agingStep (l : Nat)
  /-- The hub reserves a position for a higher-priority launch (R56). -/
  | pieceReserve (l : Nat)
  /-- The allocator grants a fitting piece and the sequence's task starts (R55). -/
  | pieceGrant (l : Nat)
  /-- A reserved piece is switched out at its seam and its context saved (R349). -/
  | switchOut (p : Nat)
  /-- A pre-empted sequence's context is restored on a new piece (R354). -/
  | sequenceResume (l : Nat)
  /-- When every task has ended the launch's writes are made visible and DONE is advanced (R48). -/
  | launchDone (l : Nat)
  /-- A write replaces a notify register's value and wakes waits (R89). -/
  | notifyWriteReplace (ag : HubAgent) (n : Nat) (v : W64)
  /-- A write ORs bits into a notify register and wakes waits (R89). -/
  | notifyWriteOr (ag : HubAgent) (n : Nat) (v : W64)
  /-- A write adds to a notify register and wakes waits (R89). -/
  | notifyWriteAdd (ag : HubAgent) (n : Nat) (v : W64)
  /-- Starts loading a remote-atomic subgraph into a bank element (R85). -/
  | subgraphLoad (ag : HubAgent) (v : W64)
  /-- Starts unloading a subgraph from a bank element (R85). -/
  | subgraphUnload (ag : HubAgent) (v : W64)
  /-- A subgraph load or unload completes and SGSTAT reports its status (R85). -/
  | subgraphLoadDone
  /-- A bank element fires a subgraph for an invocation and returns the result (R116). -/
  | remoteSubgraphFire (id : Nat)
  /-- Setting a move entry valid holds covered remote requests (R363). -/
  | moveHold (ag : HubAgent) (i : Nat)
  /-- Setting FWD applies held and later requests at the destination (R364). -/
  | moveForward (ag : HubAgent) (i : Nat)
  /-- Clearing V ends the move entry (R364). -/
  | moveEnd (ag : HubAgent) (i : Nat)
  /-- A request held for 2^20 cycles is answered with status 0x03 (R364). -/
  | moveHoldExpire (id : Nat)
  /-- Loads a domain's keys from a wrapped blob (R399). -/
  | keyLoad (ag : HubAgent) (v : W64)
  /-- Revokes a domain, ending its launches and bindings and zeroing its keys (R400). -/
  | keyRevoke (ag : HubAgent) (v : W64)
  /-- A key request finishes and KEYSTAT reports its status (R399). -/
  | keyRequestComplete (ok : Bool)
  /-- A read of DBGREQ returns a fresh nonce and invalidates earlier ones (R301). -/
  | debugNonceRead (ag : HubAgent)
  /-- A DBGREQ write verifies a token and grants or refuses a debug level (R306). -/
  | debugRequest (ag : HubAgent) (v : W64)
  /-- A D2 debugger halts an access thread at an instruction boundary (R301). -/
  | debugHalt (p : Nat)
  /-- An ATTREQ write asks for a signed attestation report (R298). -/
  | attestRequest (ag : HubAgent) (v : W64)
  /-- A signed command moves the lifecycle state forward (R300). -/
  | lifecycleTransition (lc : BitVec 2) (signed : Bool)
  /-- A signed request extends measurement registers 4 to 15 (R297). -/
  | measurementExtend (i : Nat) (digest : BitVec 256)
  /-- Requests entry to RETAIN (R303). -/
  | pwrEnterRetain (ag : HubAgent)
  /-- Requests entry to DOWN (R303). -/
  | pwrEnterDown (ag : HubAgent)
  /-- Requests a wake from RETAIN (R303). -/
  | pwrWake (ag : HubAgent)
  /-- The wake re-measures firmware and reaches BASTING or stays at SVC 0 (R404). -/
  | wakeRemeasure (ok : Bool) (lost : BitVec 8) (dMgmt dSide dBank : BitVec 256)
  /-- Power-good starts boot in the always-on domain (R296). -/
  | powerGood
  /-- Supply removal takes the part to DOWN (R303). -/
  | powerRemoved
  /-- The boot ROM verifies and measures the management core firmware (R296). -/
  | managementFirmwareVerify (ok : Bool) (digest : BitVec 256)
  /-- LPDDR6 training and firmware checks complete and panel 0 starts in basting service (R296). -/
  | bastingStart (fwOk lpOk p0Ok : Bool) (lpcap : BitVec 8) (dSide dBank : BitVec 256)
  /-- Stack and link training and the other panels complete, giving FULL or DEGRADED (R296). -/
  | fullServiceStart (stk : BitVec 8) (panels : BitVec 4) (lanes : BitVec 512)
  /-- A block whose sensor passes 105 C halves its cadence (R302). -/
  | blockCadenceHalve (b : Nat)
  /-- A block returns to full cadence below 95 C (R302). -/
  | blockCadenceRestore (b : Nat)
  /-- A block idle for 2^16 cycles power-gates with retention (R302). -/
  | blockPowerGate (b : Nat)
  /-- A consumer's ERRTAIL write frees ring room for held records (R357). -/
  | errtailWrite (ag : HubAgent) (v : W64)
  /-- A write to a register with no behaviour of its own sets its fields by access code (R3). -/
  | registerWrite (ag : HubAgent) (off : Nat) (v : W64)
  /-- A host read of LPDDR6 or the hub window at system scope (R117). -/
  | hostMemoryRead (f : Bool) (addr n : Nat)
  /-- A host write of LPDDR6 or the hub window at system scope (R117). -/
  | hostMemoryWrite (f : Bool) (addr : Nat) (bytes : List Byte)
  /-- A sidecar core's access to local memory through the wall checker, or its fence (R118, R294). -/
  | sidecarMemoryAccess (core : Nat) (op : SideOp) (addr n : Nat) (v : W64)
  /-- The hub claims a free pair and sends its bind flit (R279). -/
  | pairClaim (l i : Nat)
  /-- A peer's bind flit or answer completes a binding (R279). -/
  | bindFlitReceive (pair pkg : Nat) (bindid : Word32) (dom : BitVec 4) (what : BindMsg)
  /-- Bindings incomplete after 2^28 cycles end the launch (R279). -/
  | bindingTimeout (l : Nat)
  /-- Once every flit is acknowledged the hub sends an unbind flit and BOUND clears (R280). -/
  | pairRelease (pair : Nat)
  /-- A link queue token leaves its send buffer when a credit is held (R282). -/
  | linkTokenSend (k : Nat)
  /-- A flit arrives, is checked by CRC and updates ACK, NAK and credits (R284). -/
  | flitReceive (g : Nat) (payload : List Byte) (trailer : BitVec 72)
  /-- No ACK for 4,096 cycles makes the group resend from its oldest flit (R285). -/
  | replayTimeout (g : Nat)
  /-- Retraining after replay exhaustion ends and sending resumes (R393). -/
  | groupRetrainComplete (g : Nat) (failed : BitVec 16)
  /-- A lane without block lock for 2^14 cycles is taken out of service at both ends (R390). -/
  | laneLost (port lane : Nat)
  /-- A borrowed lane finishes turning round and serves its group (R391). -/
  | laneTurnaroundComplete (port lane : Nat) (ok : Bool)
  /-- A stream frame is tag-checked, decrypted and placed in the receive buffer (R291). -/
  | streamFrameReceive (pair : Nat)
  /-- A die-to-die token becomes available to the consumer (R281). -/
  | dieToDieTokenArrive (k : Nat)
  /-- The target's memory server writes a ciphertext line and tag (R288). -/
  | remoteStoreLine (pair : Nat)
  /-- The target merges masked bytes into a line and re-encrypts it (R288). -/
  | remoteStorePartial (pair : Nat)
  /-- The target reads a line and returns its stored form (R287). -/
  | remoteLoad (pair : Nat)
  /-- The target decrypts an invocation and hands it to a bank element (R288). -/
  | remoteInvoke (pair : Nat)
  /-- A remote load reply is tag-checked and decrypted at the requester (R290). -/
  | loadReply (pair : Nat)
  /-- A store acknowledgement settles remote stores and reports failures (R365). -/
  | storeAcknowledgement (pair : Nat)
  /-- An invocation result returns to the waiting S word (R187). -/
  | invokeResult (pair : Nat)
  /-- A remote request without reply for 2^22 cycles acts as status 0x10 (R396). -/
  | remoteReplyTimeout (id : Nat)
  /-- A write handed earlier to the memory system performs at a scope instance, leaving its knot sets and releasing fences, releases, c.wait and m.wait that wait on it (R95). -/
  | memoryWritePerform (id : Nat) (scope : BitVec 3)
  /-- A lane receiver loses block lock and starts the 2^14-cycle count after which the lane is lost (R390). -/
  | blockLockLoss (port lane : Nat)
  /-- A lane receiver regains block lock within 2^14 fabric cycles, so the lane stays in service (R390). -/
  | blockLockRegain (port lane : Nat)
  /-- A lane group with no payload sends an idle flit whose trailer carries ACK, NAK and credits (R284). -/
  | idleFlit (g : Nat)
  /-- A power-gated block finishes waking, which takes 400 fabric cycles for the first block and brings the package from QUIET back to ACTIVE (R303). -/
  | blockWake (b : Nat)
  /-- A commanded entry to RETAIN or DOWN completes, after which a kept tail or notify write wakes the part (R307). -/
  | powerStateEntryComplete
  /-- The management core finishes verifying an unlock token, writes DSTAT, spends the nonce and applies or refuses the level (R402). -/
  | debugVerificationComplete (ok : Bool)
  /-- A D2 debugger steps or resumes an access thread halted with DEBUG_HALT (R301). -/
  | debugStep (p : Nat) (resume : Bool)
  /-- The management core finishes signing an attestation report, writes it and sets ATTREQ status (R298). -/
  | attestationReportDone
deriving DecidableEq, Repr

end Sys2Proof
end

