-- ==== Sys2Proof/WellFormed.lean ====
section
/-! DEFINITION. When an instruction is well formed: the checks of R144 that the word alone decides (its tack field,
step 1; reserved selector bits, step 4; operand ranges, step 5) and, for element move words, the checks of R157. -/

namespace Sys2Proof

/-- R23: whether the tack field `t` = W, G, PARTNER of a word of engine `own` is valid. -/
def tackOk (own : Nat) (t : BitVec 4) : Bool :=
  if t.toNat / 4 = 0 then t.toNat % 4 == 0 else t.toNat % 4 != own

/-- R152: the reserved index bits of an operand selector are zero. -/
def selOk (s : BitVec 10) : Bool :=
  match s.toNat / 256 with
  | 0 => s.toNat % 256 < 32
  | 1 => s.toNat % 256 < 16
  | 2 => true
  | _ => s.toNat % 256 < 64

/-- R221: the selector classes each role accepts: A, C and B take q, l and ep; the result takes y, l and ep. -/
def roleOk (role : BitVec 2) (s : BitVec 10) : Bool :=
  if role = 2 then s.toNat / 256 != 0 else s.toNat / 256 != 1

/-- R150: whether a system register number is assigned. -/
def sysRegOk (r : BitVec 10) : Bool :=
  let n := r.toNat
  n == 0 || (0x10 ≤ n && n ≤ 0x17) || (0x20 ≤ n && n ≤ 0x26) || (0x30 ≤ n && n ≤ 0x38) || (0x40 ≤ n && n ≤ 0x42)
    || (0x100 ≤ n && n ≤ 0x13F) || (0x180 ≤ n && n ≤ 0x1BF) || (0x200 ≤ n && n ≤ 0x23F)

/-- R154: whether a port code may be a source. -/
def srcPort (s : BitVec 6) : Bool :=
  let n := s.toNat
  n < 4 || n == 8 || (10 ≤ n && n ≤ 22) || n == 26 || n == 29 || n == 30 || n == 32 || n == 35 || n == 36 || n == 38
    || n == 40 || n == 41

/-- R154: whether a port code may be the destination of a plain move (trigger ports and `isect` apart). -/
def dstPort (d : BitVec 6) : Bool :=
  let n := d.toNat
  (4 ≤ n && n ≤ 7) || n == 9 || (18 ≤ n && n ≤ 21) || n == 23 || n == 24 || n == 25 || n == 27 || n == 28 || n == 31
    || n == 33 || n == 34 || n == 37 || n == 42

/-- R153, R157, R242: guard, source, tag action and their pairing. -/
def moveOk (g : BitVec 3) (s : BitVec 6) (t : BitVec 2) : Bool :=
  g != 7 && t != 3 && srcPort s
    && !((g == 1 || g == 2) && s == 8)
    && (g != 5 || (10 ≤ s.toNat && s.toNat ≤ 21))

/-- R156: the IMM of a binary ALU or FMU operation. -/
def binImmOk (i : BitVec 8) : Bool :=
  match i.toNat / 64 with
  | 0 => i.toNat % 64 == 0
  | 1 => true
  | 2 => i.toNat % 64 < 8
  | _ => false

/-- Whether an instruction is one the part accepts: R144 steps 1, 4 and 5 on the word alone, and R157. -/
def Instr.wf : Instr → Bool
  | .sAdd t _ _ _ | .sSub t _ _ _ | .sAnd t _ _ _ | .sOr t _ _ _ | .sXor t _ _ _ | .sAndn t _ _ _
  | .sSll t _ _ _ | .sSrl t _ _ _ | .sSra t _ _ _ | .sMul t _ _ _ | .sMulh t _ _ _ | .sMulhu t _ _ _
  | .sDiv t _ _ _ | .sDivu t _ _ _ | .sRem t _ _ _ | .sRemu t _ _ _ | .sMin t _ _ _ | .sMax t _ _ _
  | .sMinu t _ _ _ | .sMaxu t _ _ _ | .sSlt t _ _ _ | .sSltu t _ _ _ | .sSeq t _ _ _ | .sSne t _ _ _ => tackOk 0 t
  | .sClz t _ _ | .sCtz t _ _ | .sPopc t _ _ | .sSextB t _ _ | .sSextH t _ _ | .sSextW t _ _ | .sZextW t _ _ => tackOk 0 t
  | .sAddi t _ _ _ | .sAndi t _ _ _ | .sOri t _ _ _ | .sXori t _ _ _ | .sSlti t _ _ _ | .sSltiu t _ _ _
  | .sSlli t _ _ _ | .sSrli t _ _ _ | .sSrai t _ _ _ | .sLui t _ _ | .sSwz t _ _ _ | .sBfx t _ _ _ _
  | .sBfi t _ _ _ _ | .sMadd t _ _ _ => tackOk 0 t
  | .sImx _ => true
  | .sSem _ sc _ _ => sc.toNat ≤ 4
  | .sLdB t _ _ _ _ | .sLdH t _ _ _ _ | .sLdW t _ _ _ _ | .sLdD t _ _ _ _ | .sLdBu t _ _ _ _ | .sLdHu t _ _ _ _
  | .sLdWu t _ _ _ _ | .sStB t _ _ _ _ | .sStH t _ _ _ _ | .sStW t _ _ _ _ | .sStD t _ _ _ _ => tackOk 0 t
  | .sQld t _ _ _ | .sQld1 t _ _ _ | .sQlds t _ _ _ => tackOk 0 t
  | .sQst t q _ _ | .sQst1 t q _ _ | .sQpop t q _ _ | .sQpeek t q _ _ => tackOk 0 t && q.toNat < 16
  | .sQpsh t _ _ => tackOk 0 t
  | .sQcnt t q _ c => tackOk 0 t && (c == 0 || (c == 1 && q.toNat < 16) || (c == 2 && q == 0))
  | .sQdisc t q _ c => tackOk 0 t && (c == 0 || (c == 1 && q.toNat < 16))
  | .sQhem t _ l => tackOk 0 t && l.toNat < 8
  | .sVld t _ _ _ | .sVst t _ _ _ | .sVrc t _ _ => tackOk 0 t
  | .sAmoAdd t _ _ _ _ | .sAmoAnd t _ _ _ _ | .sAmoOr t _ _ _ _ | .sAmoXor t _ _ _ _ | .sAmoMin t _ _ _ _
  | .sAmoMax t _ _ _ _ | .sAmoMinu t _ _ _ _ | .sAmoMaxu t _ _ _ _ | .sAmoSwap t _ _ _ _ | .sAmoFadd t _ _ _ _
  | .sCas t _ _ _ _ => tackOk 0 t
  | .sFence t o sc => tackOk 0 t && o != 0 && sc.toNat ≤ 4
  | .sKwait t k | .sKclr t k => tackOk 0 t && 1 ≤ k.toNat && k.toNat ≤ 7
  | .sRinv t _ _ _ _ => tackOk 0 t
  | .sB t _ _ => tackOk 0 t
  | .sBeqz t _ _ _ | .sBnez t _ _ _ | .sBltz t _ _ _ | .sBgez t _ _ _ | .sBgtz t _ _ _ | .sBlez t _ _ _
  | .sBqb t _ _ _ | .sBqbEqz t _ _ _ | .sBqbNez t _ _ _ | .sBqbLtz t _ _ _ | .sBqbGez t _ _ _ | .sBqbGtz t _ _ _
  | .sBqbLez t _ _ _ => tackOk 0 t
  | .sJal t _ _ => tackOk 0 t
  | .sJalr t _ _ _ => tackOk 0 t
  | .sSdw t _ f _ => tackOk 0 t && f.toNat ≤ 36
  | .sMtw t l f _ => tackOk 0 t && l.toNat ≤ 5 && f.toNat ≤ 4
  | .sInj t _ _ _ p => tackOk 0 t && (p == 8 || (18 ≤ p.toNat && p.toNat ≤ 21))
  | .sEcall t | .sEret t | .sPark t | .sYield t | .sBreak t | .sEnd t | .sNop t => tackOk 0 t
  | .sMvfs t _ r | .sMvts t _ r => tackOk 0 t && sysRegOk r
  | .sBarInit t _ _ | .sBarArv t _ _ | .sBarWait t _ _ | .sBarAddb t _ _ => tackOk 0 t
  | .sLnch t _ _ _ | .sWfn t _ _ _ => tackOk 0 t
  | .sNsig t _ _ | .sNclr t _ _ => tackOk 0 t
  | .sPcut t _ | .sPjoin t _ | .sPqry t _ => tackOk 0 t
  | .sTlbiVa t _ _ | .sTurn t _ _ | .sCnt t _ _ => tackOk 0 t
  | .sTlbiAsid t _ => tackOk 0 t
  | .sTlbiAll t => tackOk 0 t
  | .cGo t _ | .cStop t _ | .cWait t _ | .cBar t _ | .cJrnl t _ | .cFlush t _ => tackOk 1 t
  | .cWaitAll t => tackOk 1 t
  | .cAdv t _ _ | .cLnk t _ _ | .cPri t _ _ => tackOk 1 t
  | .cFence t sc => tackOk 1 t && sc.toNat ≤ 4
  | .cRep t l _ => tackOk 1 t && l != 0
  | .mGo t l _ => tackOk 2 t && l.toNat ≤ 5
  | .mWait t | .mSwb t | .mSclOne t | .mToil t => tackOk 2 t
  | .mLdb t k => tackOk 2 t && k.toNat ≤ 95
  | .mMma t n r | .mDrn t n r | .mZero t n r => tackOk 2 t && r.toNat + n.toNat + 1 ≤ 512
  | .mFmt t f _ _ => tackOk 2 t && f != 3
  | .mScl t s => tackOk 2 t && selOk s && s.toNat / 256 != 1
  | .mBind t r o s => tackOk 2 t && selOk s && roleOk o s && ((o == 0 || o == 3) || r == 0)
  | .mBindMem t _ => tackOk 2 t
  | .mUnbind t r o => tackOk 2 t && ((o == 0 || o == 3) || r == 0)
  | .mKeep t _ _ | .mKeepRelease t _ _ => tackOk 2 t
  | .mRep t l _ => tackOk 2 t && l != 0
  | .fCfgl t _ | .fKset t _ | .fSinkClr t _ => tackOk 3 t
  | .fTurn t | .fTurnNow t | .fArm t | .fStop t | .fWdr t | .fTagClr t => tackOk 3 t
  | .fHem t _ _ _ | .fSink t _ _ _ | .fPleat t _ _ _ => tackOk 3 t
  | .fTag t w f | .fTagSetClr t w f => tackOk 3 t && f.toNat ≤ 5 && w.toNat ≤ 16
  | .move g s d _ t => moveOk g s t && dstPort d
  | .isect s p => s.toNat < 4 && p.toNat < 4 && s.toNat != p.toNat
  | .add g s _ t i | .sub g s _ t i | .and g s _ t i | .or g s _ t i | .xor g s _ t i | .shl g s _ t i | .shr g s _ t i
  | .sar g s _ t i | .min g s _ t i | .max g s _ t i | .ceq g s _ t i | .clt g s _ t i | .cle g s _ t i
  | .adds g s _ t i | .subs g s _ t i => moveOk g s t && binImmOk i
  | .mulsr g s _ t _ _ => moveOk g s t
  | .sel g s _ t | .abs g s _ t | .neg g s _ t | .cvtIf g s _ t | .cvtFi g s _ t | .pass g s _ t => moveOk g s t
  | .fadd g s _ t i | .fsub g s _ t i | .fmul g s _ t i | .fmin g s _ t i | .fmax g s _ t i | .fclt g s _ t i
  | .fcle g s _ t i | .fceq g s _ t i => moveOk g s t && binImmOk i
  | .fma g s _ t | .fnma g s _ t => moveOk g s t
  | .fclip g s _ t _ _ => moveOk g s t
  | .exp2 g s _ t | .log2 g s _ t | .rcp g s _ t | .rsqrt g s _ t | .sqrt g s _ t | .tanh g s _ t | .sigm g s _ t =>
    moveOk g s t
  | .lsum g s _ t _ | .lmax g s _ t _ | .lmin g s _ t _ | .acc g s _ t _ | .accm g s _ t _ | .scan g s _ t _ => moveOk g s t
  | .cnt g s _ t => moveOk g s t
  | .pack g s _ t _ _ => moveOk g s t
  | .unpk g s _ t | .merge2 g s _ t | .union g s _ t | .steer g s _ t | .mrg g s _ t | .dup g s _ t | .spa g s _ t
  | .swst g s _ t | .gthr g s _ t => moveOk g s t
  | .reord g s _ t _ => moveOk g s t
  | .topk g s _ t k => moveOk g s t && 1 ≤ k.toNat && k.toNat ≤ 64
  | .tile g s _ t _ => moveOk g s t
  | .sctr g s _ t _ | .rmw g s _ t _ => moveOk g s t
  | .queueLoadDeliver .. | .loadDataReturn .. | .controlTokenArrive .. | .hubTurn .. | .streamTransfer .. | .streamEnd ..
  | .scatterUpdate .. | .barrierEventApply .. | .nestPass .. | .drainTokenPush .. | .operationResult .. | .tokenLinkHop ..
  | .edgePortTransfer .. | .elementTurn .. | .ksetHandle .. | .elementClockGate .. | .elementPowerGate .. | .elementWake ..
  | .watchdog .. | .trapDelivery .. | .taskEnd .. | .lqtailWrite .. | .launchRecordRead .. | .launchWaitMet .. | .agingStep ..
  | .pieceReserve .. | .pieceGrant .. | .switchOut .. | .sequenceResume .. | .launchDone .. | .notifyWriteReplace ..
  | .notifyWriteOr .. | .notifyWriteAdd .. | .subgraphLoad .. | .subgraphUnload .. | .subgraphLoadDone
  | .remoteSubgraphFire .. | .moveHold .. | .moveForward .. | .moveEnd .. | .moveHoldExpire .. | .keyLoad .. | .keyRevoke ..
  | .keyRequestComplete .. | .debugNonceRead .. | .debugRequest .. | .debugHalt .. | .attestRequest ..
  | .lifecycleTransition .. | .measurementExtend .. | .pwrEnterRetain .. | .pwrEnterDown .. | .pwrWake .. | .wakeRemeasure ..
  | .powerGood | .powerRemoved | .managementFirmwareVerify .. | .bastingStart .. | .fullServiceStart ..
  | .blockCadenceHalve .. | .blockCadenceRestore .. | .blockPowerGate .. | .errtailWrite .. | .registerWrite ..
  | .hostMemoryRead .. | .hostMemoryWrite .. | .sidecarMemoryAccess .. | .pairClaim .. | .bindFlitReceive ..
  | .bindingTimeout .. | .pairRelease .. | .linkTokenSend .. | .flitReceive .. | .replayTimeout ..
  | .groupRetrainComplete .. | .laneLost .. | .laneTurnaroundComplete .. | .streamFrameReceive .. | .dieToDieTokenArrive ..
  | .remoteStoreLine .. | .remoteStorePartial .. | .remoteLoad .. | .remoteInvoke .. | .loadReply ..
  | .storeAcknowledgement .. | .invokeResult .. | .remoteReplyTimeout .. | .memoryWritePerform .. | .blockLockLoss ..
  | .blockLockRegain .. | .idleFlit .. | .blockWake .. | .powerStateEntryComplete | .debugVerificationComplete ..
  | .debugStep .. | .attestationReportDone => true

end Sys2Proof
end

