-- ==== Sys2Proof/Decode.lean ====
section
/-! DEFINITION. The decoder of text words (R144, R146, R148, R151) and of element move words (R153 to R156), total on any
32 bits and rejecting by name; then the encoder of the same tables. -/

namespace Sys2Proof

/-- Why a word is no instruction: the step of R144 whose check fails. All of them raise ILLEGAL. -/
inductive DecodeError where
  /-- R144 step 2: the major opcode or op is unassigned. -/
  | noOp
  /-- R144 step 3 or 4: the function code is unassigned, or a reserved or unused field is not zero. -/
  | noFnOrReserved
  /-- R144 step 1 or 5: the tack field or an operand field is not valid (R23, R152), or R157 refuses the move word. -/
  | badField
deriving DecidableEq, Repr

/-- The `n`-bit field of word `w` whose lowest bit is bit `lo`. -/
def fld (n lo w : Nat) : BitVec n := BitVec.ofNat n (w / 2 ^ lo)

/-- Whether the `n` bits of `w` from bit `lo` hold `v`. -/
def bitsAre (lo n v w : Nat) : Bool := w / 2 ^ lo % 2 ^ n == v

/-- S major 0x0: the words of R169. -/
def decodeS00 (w : Nat) : Option Instr :=
  if bitsAre 0 5 0 w then some (.sAdd (fld 4 26 w) (fld 5 15 w) (fld 5 10 w) (fld 5 5 w)) else
  if bitsAre 0 5 1 w then some (.sSub (fld 4 26 w) (fld 5 15 w) (fld 5 10 w) (fld 5 5 w)) else
  if bitsAre 0 5 2 w then some (.sAnd (fld 4 26 w) (fld 5 15 w) (fld 5 10 w) (fld 5 5 w)) else
  if bitsAre 0 5 3 w then some (.sOr (fld 4 26 w) (fld 5 15 w) (fld 5 10 w) (fld 5 5 w)) else
  if bitsAre 0 5 4 w then some (.sXor (fld 4 26 w) (fld 5 15 w) (fld 5 10 w) (fld 5 5 w)) else
  if bitsAre 0 5 5 w then some (.sAndn (fld 4 26 w) (fld 5 15 w) (fld 5 10 w) (fld 5 5 w)) else
  if bitsAre 0 5 6 w then some (.sSll (fld 4 26 w) (fld 5 15 w) (fld 5 10 w) (fld 5 5 w)) else
  if bitsAre 0 5 7 w then some (.sSrl (fld 4 26 w) (fld 5 15 w) (fld 5 10 w) (fld 5 5 w)) else
  if bitsAre 0 5 8 w then some (.sSra (fld 4 26 w) (fld 5 15 w) (fld 5 10 w) (fld 5 5 w)) else
  if bitsAre 0 5 9 w then some (.sMul (fld 4 26 w) (fld 5 15 w) (fld 5 10 w) (fld 5 5 w)) else
  if bitsAre 0 5 10 w then some (.sMulh (fld 4 26 w) (fld 5 15 w) (fld 5 10 w) (fld 5 5 w)) else
  if bitsAre 0 5 11 w then some (.sMulhu (fld 4 26 w) (fld 5 15 w) (fld 5 10 w) (fld 5 5 w)) else
  if bitsAre 0 5 12 w then some (.sDiv (fld 4 26 w) (fld 5 15 w) (fld 5 10 w) (fld 5 5 w)) else
  if bitsAre 0 5 13 w then some (.sDivu (fld 4 26 w) (fld 5 15 w) (fld 5 10 w) (fld 5 5 w)) else
  if bitsAre 0 5 14 w then some (.sRem (fld 4 26 w) (fld 5 15 w) (fld 5 10 w) (fld 5 5 w)) else
  if bitsAre 0 5 15 w then some (.sRemu (fld 4 26 w) (fld 5 15 w) (fld 5 10 w) (fld 5 5 w)) else
  if bitsAre 0 5 16 w then some (.sMin (fld 4 26 w) (fld 5 15 w) (fld 5 10 w) (fld 5 5 w)) else
  if bitsAre 0 5 17 w then some (.sMax (fld 4 26 w) (fld 5 15 w) (fld 5 10 w) (fld 5 5 w)) else
  if bitsAre 0 5 18 w then some (.sMinu (fld 4 26 w) (fld 5 15 w) (fld 5 10 w) (fld 5 5 w)) else
  if bitsAre 0 5 19 w then some (.sMaxu (fld 4 26 w) (fld 5 15 w) (fld 5 10 w) (fld 5 5 w)) else
  if bitsAre 0 5 20 w then some (.sSlt (fld 4 26 w) (fld 5 15 w) (fld 5 10 w) (fld 5 5 w)) else
  if bitsAre 0 5 21 w then some (.sSltu (fld 4 26 w) (fld 5 15 w) (fld 5 10 w) (fld 5 5 w)) else
  if bitsAre 0 5 22 w then some (.sSeq (fld 4 26 w) (fld 5 15 w) (fld 5 10 w) (fld 5 5 w)) else
  if bitsAre 0 5 23 w then some (.sSne (fld 4 26 w) (fld 5 15 w) (fld 5 10 w) (fld 5 5 w)) else
  none

/-- S major 0x1: the words of R170. -/
def decodeS01 (w : Nat) : Option Instr :=
  if bitsAre 0 10 0 w then some (.sClz (fld 4 26 w) (fld 5 15 w) (fld 5 10 w)) else
  if bitsAre 0 10 1 w then some (.sCtz (fld 4 26 w) (fld 5 15 w) (fld 5 10 w)) else
  if bitsAre 0 10 2 w then some (.sPopc (fld 4 26 w) (fld 5 15 w) (fld 5 10 w)) else
  if bitsAre 0 10 3 w then some (.sSextB (fld 4 26 w) (fld 5 15 w) (fld 5 10 w)) else
  if bitsAre 0 10 4 w then some (.sSextH (fld 4 26 w) (fld 5 15 w) (fld 5 10 w)) else
  if bitsAre 0 10 5 w then some (.sSextW (fld 4 26 w) (fld 5 15 w) (fld 5 10 w)) else
  if bitsAre 0 10 6 w then some (.sZextW (fld 4 26 w) (fld 5 15 w) (fld 5 10 w)) else
  none

/-- S major 0x2: the words of R171. -/
def decodeS02 (w : Nat) : Option Instr :=
  some (.sAddi (fld 4 26 w) (fld 5 15 w) (fld 5 10 w) (fld 10 0 w))

/-- S major 0x3: the words of R171. -/
def decodeS03 (w : Nat) : Option Instr :=
  some (.sAndi (fld 4 26 w) (fld 5 15 w) (fld 5 10 w) (fld 10 0 w))

/-- S major 0x4: the words of R171. -/
def decodeS04 (w : Nat) : Option Instr :=
  some (.sOri (fld 4 26 w) (fld 5 15 w) (fld 5 10 w) (fld 10 0 w))

/-- S major 0x5: the words of R171. -/
def decodeS05 (w : Nat) : Option Instr :=
  some (.sXori (fld 4 26 w) (fld 5 15 w) (fld 5 10 w) (fld 10 0 w))

/-- S major 0x6: the words of R171. -/
def decodeS06 (w : Nat) : Option Instr :=
  some (.sSlti (fld 4 26 w) (fld 5 15 w) (fld 5 10 w) (fld 10 0 w))

/-- S major 0x7: the words of R171. -/
def decodeS07 (w : Nat) : Option Instr :=
  some (.sSltiu (fld 4 26 w) (fld 5 15 w) (fld 5 10 w) (fld 10 0 w))

/-- S major 0x8: the words of R171. -/
def decodeS08 (w : Nat) : Option Instr :=
  if bitsAre 6 4 0 w then some (.sSlli (fld 4 26 w) (fld 5 15 w) (fld 5 10 w) (fld 6 0 w)) else
  if bitsAre 6 4 4 w then some (.sSrli (fld 4 26 w) (fld 5 15 w) (fld 5 10 w) (fld 6 0 w)) else
  if bitsAre 6 4 8 w then some (.sSrai (fld 4 26 w) (fld 5 15 w) (fld 5 10 w) (fld 6 0 w)) else
  none

/-- S major 0x9: the words of R171. -/
def decodeS09 (w : Nat) : Option Instr :=
  if bitsAre 10 5 0 w then some (.sLui (fld 4 26 w) (fld 5 15 w) (fld 10 0 w)) else
  none

/-- S major 0xa: the words of R174. -/
def decodeS0A (w : Nat) : Option Instr :=
  if bitsAre 3 7 0 w then some (.sSwz (fld 4 26 w) (fld 5 15 w) (fld 5 10 w) (fld 3 0 w)) else
  none

/-- S major 0xb: the words of R173. -/
def decodeS0B (w : Nat) : Option Instr :=
  if bitsAre 9 1 0 w then some (.sBfx (fld 4 26 w) (fld 5 15 w) (fld 5 10 w) (fld 6 3 w) (fld 3 0 w)) else
  if bitsAre 9 1 1 w then some (.sBfi (fld 4 26 w) (fld 5 15 w) (fld 5 10 w) (fld 6 3 w) (fld 3 0 w)) else
  none

/-- S major 0xc: the words of R172. -/
def decodeS0C (w : Nat) : Option Instr :=
  if bitsAre 0 5 0 w then some (.sMadd (fld 4 26 w) (fld 5 15 w) (fld 5 10 w) (fld 5 5 w)) else
  none

/-- S major 0xe: the words of R147. -/
def decodeS0E (w : Nat) : Option Instr :=
  if bitsAre 26 4 0 w then some (.sImx (fld 20 0 w)) else
  none

/-- S major 0xf: the words of R93. -/
def decodeS0F (w : Nat) : Option Instr :=
  if bitsAre 0 9 0 w && bitsAre 26 4 0 w then some (.sSem (fld 2 18 w) (fld 3 15 w) (fld 3 12 w) (fld 3 9 w)) else
  none

/-- S major 0x10: the words of R175. -/
def decodeS10 (w : Nat) : Option Instr :=
  if bitsAre 0 4 0 w then some (.sLdB (fld 4 26 w) (fld 5 15 w) (fld 5 10 w) (fld 3 7 w) (fld 3 4 w)) else
  if bitsAre 0 4 1 w then some (.sLdH (fld 4 26 w) (fld 5 15 w) (fld 5 10 w) (fld 3 7 w) (fld 3 4 w)) else
  if bitsAre 0 4 2 w then some (.sLdW (fld 4 26 w) (fld 5 15 w) (fld 5 10 w) (fld 3 7 w) (fld 3 4 w)) else
  if bitsAre 0 4 3 w then some (.sLdD (fld 4 26 w) (fld 5 15 w) (fld 5 10 w) (fld 3 7 w) (fld 3 4 w)) else
  if bitsAre 0 4 4 w then some (.sLdBu (fld 4 26 w) (fld 5 15 w) (fld 5 10 w) (fld 3 7 w) (fld 3 4 w)) else
  if bitsAre 0 4 5 w then some (.sLdHu (fld 4 26 w) (fld 5 15 w) (fld 5 10 w) (fld 3 7 w) (fld 3 4 w)) else
  if bitsAre 0 4 6 w then some (.sLdWu (fld 4 26 w) (fld 5 15 w) (fld 5 10 w) (fld 3 7 w) (fld 3 4 w)) else
  none

/-- S major 0x11: the words of R175. -/
def decodeS11 (w : Nat) : Option Instr :=
  if bitsAre 0 4 0 w then some (.sStB (fld 4 26 w) (fld 5 15 w) (fld 5 10 w) (fld 3 7 w) (fld 3 4 w)) else
  if bitsAre 0 4 1 w then some (.sStH (fld 4 26 w) (fld 5 15 w) (fld 5 10 w) (fld 3 7 w) (fld 3 4 w)) else
  if bitsAre 0 4 2 w then some (.sStW (fld 4 26 w) (fld 5 15 w) (fld 5 10 w) (fld 3 7 w) (fld 3 4 w)) else
  if bitsAre 0 4 3 w then some (.sStD (fld 4 26 w) (fld 5 15 w) (fld 5 10 w) (fld 3 7 w) (fld 3 4 w)) else
  none

/-- S major 0x12: the words of R177. -/
def decodeS12 (w : Nat) : Option Instr :=
  if bitsAre 0 5 0 w then some (.sQld (fld 4 26 w) (fld 5 15 w) (fld 5 10 w) (fld 5 5 w)) else
  if bitsAre 0 5 1 w then some (.sQld1 (fld 4 26 w) (fld 5 15 w) (fld 5 10 w) (fld 5 5 w)) else
  if bitsAre 0 5 2 w then some (.sQlds (fld 4 26 w) (fld 5 15 w) (fld 5 10 w) (fld 5 5 w)) else
  none

/-- S major 0x13: the words of R178. -/
def decodeS13 (w : Nat) : Option Instr :=
  if bitsAre 0 5 0 w then some (.sQst (fld 4 26 w) (fld 5 15 w) (fld 5 10 w) (fld 5 5 w)) else
  if bitsAre 0 5 1 w then some (.sQst1 (fld 4 26 w) (fld 5 15 w) (fld 5 10 w) (fld 5 5 w)) else
  none

/-- S major 0x14: the words of R179, R181. -/
def decodeS14 (w : Nat) : Option Instr :=
  if bitsAre 0 5 0 w then some (.sQpop (fld 4 26 w) (fld 5 15 w) (fld 5 10 w) (fld 5 5 w)) else
  if bitsAre 0 5 1 w then some (.sQpeek (fld 4 26 w) (fld 5 15 w) (fld 5 10 w) (fld 5 5 w)) else
  if bitsAre 0 10 2 w then some (.sQpsh (fld 4 26 w) (fld 5 15 w) (fld 5 10 w)) else
  if bitsAre 0 5 3 w then some (.sQcnt (fld 4 26 w) (fld 5 15 w) (fld 5 10 w) (fld 5 5 w)) else
  if bitsAre 0 5 4 w then some (.sQdisc (fld 4 26 w) (fld 5 15 w) (fld 5 10 w) (fld 5 5 w)) else
  if bitsAre 0 5 5 w && bitsAre 10 5 0 w then some (.sQhem (fld 4 26 w) (fld 5 15 w) (fld 5 5 w)) else
  none

/-- S major 0x15: the words of R183. -/
def decodeS15 (w : Nat) : Option Instr :=
  if bitsAre 0 5 0 w then some (.sVld (fld 4 26 w) (fld 5 15 w) (fld 5 10 w) (fld 5 5 w)) else
  none

/-- S major 0x16: the words of R183. -/
def decodeS16 (w : Nat) : Option Instr :=
  if bitsAre 0 5 0 w then some (.sVst (fld 4 26 w) (fld 5 15 w) (fld 5 10 w) (fld 5 5 w)) else
  none

/-- S major 0x17: the words of R183. -/
def decodeS17 (w : Nat) : Option Instr :=
  if bitsAre 0 5 0 w && bitsAre 15 5 0 w then some (.sVrc (fld 4 26 w) (fld 5 10 w) (fld 5 5 w)) else
  none

/-- S major 0x18: the words of R184. -/
def decodeS18 (w : Nat) : Option Instr :=
  if bitsAre 0 4 0 w then some (.sAmoAdd (fld 4 26 w) (fld 5 15 w) (fld 5 10 w) (fld 5 5 w) (fld 1 4 w)) else
  if bitsAre 0 4 1 w then some (.sAmoAnd (fld 4 26 w) (fld 5 15 w) (fld 5 10 w) (fld 5 5 w) (fld 1 4 w)) else
  if bitsAre 0 4 2 w then some (.sAmoOr (fld 4 26 w) (fld 5 15 w) (fld 5 10 w) (fld 5 5 w) (fld 1 4 w)) else
  if bitsAre 0 4 3 w then some (.sAmoXor (fld 4 26 w) (fld 5 15 w) (fld 5 10 w) (fld 5 5 w) (fld 1 4 w)) else
  if bitsAre 0 4 4 w then some (.sAmoMin (fld 4 26 w) (fld 5 15 w) (fld 5 10 w) (fld 5 5 w) (fld 1 4 w)) else
  if bitsAre 0 4 5 w then some (.sAmoMax (fld 4 26 w) (fld 5 15 w) (fld 5 10 w) (fld 5 5 w) (fld 1 4 w)) else
  if bitsAre 0 4 6 w then some (.sAmoMinu (fld 4 26 w) (fld 5 15 w) (fld 5 10 w) (fld 5 5 w) (fld 1 4 w)) else
  if bitsAre 0 4 7 w then some (.sAmoMaxu (fld 4 26 w) (fld 5 15 w) (fld 5 10 w) (fld 5 5 w) (fld 1 4 w)) else
  if bitsAre 0 4 8 w then some (.sAmoSwap (fld 4 26 w) (fld 5 15 w) (fld 5 10 w) (fld 5 5 w) (fld 1 4 w)) else
  if bitsAre 0 4 9 w then some (.sAmoFadd (fld 4 26 w) (fld 5 15 w) (fld 5 10 w) (fld 5 5 w) (fld 1 4 w)) else
  none

/-- S major 0x19: the words of R185. -/
def decodeS19 (w : Nat) : Option Instr :=
  if bitsAre 0 4 0 w then some (.sCas (fld 4 26 w) (fld 5 15 w) (fld 5 10 w) (fld 5 5 w) (fld 1 4 w)) else
  none

/-- S major 0x1a: the words of R101. -/
def decodeS1A (w : Nat) : Option Instr :=
  if bitsAre 0 15 0 w then some (.sFence (fld 4 26 w) (fld 2 18 w) (fld 3 15 w)) else
  none

/-- S major 0x1b: the words of R186. -/
def decodeS1B (w : Nat) : Option Instr :=
  if bitsAre 0 15 0 w then some (.sKwait (fld 4 26 w) (fld 5 15 w)) else
  if bitsAre 0 15 1 w then some (.sKclr (fld 4 26 w) (fld 5 15 w)) else
  none

/-- S major 0x1c: the words of R187. -/
def decodeS1C (w : Nat) : Option Instr :=
  some (.sRinv (fld 4 26 w) (fld 5 15 w) (fld 5 10 w) (fld 5 5 w) (fld 5 0 w))

/-- S major 0x20: the words of R188. -/
def decodeS20 (w : Nat) : Option Instr :=
  if bitsAre 11 8 0 w then some (.sB (fld 4 26 w) (fld 1 19 w) (fld 11 0 w)) else
  if bitsAre 16 3 1 w then some (.sBeqz (fld 4 26 w) (fld 1 19 w) (fld 5 11 w) (fld 11 0 w)) else
  if bitsAre 16 3 2 w then some (.sBnez (fld 4 26 w) (fld 1 19 w) (fld 5 11 w) (fld 11 0 w)) else
  if bitsAre 16 3 3 w then some (.sBltz (fld 4 26 w) (fld 1 19 w) (fld 5 11 w) (fld 11 0 w)) else
  if bitsAre 16 3 4 w then some (.sBgez (fld 4 26 w) (fld 1 19 w) (fld 5 11 w) (fld 11 0 w)) else
  if bitsAre 16 3 5 w then some (.sBgtz (fld 4 26 w) (fld 1 19 w) (fld 5 11 w) (fld 11 0 w)) else
  if bitsAre 16 3 6 w then some (.sBlez (fld 4 26 w) (fld 1 19 w) (fld 5 11 w) (fld 11 0 w)) else
  none

/-- S major 0x21: the words of R188. -/
def decodeS21 (w : Nat) : Option Instr :=
  if bitsAre 16 3 0 w then some (.sBqb (fld 4 26 w) (fld 1 19 w) (fld 5 11 w) (fld 11 0 w)) else
  if bitsAre 16 3 1 w then some (.sBqbEqz (fld 4 26 w) (fld 1 19 w) (fld 5 11 w) (fld 11 0 w)) else
  if bitsAre 16 3 2 w then some (.sBqbNez (fld 4 26 w) (fld 1 19 w) (fld 5 11 w) (fld 11 0 w)) else
  if bitsAre 16 3 3 w then some (.sBqbLtz (fld 4 26 w) (fld 1 19 w) (fld 5 11 w) (fld 11 0 w)) else
  if bitsAre 16 3 4 w then some (.sBqbGez (fld 4 26 w) (fld 1 19 w) (fld 5 11 w) (fld 11 0 w)) else
  if bitsAre 16 3 5 w then some (.sBqbGtz (fld 4 26 w) (fld 1 19 w) (fld 5 11 w) (fld 11 0 w)) else
  if bitsAre 16 3 6 w then some (.sBqbLez (fld 4 26 w) (fld 1 19 w) (fld 5 11 w) (fld 11 0 w)) else
  none

/-- S major 0x22: the words of R189. -/
def decodeS22 (w : Nat) : Option Instr :=
  some (.sJal (fld 4 26 w) (fld 5 15 w) (fld 15 0 w))

/-- S major 0x23: the words of R189. -/
def decodeS23 (w : Nat) : Option Instr :=
  some (.sJalr (fld 4 26 w) (fld 5 15 w) (fld 5 10 w) (fld 10 0 w))

/-- S major 0x28: the words of R190. -/
def decodeS28 (w : Nat) : Option Instr :=
  if bitsAre 0 5 0 w then some (.sSdw (fld 4 26 w) (fld 4 16 w) (fld 6 10 w) (fld 5 5 w)) else
  none

/-- S major 0x29: the words of R191. -/
def decodeS29 (w : Nat) : Option Instr :=
  if bitsAre 0 5 0 w && bitsAre 10 4 0 w then some (.sMtw (fld 4 26 w) (fld 3 17 w) (fld 3 14 w) (fld 5 5 w)) else
  none

/-- S major 0x2a: the words of R192. -/
def decodeS2A (w : Nat) : Option Instr :=
  if bitsAre 0 1 0 w then some (.sInj (fld 4 26 w) (fld 5 15 w) (fld 4 11 w) (fld 4 7 w) (fld 6 1 w)) else
  none

/-- S major 0x30: the words of R18, R193, R344. -/
def decodeS30 (w : Nat) : Option Instr :=
  if bitsAre 0 20 0 w then some (.sEcall (fld 4 26 w)) else
  if bitsAre 0 20 1 w then some (.sEret (fld 4 26 w)) else
  if bitsAre 0 20 2 w then some (.sPark (fld 4 26 w)) else
  if bitsAre 0 20 3 w then some (.sYield (fld 4 26 w)) else
  if bitsAre 0 20 4 w then some (.sBreak (fld 4 26 w)) else
  if bitsAre 0 20 5 w then some (.sEnd (fld 4 26 w)) else
  if bitsAre 0 20 6 w then some (.sNop (fld 4 26 w)) else
  none

/-- S major 0x31: the words of R194. -/
def decodeS31 (w : Nat) : Option Instr :=
  if bitsAre 10 5 0 w then some (.sMvfs (fld 4 26 w) (fld 5 15 w) (fld 10 0 w)) else
  none

/-- S major 0x32: the words of R194. -/
def decodeS32 (w : Nat) : Option Instr :=
  if bitsAre 15 5 0 w then some (.sMvts (fld 4 26 w) (fld 5 10 w) (fld 10 0 w)) else
  none

/-- S major 0x33: the words of R195. -/
def decodeS33 (w : Nat) : Option Instr :=
  if bitsAre 0 5 0 w && bitsAre 15 5 0 w then some (.sBarInit (fld 4 26 w) (fld 5 10 w) (fld 5 5 w)) else
  if bitsAre 0 10 1 w then some (.sBarArv (fld 4 26 w) (fld 5 15 w) (fld 5 10 w)) else
  if bitsAre 0 5 2 w && bitsAre 15 5 0 w then some (.sBarWait (fld 4 26 w) (fld 5 10 w) (fld 5 5 w)) else
  if bitsAre 0 5 3 w && bitsAre 15 5 0 w then some (.sBarAddb (fld 4 26 w) (fld 5 10 w) (fld 5 5 w)) else
  none

/-- S major 0x34: the words of R197. -/
def decodeS34 (w : Nat) : Option Instr :=
  if bitsAre 0 5 0 w then some (.sLnch (fld 4 26 w) (fld 5 15 w) (fld 5 10 w) (fld 5 5 w)) else
  none

/-- S major 0x35: the words of R196. -/
def decodeS35 (w : Nat) : Option Instr :=
  if bitsAre 0 5 0 w then some (.sWfn (fld 4 26 w) (fld 5 15 w) (fld 5 10 w) (fld 5 5 w)) else
  if bitsAre 0 5 1 w && bitsAre 15 5 0 w then some (.sNsig (fld 4 26 w) (fld 5 10 w) (fld 5 5 w)) else
  if bitsAre 0 5 2 w && bitsAre 15 5 0 w then some (.sNclr (fld 4 26 w) (fld 5 10 w) (fld 5 5 w)) else
  none

/-- S major 0x36: the words of R198. -/
def decodeS36 (w : Nat) : Option Instr :=
  if bitsAre 0 10 0 w && bitsAre 15 5 0 w then some (.sPcut (fld 4 26 w) (fld 5 10 w)) else
  if bitsAre 0 10 1 w && bitsAre 15 5 0 w then some (.sPjoin (fld 4 26 w) (fld 5 10 w)) else
  if bitsAre 0 15 2 w then some (.sPqry (fld 4 26 w) (fld 5 15 w)) else
  none

/-- S major 0x37: the words of R199. -/
def decodeS37 (w : Nat) : Option Instr :=
  if bitsAre 0 5 0 w && bitsAre 15 5 0 w then some (.sTlbiVa (fld 4 26 w) (fld 5 10 w) (fld 5 5 w)) else
  if bitsAre 0 5 1 w && bitsAre 10 10 0 w then some (.sTlbiAsid (fld 4 26 w) (fld 5 5 w)) else
  if bitsAre 0 20 2 w then some (.sTlbiAll (fld 4 26 w)) else
  none

/-- S major 0x38: the words of R200. -/
def decodeS38 (w : Nat) : Option Instr :=
  if bitsAre 0 10 0 w then some (.sTurn (fld 4 26 w) (fld 5 15 w) (fld 5 10 w)) else
  none

/-- S major 0x39: the words of R201. -/
def decodeS39 (w : Nat) : Option Instr :=
  if bitsAre 0 5 0 w && bitsAre 15 5 0 w then some (.sCnt (fld 4 26 w) (fld 5 10 w) (fld 5 5 w)) else
  none

/-- S majors by number; an unassigned one has no instruction (R144 step 2). -/
def decodeS (w : Nat) : Except DecodeError (Option Instr) :=
  match w / 2 ^ 20 % 2 ^ 6 with
  | 0x0 => .ok (decodeS00 w)
  | 0x1 => .ok (decodeS01 w)
  | 0x2 => .ok (decodeS02 w)
  | 0x3 => .ok (decodeS03 w)
  | 0x4 => .ok (decodeS04 w)
  | 0x5 => .ok (decodeS05 w)
  | 0x6 => .ok (decodeS06 w)
  | 0x7 => .ok (decodeS07 w)
  | 0x8 => .ok (decodeS08 w)
  | 0x9 => .ok (decodeS09 w)
  | 0xa => .ok (decodeS0A w)
  | 0xb => .ok (decodeS0B w)
  | 0xc => .ok (decodeS0C w)
  | 0xe => .ok (decodeS0E w)
  | 0xf => .ok (decodeS0F w)
  | 0x10 => .ok (decodeS10 w)
  | 0x11 => .ok (decodeS11 w)
  | 0x12 => .ok (decodeS12 w)
  | 0x13 => .ok (decodeS13 w)
  | 0x14 => .ok (decodeS14 w)
  | 0x15 => .ok (decodeS15 w)
  | 0x16 => .ok (decodeS16 w)
  | 0x17 => .ok (decodeS17 w)
  | 0x18 => .ok (decodeS18 w)
  | 0x19 => .ok (decodeS19 w)
  | 0x1a => .ok (decodeS1A w)
  | 0x1b => .ok (decodeS1B w)
  | 0x1c => .ok (decodeS1C w)
  | 0x20 => .ok (decodeS20 w)
  | 0x21 => .ok (decodeS21 w)
  | 0x22 => .ok (decodeS22 w)
  | 0x23 => .ok (decodeS23 w)
  | 0x28 => .ok (decodeS28 w)
  | 0x29 => .ok (decodeS29 w)
  | 0x2a => .ok (decodeS2A w)
  | 0x30 => .ok (decodeS30 w)
  | 0x31 => .ok (decodeS31 w)
  | 0x32 => .ok (decodeS32 w)
  | 0x33 => .ok (decodeS33 w)
  | 0x34 => .ok (decodeS34 w)
  | 0x35 => .ok (decodeS35 w)
  | 0x36 => .ok (decodeS36 w)
  | 0x37 => .ok (decodeS37 w)
  | 0x38 => .ok (decodeS38 w)
  | 0x39 => .ok (decodeS39 w)
  | _ => .error .noOp

/-- C op 0x0: the words of R211. -/
def decodeC00 (w : Nat) : Option Instr :=
  if bitsAre 0 17 0 w then some (.cGo (fld 4 26 w) (fld 4 17 w)) else
  none

/-- C op 0x1: the words of R212. -/
def decodeC01 (w : Nat) : Option Instr :=
  if bitsAre 0 17 0 w then some (.cStop (fld 4 26 w) (fld 4 17 w)) else
  none

/-- C op 0x2: the words of R211. -/
def decodeC02 (w : Nat) : Option Instr :=
  if bitsAre 0 17 0 w then some (.cWait (fld 4 26 w) (fld 4 17 w)) else
  if bitsAre 0 21 1 w then some (.cWaitAll (fld 4 26 w)) else
  none

/-- C op 0x3: the words of R211. -/
def decodeC03 (w : Nat) : Option Instr :=
  if bitsAre 16 1 0 w then some (.cAdv (fld 4 26 w) (fld 4 17 w) (fld 16 0 w)) else
  none

/-- C op 0x4: the words of R211. -/
def decodeC04 (w : Nat) : Option Instr :=
  if bitsAre 0 17 0 w then some (.cBar (fld 4 26 w) (fld 4 17 w)) else
  none

/-- C op 0x5: the words of R214. -/
def decodeC05 (w : Nat) : Option Instr :=
  if bitsAre 0 17 0 w then some (.cJrnl (fld 4 26 w) (fld 4 17 w)) else
  none

/-- C op 0x6: the words of R211. -/
def decodeC06 (w : Nat) : Option Instr :=
  if bitsAre 0 17 0 w then some (.cFlush (fld 4 26 w) (fld 4 17 w)) else
  none

/-- C op 0x7: the words of R211. -/
def decodeC07 (w : Nat) : Option Instr :=
  if bitsAre 11 10 0 w then some (.cLnk (fld 4 26 w) (fld 3 8 w) (fld 8 0 w)) else
  none

/-- C op 0x8: the words of R213. -/
def decodeC08 (w : Nat) : Option Instr :=
  if bitsAre 3 18 0 w then some (.cFence (fld 4 26 w) (fld 3 0 w)) else
  none

/-- C op 0x9: the words of R211. -/
def decodeC09 (w : Nat) : Option Instr :=
  if bitsAre 3 14 0 w then some (.cPri (fld 4 26 w) (fld 4 17 w) (fld 3 0 w)) else
  none

/-- C op 0xa: the words of R215. -/
def decodeC0A (w : Nat) : Option Instr :=
  if bitsAre 17 4 0 w then some (.cRep (fld 4 26 w) (fld 5 12 w) (fld 12 0 w)) else
  none

/-- C ops by number; an unassigned one has no instruction (R144 step 2). -/
def decodeC (w : Nat) : Except DecodeError (Option Instr) :=
  match w / 2 ^ 21 % 2 ^ 5 with
  | 0x0 => .ok (decodeC00 w)
  | 0x1 => .ok (decodeC01 w)
  | 0x2 => .ok (decodeC02 w)
  | 0x3 => .ok (decodeC03 w)
  | 0x4 => .ok (decodeC04 w)
  | 0x5 => .ok (decodeC05 w)
  | 0x6 => .ok (decodeC06 w)
  | 0x7 => .ok (decodeC07 w)
  | 0x8 => .ok (decodeC08 w)
  | 0x9 => .ok (decodeC09 w)
  | 0xa => .ok (decodeC0A w)
  | _ => .error .noOp

/-- M op 0x0: the words of R229. -/
def decodeM00 (w : Nat) : Option Instr :=
  if bitsAre 9 9 0 w then some (.mGo (fld 4 26 w) (fld 3 18 w) (fld 9 0 w)) else
  none

/-- M op 0x1: the words of R230. -/
def decodeM01 (w : Nat) : Option Instr :=
  if bitsAre 0 21 0 w then some (.mWait (fld 4 26 w)) else
  none

/-- M op 0x2: the words of R222. -/
def decodeM02 (w : Nat) : Option Instr :=
  if bitsAre 7 14 0 w then some (.mLdb (fld 4 26 w) (fld 7 0 w)) else
  none

/-- M op 0x3: the words of R217. -/
def decodeM03 (w : Nat) : Option Instr :=
  if bitsAre 0 21 0 w then some (.mSwb (fld 4 26 w)) else
  none

/-- M op 0x4: the words of R224. -/
def decodeM04 (w : Nat) : Option Instr :=
  if bitsAre 18 3 0 w then some (.mMma (fld 4 26 w) (fld 9 9 w) (fld 9 0 w)) else
  none

/-- M op 0x5: the words of R225. -/
def decodeM05 (w : Nat) : Option Instr :=
  if bitsAre 18 3 0 w then some (.mDrn (fld 4 26 w) (fld 9 9 w) (fld 9 0 w)) else
  none

/-- M op 0x6: the words of R225. -/
def decodeM06 (w : Nat) : Option Instr :=
  if bitsAre 18 3 0 w then some (.mZero (fld 4 26 w) (fld 9 9 w) (fld 9 0 w)) else
  none

/-- M op 0x7: the words of R220. -/
def decodeM07 (w : Nat) : Option Instr :=
  if bitsAre 10 11 0 w then some (.mFmt (fld 4 26 w) (fld 2 8 w) (fld 4 4 w) (fld 4 0 w)) else
  none

/-- M op 0x8: the words of R226. -/
def decodeM08 (w : Nat) : Option Instr :=
  if bitsAre 10 11 0 w then some (.mScl (fld 4 26 w) (fld 10 0 w)) else
  if bitsAre 0 21 1024 w then some (.mSclOne (fld 4 26 w)) else
  none

/-- M op 0x9: the words of R221. -/
def decodeM09 (w : Nat) : Option Instr :=
  if bitsAre 15 6 0 w then some (.mBind (fld 4 26 w) (fld 3 12 w) (fld 2 10 w) (fld 10 0 w)) else
  if bitsAre 4 17 4224 w then some (.mBindMem (fld 4 26 w) (fld 4 0 w)) else
  if bitsAre 0 10 0 w && bitsAre 15 6 1 w then some (.mUnbind (fld 4 26 w) (fld 3 12 w) (fld 2 10 w)) else
  none

/-- M op 0xa: the words of R227. -/
def decodeM0A (w : Nat) : Option Instr :=
  if bitsAre 2 19 0 w then some (.mKeep (fld 4 26 w) (fld 1 1 w) (fld 1 0 w)) else
  if bitsAre 2 19 1 w then some (.mKeepRelease (fld 4 26 w) (fld 1 1 w) (fld 1 0 w)) else
  none

/-- M op 0xb: the words of R231. -/
def decodeM0B (w : Nat) : Option Instr :=
  if bitsAre 0 21 0 w then some (.mToil (fld 4 26 w)) else
  none

/-- M op 0xc: the words of R215. -/
def decodeM0C (w : Nat) : Option Instr :=
  if bitsAre 17 4 0 w then some (.mRep (fld 4 26 w) (fld 5 12 w) (fld 12 0 w)) else
  none

/-- M ops by number; an unassigned one has no instruction (R144 step 2). -/
def decodeM (w : Nat) : Except DecodeError (Option Instr) :=
  match w / 2 ^ 21 % 2 ^ 5 with
  | 0x0 => .ok (decodeM00 w)
  | 0x1 => .ok (decodeM01 w)
  | 0x2 => .ok (decodeM02 w)
  | 0x3 => .ok (decodeM03 w)
  | 0x4 => .ok (decodeM04 w)
  | 0x5 => .ok (decodeM05 w)
  | 0x6 => .ok (decodeM06 w)
  | 0x7 => .ok (decodeM07 w)
  | 0x8 => .ok (decodeM08 w)
  | 0x9 => .ok (decodeM09 w)
  | 0xa => .ok (decodeM0A w)
  | 0xb => .ok (decodeM0B w)
  | 0xc => .ok (decodeM0C w)
  | _ => .error .noOp

/-- F op 0x0: the words of R246. -/
def decodeF00 (w : Nat) : Option Instr :=
  some (.fCfgl (fld 4 26 w) (fld 21 0 w))

/-- F op 0x1: the words of R248. -/
def decodeF01 (w : Nat) : Option Instr :=
  if bitsAre 0 21 0 w then some (.fTurn (fld 4 26 w)) else
  if bitsAre 0 21 1 w then some (.fTurnNow (fld 4 26 w)) else
  none

/-- F op 0x2: the words of R252. -/
def decodeF02 (w : Nat) : Option Instr :=
  if bitsAre 6 15 0 w then some (.fKset (fld 4 26 w) (fld 6 0 w)) else
  none

/-- F op 0x3: the words of R253. -/
def decodeF03 (w : Nat) : Option Instr :=
  if bitsAre 17 4 0 w then some (.fHem (fld 4 26 w) (fld 8 9 w) (fld 3 6 w) (fld 6 0 w)) else
  none

/-- F op 0x4: the words of R247. -/
def decodeF04 (w : Nat) : Option Instr :=
  if bitsAre 0 21 0 w then some (.fArm (fld 4 26 w)) else
  none

/-- F op 0x5: the words of R247. -/
def decodeF05 (w : Nat) : Option Instr :=
  if bitsAre 0 21 0 w then some (.fStop (fld 4 26 w)) else
  none

/-- F op 0x6: the words of R250. -/
def decodeF06 (w : Nat) : Option Instr :=
  if bitsAre 0 21 0 w then some (.fWdr (fld 4 26 w)) else
  none

/-- F op 0x7: the words of R255. -/
def decodeF07 (w : Nat) : Option Instr :=
  if bitsAre 14 7 0 w then some (.fSink (fld 4 26 w) (fld 4 10 w) (fld 4 6 w) (fld 6 0 w)) else
  if bitsAre 6 15 256 w then some (.fSinkClr (fld 4 26 w) (fld 6 0 w)) else
  none

/-- F op 0x8: the words of R254. -/
def decodeF08 (w : Nat) : Option Instr :=
  if bitsAre 8 13 1 w then some (.fTag (fld 4 26 w) (fld 5 3 w) (fld 3 0 w)) else
  if bitsAre 0 21 512 w then some (.fTagClr (fld 4 26 w)) else
  if bitsAre 8 13 3 w then some (.fTagSetClr (fld 4 26 w) (fld 5 3 w) (fld 3 0 w)) else
  none

/-- F op 0x9: the words of R256. -/
def decodeF09 (w : Nat) : Option Instr :=
  if bitsAre 14 7 0 w then some (.fPleat (fld 4 26 w) (fld 6 8 w) (fld 4 4 w) (fld 4 0 w)) else
  none

/-- F ops by number; an unassigned one has no instruction (R144 step 2). -/
def decodeF (w : Nat) : Except DecodeError (Option Instr) :=
  match w / 2 ^ 21 % 2 ^ 5 with
  | 0x0 => .ok (decodeF00 w)
  | 0x1 => .ok (decodeF01 w)
  | 0x2 => .ok (decodeF02 w)
  | 0x3 => .ok (decodeF03 w)
  | 0x4 => .ok (decodeF04 w)
  | 0x5 => .ok (decodeF05 w)
  | 0x6 => .ok (decodeF06 w)
  | 0x7 => .ok (decodeF07 w)
  | 0x8 => .ok (decodeF08 w)
  | 0x9 => .ok (decodeF09 w)
  | _ => .error .noOp

/-- Move words whose DEST is port code 39 (R155). -/
def decodeMove39 (w : Nat) : Option Instr :=
  if bitsAre 8 9 60 w && bitsAre 29 3 0 w then some (.isect (fld 6 23 w) (fld 8 0 w)) else
  none

/-- Move words whose DEST is port code 48 (R155). -/
def decodeMove48 (w : Nat) : Option Instr :=
  if bitsAre 14 3 0 w then some (.add (fld 3 29 w) (fld 6 23 w) (fld 4 10 w) (fld 2 8 w) (fld 8 0 w)) else
  if bitsAre 14 3 1 w then some (.sub (fld 3 29 w) (fld 6 23 w) (fld 4 10 w) (fld 2 8 w) (fld 8 0 w)) else
  if bitsAre 14 3 2 w then some (.and (fld 3 29 w) (fld 6 23 w) (fld 4 10 w) (fld 2 8 w) (fld 8 0 w)) else
  if bitsAre 14 3 3 w then some (.or (fld 3 29 w) (fld 6 23 w) (fld 4 10 w) (fld 2 8 w) (fld 8 0 w)) else
  if bitsAre 14 3 4 w then some (.xor (fld 3 29 w) (fld 6 23 w) (fld 4 10 w) (fld 2 8 w) (fld 8 0 w)) else
  if bitsAre 14 3 5 w then some (.shl (fld 3 29 w) (fld 6 23 w) (fld 4 10 w) (fld 2 8 w) (fld 8 0 w)) else
  if bitsAre 14 3 6 w then some (.shr (fld 3 29 w) (fld 6 23 w) (fld 4 10 w) (fld 2 8 w) (fld 8 0 w)) else
  if bitsAre 14 3 7 w then some (.sar (fld 3 29 w) (fld 6 23 w) (fld 4 10 w) (fld 2 8 w) (fld 8 0 w)) else
  none

/-- Move words whose DEST is port code 49 (R155). -/
def decodeMove49 (w : Nat) : Option Instr :=
  if bitsAre 14 3 0 w then some (.min (fld 3 29 w) (fld 6 23 w) (fld 4 10 w) (fld 2 8 w) (fld 8 0 w)) else
  if bitsAre 14 3 1 w then some (.max (fld 3 29 w) (fld 6 23 w) (fld 4 10 w) (fld 2 8 w) (fld 8 0 w)) else
  if bitsAre 14 3 2 w then some (.ceq (fld 3 29 w) (fld 6 23 w) (fld 4 10 w) (fld 2 8 w) (fld 8 0 w)) else
  if bitsAre 14 3 3 w then some (.clt (fld 3 29 w) (fld 6 23 w) (fld 4 10 w) (fld 2 8 w) (fld 8 0 w)) else
  if bitsAre 14 3 4 w then some (.cle (fld 3 29 w) (fld 6 23 w) (fld 4 10 w) (fld 2 8 w) (fld 8 0 w)) else
  if bitsAre 14 3 5 w then some (.adds (fld 3 29 w) (fld 6 23 w) (fld 4 10 w) (fld 2 8 w) (fld 8 0 w)) else
  if bitsAre 14 3 6 w then some (.subs (fld 3 29 w) (fld 6 23 w) (fld 4 10 w) (fld 2 8 w) (fld 8 0 w)) else
  if bitsAre 14 3 7 w then some (.mulsr (fld 3 29 w) (fld 6 23 w) (fld 4 10 w) (fld 2 8 w) (fld 3 5 w) (fld 5 0 w)) else
  none

/-- Move words whose DEST is port code 50 (R155). -/
def decodeMove50 (w : Nat) : Option Instr :=
  if bitsAre 0 8 0 w && bitsAre 14 3 0 w then some (.sel (fld 3 29 w) (fld 6 23 w) (fld 4 10 w) (fld 2 8 w)) else
  if bitsAre 0 8 0 w && bitsAre 14 3 1 w then some (.abs (fld 3 29 w) (fld 6 23 w) (fld 4 10 w) (fld 2 8 w)) else
  if bitsAre 0 8 0 w && bitsAre 14 3 2 w then some (.neg (fld 3 29 w) (fld 6 23 w) (fld 4 10 w) (fld 2 8 w)) else
  if bitsAre 0 8 0 w && bitsAre 14 3 3 w then some (.cvtIf (fld 3 29 w) (fld 6 23 w) (fld 4 10 w) (fld 2 8 w)) else
  if bitsAre 0 8 0 w && bitsAre 14 3 4 w then some (.cvtFi (fld 3 29 w) (fld 6 23 w) (fld 4 10 w) (fld 2 8 w)) else
  if bitsAre 0 8 0 w && bitsAre 14 3 5 w then some (.pass (fld 3 29 w) (fld 6 23 w) (fld 4 10 w) (fld 2 8 w)) else
  none

/-- Move words whose DEST is port code 51 (R155). -/
def decodeMove51 (w : Nat) : Option Instr :=
  if bitsAre 14 3 0 w then some (.fadd (fld 3 29 w) (fld 6 23 w) (fld 4 10 w) (fld 2 8 w) (fld 8 0 w)) else
  if bitsAre 14 3 1 w then some (.fsub (fld 3 29 w) (fld 6 23 w) (fld 4 10 w) (fld 2 8 w) (fld 8 0 w)) else
  if bitsAre 14 3 2 w then some (.fmul (fld 3 29 w) (fld 6 23 w) (fld 4 10 w) (fld 2 8 w) (fld 8 0 w)) else
  if bitsAre 0 8 0 w && bitsAre 14 3 3 w then some (.fma (fld 3 29 w) (fld 6 23 w) (fld 4 10 w) (fld 2 8 w)) else
  if bitsAre 0 8 0 w && bitsAre 14 3 4 w then some (.fnma (fld 3 29 w) (fld 6 23 w) (fld 4 10 w) (fld 2 8 w)) else
  if bitsAre 14 3 5 w then some (.fmin (fld 3 29 w) (fld 6 23 w) (fld 4 10 w) (fld 2 8 w) (fld 8 0 w)) else
  if bitsAre 14 3 6 w then some (.fmax (fld 3 29 w) (fld 6 23 w) (fld 4 10 w) (fld 2 8 w) (fld 8 0 w)) else
  if bitsAre 6 2 0 w && bitsAre 14 3 7 w then some (.fclip (fld 3 29 w) (fld 6 23 w) (fld 4 10 w) (fld 2 8 w) (fld 3 3 w) (fld 3 0 w)) else
  none

/-- Move words whose DEST is port code 52 (R155). -/
def decodeMove52 (w : Nat) : Option Instr :=
  if bitsAre 14 3 0 w then some (.fclt (fld 3 29 w) (fld 6 23 w) (fld 4 10 w) (fld 2 8 w) (fld 8 0 w)) else
  if bitsAre 14 3 1 w then some (.fcle (fld 3 29 w) (fld 6 23 w) (fld 4 10 w) (fld 2 8 w) (fld 8 0 w)) else
  if bitsAre 14 3 2 w then some (.fceq (fld 3 29 w) (fld 6 23 w) (fld 4 10 w) (fld 2 8 w) (fld 8 0 w)) else
  none

/-- Move words whose DEST is port code 53 (R155). -/
def decodeMove53 (w : Nat) : Option Instr :=
  if bitsAre 0 8 0 w && bitsAre 14 3 0 w then some (.exp2 (fld 3 29 w) (fld 6 23 w) (fld 4 10 w) (fld 2 8 w)) else
  if bitsAre 0 8 0 w && bitsAre 14 3 1 w then some (.log2 (fld 3 29 w) (fld 6 23 w) (fld 4 10 w) (fld 2 8 w)) else
  if bitsAre 0 8 0 w && bitsAre 14 3 2 w then some (.rcp (fld 3 29 w) (fld 6 23 w) (fld 4 10 w) (fld 2 8 w)) else
  if bitsAre 0 8 0 w && bitsAre 14 3 3 w then some (.rsqrt (fld 3 29 w) (fld 6 23 w) (fld 4 10 w) (fld 2 8 w)) else
  if bitsAre 0 8 0 w && bitsAre 14 3 4 w then some (.sqrt (fld 3 29 w) (fld 6 23 w) (fld 4 10 w) (fld 2 8 w)) else
  if bitsAre 0 8 0 w && bitsAre 14 3 5 w then some (.tanh (fld 3 29 w) (fld 6 23 w) (fld 4 10 w) (fld 2 8 w)) else
  if bitsAre 0 8 0 w && bitsAre 14 3 6 w then some (.sigm (fld 3 29 w) (fld 6 23 w) (fld 4 10 w) (fld 2 8 w)) else
  none

/-- Move words whose DEST is port code 54 (R155). -/
def decodeMove54 (w : Nat) : Option Instr :=
  if bitsAre 1 7 0 w && bitsAre 14 3 0 w then some (.lsum (fld 3 29 w) (fld 6 23 w) (fld 4 10 w) (fld 2 8 w) (fld 1 0 w)) else
  if bitsAre 1 7 0 w && bitsAre 14 3 1 w then some (.lmax (fld 3 29 w) (fld 6 23 w) (fld 4 10 w) (fld 2 8 w) (fld 1 0 w)) else
  if bitsAre 1 7 0 w && bitsAre 14 3 2 w then some (.lmin (fld 3 29 w) (fld 6 23 w) (fld 4 10 w) (fld 2 8 w) (fld 1 0 w)) else
  if bitsAre 0 8 0 w && bitsAre 14 3 3 w then some (.cnt (fld 3 29 w) (fld 6 23 w) (fld 4 10 w) (fld 2 8 w)) else
  if bitsAre 1 7 0 w && bitsAre 14 3 4 w then some (.acc (fld 3 29 w) (fld 6 23 w) (fld 4 10 w) (fld 2 8 w) (fld 1 0 w)) else
  if bitsAre 1 7 0 w && bitsAre 14 3 5 w then some (.accm (fld 3 29 w) (fld 6 23 w) (fld 4 10 w) (fld 2 8 w) (fld 1 0 w)) else
  if bitsAre 1 7 0 w && bitsAre 14 3 6 w then some (.scan (fld 3 29 w) (fld 6 23 w) (fld 4 10 w) (fld 2 8 w) (fld 1 0 w)) else
  none

/-- Move words whose DEST is port code 55 (R155). -/
def decodeMove55 (w : Nat) : Option Instr :=
  if bitsAre 2 6 0 w && bitsAre 14 3 0 w then some (.pack (fld 3 29 w) (fld 6 23 w) (fld 4 10 w) (fld 2 8 w) (fld 1 1 w) (fld 1 0 w)) else
  if bitsAre 0 8 0 w && bitsAre 14 3 1 w then some (.unpk (fld 3 29 w) (fld 6 23 w) (fld 4 10 w) (fld 2 8 w)) else
  if bitsAre 3 5 0 w && bitsAre 14 3 2 w then some (.reord (fld 3 29 w) (fld 6 23 w) (fld 4 10 w) (fld 2 8 w) (fld 3 0 w)) else
  if bitsAre 0 8 0 w && bitsAre 14 3 3 w then some (.merge2 (fld 3 29 w) (fld 6 23 w) (fld 4 10 w) (fld 2 8 w)) else
  if bitsAre 0 8 0 w && bitsAre 14 3 4 w then some (.union (fld 3 29 w) (fld 6 23 w) (fld 4 10 w) (fld 2 8 w)) else
  if bitsAre 0 8 0 w && bitsAre 14 3 5 w then some (.steer (fld 3 29 w) (fld 6 23 w) (fld 4 10 w) (fld 2 8 w)) else
  if bitsAre 0 8 0 w && bitsAre 14 3 6 w then some (.mrg (fld 3 29 w) (fld 6 23 w) (fld 4 10 w) (fld 2 8 w)) else
  if bitsAre 0 8 0 w && bitsAre 14 3 7 w then some (.dup (fld 3 29 w) (fld 6 23 w) (fld 4 10 w) (fld 2 8 w)) else
  none

/-- Move words whose DEST is port code 56 (R155). -/
def decodeMove56 (w : Nat) : Option Instr :=
  if bitsAre 7 1 0 w && bitsAre 14 3 0 w then some (.topk (fld 3 29 w) (fld 6 23 w) (fld 4 10 w) (fld 2 8 w) (fld 7 0 w)) else
  if bitsAre 0 8 0 w && bitsAre 14 3 1 w then some (.spa (fld 3 29 w) (fld 6 23 w) (fld 4 10 w) (fld 2 8 w)) else
  if bitsAre 1 7 0 w && bitsAre 14 3 2 w then some (.tile (fld 3 29 w) (fld 6 23 w) (fld 4 10 w) (fld 2 8 w) (fld 1 0 w)) else
  if bitsAre 0 8 0 w && bitsAre 14 3 3 w then some (.swst (fld 3 29 w) (fld 6 23 w) (fld 4 10 w) (fld 2 8 w)) else
  none

/-- Move words whose DEST is port code 57 (R155). -/
def decodeMove57 (w : Nat) : Option Instr :=
  if bitsAre 0 8 0 w && bitsAre 14 3 0 w then some (.gthr (fld 3 29 w) (fld 6 23 w) (fld 4 10 w) (fld 2 8 w)) else
  if bitsAre 2 6 0 w && bitsAre 14 3 1 w then some (.sctr (fld 3 29 w) (fld 6 23 w) (fld 4 10 w) (fld 2 8 w) (fld 2 0 w)) else
  if bitsAre 2 6 0 w && bitsAre 14 3 2 w then some (.rmw (fld 3 29 w) (fld 6 23 w) (fld 4 10 w) (fld 2 8 w) (fld 2 0 w)) else
  none

/-- An element move word by its DEST: trigger ports name a family, other ports are plain moves (R153 to R156). -/
def decodeMoveRaw (w : Nat) : Option Instr :=
  match w / 2 ^ 17 % 2 ^ 6 with
  | 39 => decodeMove39 w
  | 48 => decodeMove48 w
  | 49 => decodeMove49 w
  | 50 => decodeMove50 w
  | 51 => decodeMove51 w
  | 52 => decodeMove52 w
  | 53 => decodeMove53 w
  | 54 => decodeMove54 w
  | 55 => decodeMove55 w
  | 56 => decodeMove56 w
  | 57 => decodeMove57 w
  | _ => if bitsAre 0 8 0 w && bitsAre 14 3 0 w then some (.move (fld 3 29 w) (fld 6 23 w) (fld 6 17 w) (fld 4 10 w) (fld 2 8 w)) else none

/-- Keeps a decoded word only if it is well formed. -/
def checkWf : Option Instr → Except DecodeError Instr
  | some i => if i.wf then .ok i else .error .badField
  | none => .error .noFnOrReserved

/-- Which engine's word it is: ENG (R14). -/
def engOf (w : Nat) : Nat := w / 2 ^ 30 % 4

/-- The text word decoder: the engine's own format by ENG (R144, R146). -/
def decodeRaw (w : Nat) : Except DecodeError (Option Instr) :=
  match engOf w with
  | 0 => decodeS w
  | 1 => decodeC w
  | 2 => decodeM w
  | _ => decodeF w

/-- Decodes a text word, or names why the part rejects it. -/
def decodeText (w : Nat) : Except DecodeError Instr :=
  match decodeRaw w with
  | .error e => .error e
  | .ok o => checkWf o

/-- Decodes an element move word, or names why `f.cfgl` refuses it (R157). -/
def decodeMoveWord (w : Nat) : Except DecodeError Instr := checkWf (decodeMoveRaw w)

/-- Whether a word that reads as a text word and as a move word stands for the move (log 6, DESIGN CHOICE): where the move reading names
an operation and bits are set below the text word's opcode. -/
def tableMove (w : Nat) (m : Instr) : Bool :=
  w % 2 ^ 20 != 0 && (match m with
    | .move _ _ _ _ _ => false
    | _ => true)

/-- The instruction of the opcode-table word `w`. Text and move words share their 32 bits and are told apart only by where
they stand, which the table's word does not say; a word that both decoders accept is read as log 6 tells. -/
def decodeTableWord (nbits w : Nat) : Option Instr :=
  if nbits = 32 then
    match decodeText w, decodeMoveWord w with
    | .ok i, .error _ => some i
    | .error _, .ok m => some m
    | .ok i, .ok m => some (if tableMove w m then m else i)
    | .error _, .error _ => none
  else none

/-- The word of a text instruction: its fixed bits and its fields in their places (R146 to R151). -/
def encodeText : Instr → Option Nat
  | .sAdd t d a b => some (0x0 + t.toNat * 0x4000000 + d.toNat * 0x8000 + a.toNat * 0x400 + b.toNat * 0x20)
  | .sSub t d a b => some (0x1 + t.toNat * 0x4000000 + d.toNat * 0x8000 + a.toNat * 0x400 + b.toNat * 0x20)
  | .sAnd t d a b => some (0x2 + t.toNat * 0x4000000 + d.toNat * 0x8000 + a.toNat * 0x400 + b.toNat * 0x20)
  | .sOr t d a b => some (0x3 + t.toNat * 0x4000000 + d.toNat * 0x8000 + a.toNat * 0x400 + b.toNat * 0x20)
  | .sXor t d a b => some (0x4 + t.toNat * 0x4000000 + d.toNat * 0x8000 + a.toNat * 0x400 + b.toNat * 0x20)
  | .sAndn t d a b => some (0x5 + t.toNat * 0x4000000 + d.toNat * 0x8000 + a.toNat * 0x400 + b.toNat * 0x20)
  | .sSll t d a b => some (0x6 + t.toNat * 0x4000000 + d.toNat * 0x8000 + a.toNat * 0x400 + b.toNat * 0x20)
  | .sSrl t d a b => some (0x7 + t.toNat * 0x4000000 + d.toNat * 0x8000 + a.toNat * 0x400 + b.toNat * 0x20)
  | .sSra t d a b => some (0x8 + t.toNat * 0x4000000 + d.toNat * 0x8000 + a.toNat * 0x400 + b.toNat * 0x20)
  | .sMul t d a b => some (0x9 + t.toNat * 0x4000000 + d.toNat * 0x8000 + a.toNat * 0x400 + b.toNat * 0x20)
  | .sMulh t d a b => some (0xa + t.toNat * 0x4000000 + d.toNat * 0x8000 + a.toNat * 0x400 + b.toNat * 0x20)
  | .sMulhu t d a b => some (0xb + t.toNat * 0x4000000 + d.toNat * 0x8000 + a.toNat * 0x400 + b.toNat * 0x20)
  | .sDiv t d a b => some (0xc + t.toNat * 0x4000000 + d.toNat * 0x8000 + a.toNat * 0x400 + b.toNat * 0x20)
  | .sDivu t d a b => some (0xd + t.toNat * 0x4000000 + d.toNat * 0x8000 + a.toNat * 0x400 + b.toNat * 0x20)
  | .sRem t d a b => some (0xe + t.toNat * 0x4000000 + d.toNat * 0x8000 + a.toNat * 0x400 + b.toNat * 0x20)
  | .sRemu t d a b => some (0xf + t.toNat * 0x4000000 + d.toNat * 0x8000 + a.toNat * 0x400 + b.toNat * 0x20)
  | .sMin t d a b => some (0x10 + t.toNat * 0x4000000 + d.toNat * 0x8000 + a.toNat * 0x400 + b.toNat * 0x20)
  | .sMax t d a b => some (0x11 + t.toNat * 0x4000000 + d.toNat * 0x8000 + a.toNat * 0x400 + b.toNat * 0x20)
  | .sMinu t d a b => some (0x12 + t.toNat * 0x4000000 + d.toNat * 0x8000 + a.toNat * 0x400 + b.toNat * 0x20)
  | .sMaxu t d a b => some (0x13 + t.toNat * 0x4000000 + d.toNat * 0x8000 + a.toNat * 0x400 + b.toNat * 0x20)
  | .sSlt t d a b => some (0x14 + t.toNat * 0x4000000 + d.toNat * 0x8000 + a.toNat * 0x400 + b.toNat * 0x20)
  | .sSltu t d a b => some (0x15 + t.toNat * 0x4000000 + d.toNat * 0x8000 + a.toNat * 0x400 + b.toNat * 0x20)
  | .sSeq t d a b => some (0x16 + t.toNat * 0x4000000 + d.toNat * 0x8000 + a.toNat * 0x400 + b.toNat * 0x20)
  | .sSne t d a b => some (0x17 + t.toNat * 0x4000000 + d.toNat * 0x8000 + a.toNat * 0x400 + b.toNat * 0x20)
  | .sClz t d a => some (0x100000 + t.toNat * 0x4000000 + d.toNat * 0x8000 + a.toNat * 0x400)
  | .sCtz t d a => some (0x100001 + t.toNat * 0x4000000 + d.toNat * 0x8000 + a.toNat * 0x400)
  | .sPopc t d a => some (0x100002 + t.toNat * 0x4000000 + d.toNat * 0x8000 + a.toNat * 0x400)
  | .sSextB t d a => some (0x100003 + t.toNat * 0x4000000 + d.toNat * 0x8000 + a.toNat * 0x400)
  | .sSextH t d a => some (0x100004 + t.toNat * 0x4000000 + d.toNat * 0x8000 + a.toNat * 0x400)
  | .sSextW t d a => some (0x100005 + t.toNat * 0x4000000 + d.toNat * 0x8000 + a.toNat * 0x400)
  | .sZextW t d a => some (0x100006 + t.toNat * 0x4000000 + d.toNat * 0x8000 + a.toNat * 0x400)
  | .sAddi t d a i => some (0x200000 + t.toNat * 0x4000000 + d.toNat * 0x8000 + a.toNat * 0x400 + i.toNat)
  | .sAndi t d a i => some (0x300000 + t.toNat * 0x4000000 + d.toNat * 0x8000 + a.toNat * 0x400 + i.toNat)
  | .sOri t d a i => some (0x400000 + t.toNat * 0x4000000 + d.toNat * 0x8000 + a.toNat * 0x400 + i.toNat)
  | .sXori t d a i => some (0x500000 + t.toNat * 0x4000000 + d.toNat * 0x8000 + a.toNat * 0x400 + i.toNat)
  | .sSlti t d a i => some (0x600000 + t.toNat * 0x4000000 + d.toNat * 0x8000 + a.toNat * 0x400 + i.toNat)
  | .sSltiu t d a i => some (0x700000 + t.toNat * 0x4000000 + d.toNat * 0x8000 + a.toNat * 0x400 + i.toNat)
  | .sSlli t d a h => some (0x800000 + t.toNat * 0x4000000 + d.toNat * 0x8000 + a.toNat * 0x400 + h.toNat)
  | .sSrli t d a h => some (0x800100 + t.toNat * 0x4000000 + d.toNat * 0x8000 + a.toNat * 0x400 + h.toNat)
  | .sSrai t d a h => some (0x800200 + t.toNat * 0x4000000 + d.toNat * 0x8000 + a.toNat * 0x400 + h.toNat)
  | .sLui t d i => some (0x900000 + t.toNat * 0x4000000 + d.toNat * 0x8000 + i.toNat)
  | .sSwz t d a m => some (0xa00000 + t.toNat * 0x4000000 + d.toNat * 0x8000 + a.toNat * 0x400 + m.toNat)
  | .sBfx t d a p w => some (0xb00000 + t.toNat * 0x4000000 + d.toNat * 0x8000 + a.toNat * 0x400 + p.toNat * 0x8 + w.toNat)
  | .sBfi t d a p w => some (0xb00200 + t.toNat * 0x4000000 + d.toNat * 0x8000 + a.toNat * 0x400 + p.toNat * 0x8 + w.toNat)
  | .sMadd t d a b => some (0xc00000 + t.toNat * 0x4000000 + d.toNat * 0x8000 + a.toNat * 0x400 + b.toNat * 0x20)
  | .sImx i => some (0xe00000 + i.toNat)
  | .sSem o s w k => some (0xf00000 + o.toNat * 0x40000 + s.toNat * 0x8000 + w.toNat * 0x1000 + k.toNat * 0x200)
  | .sLdB t d a w k => some (0x1000000 + t.toNat * 0x4000000 + d.toNat * 0x8000 + a.toNat * 0x400 + w.toNat * 0x80 + k.toNat * 0x10)
  | .sLdH t d a w k => some (0x1000001 + t.toNat * 0x4000000 + d.toNat * 0x8000 + a.toNat * 0x400 + w.toNat * 0x80 + k.toNat * 0x10)
  | .sLdW t d a w k => some (0x1000002 + t.toNat * 0x4000000 + d.toNat * 0x8000 + a.toNat * 0x400 + w.toNat * 0x80 + k.toNat * 0x10)
  | .sLdD t d a w k => some (0x1000003 + t.toNat * 0x4000000 + d.toNat * 0x8000 + a.toNat * 0x400 + w.toNat * 0x80 + k.toNat * 0x10)
  | .sLdBu t d a w k => some (0x1000004 + t.toNat * 0x4000000 + d.toNat * 0x8000 + a.toNat * 0x400 + w.toNat * 0x80 + k.toNat * 0x10)
  | .sLdHu t d a w k => some (0x1000005 + t.toNat * 0x4000000 + d.toNat * 0x8000 + a.toNat * 0x400 + w.toNat * 0x80 + k.toNat * 0x10)
  | .sLdWu t d a w k => some (0x1000006 + t.toNat * 0x4000000 + d.toNat * 0x8000 + a.toNat * 0x400 + w.toNat * 0x80 + k.toNat * 0x10)
  | .sStB t d a w k => some (0x1100000 + t.toNat * 0x4000000 + d.toNat * 0x8000 + a.toNat * 0x400 + w.toNat * 0x80 + k.toNat * 0x10)
  | .sStH t d a w k => some (0x1100001 + t.toNat * 0x4000000 + d.toNat * 0x8000 + a.toNat * 0x400 + w.toNat * 0x80 + k.toNat * 0x10)
  | .sStW t d a w k => some (0x1100002 + t.toNat * 0x4000000 + d.toNat * 0x8000 + a.toNat * 0x400 + w.toNat * 0x80 + k.toNat * 0x10)
  | .sStD t d a w k => some (0x1100003 + t.toNat * 0x4000000 + d.toNat * 0x8000 + a.toNat * 0x400 + w.toNat * 0x80 + k.toNat * 0x10)
  | .sQld t q a b => some (0x1200000 + t.toNat * 0x4000000 + q.toNat * 0x8000 + a.toNat * 0x400 + b.toNat * 0x20)
  | .sQld1 t q a b => some (0x1200001 + t.toNat * 0x4000000 + q.toNat * 0x8000 + a.toNat * 0x400 + b.toNat * 0x20)
  | .sQlds t q a b => some (0x1200002 + t.toNat * 0x4000000 + q.toNat * 0x8000 + a.toNat * 0x400 + b.toNat * 0x20)
  | .sQst t q a b => some (0x1300000 + t.toNat * 0x4000000 + q.toNat * 0x8000 + a.toNat * 0x400 + b.toNat * 0x20)
  | .sQst1 t q a b => some (0x1300001 + t.toNat * 0x4000000 + q.toNat * 0x8000 + a.toNat * 0x400 + b.toNat * 0x20)
  | .sQpop t q a b => some (0x1400000 + t.toNat * 0x4000000 + q.toNat * 0x8000 + a.toNat * 0x400 + b.toNat * 0x20)
  | .sQpeek t q a b => some (0x1400001 + t.toNat * 0x4000000 + q.toNat * 0x8000 + a.toNat * 0x400 + b.toNat * 0x20)
  | .sQpsh t q a => some (0x1400002 + t.toNat * 0x4000000 + q.toNat * 0x8000 + a.toNat * 0x400)
  | .sQcnt t q a c => some (0x1400003 + t.toNat * 0x4000000 + q.toNat * 0x8000 + a.toNat * 0x400 + c.toNat * 0x20)
  | .sQdisc t q a c => some (0x1400004 + t.toNat * 0x4000000 + q.toNat * 0x8000 + a.toNat * 0x400 + c.toNat * 0x20)
  | .sQhem t q l => some (0x1400005 + t.toNat * 0x4000000 + q.toNat * 0x8000 + l.toNat * 0x20)
  | .sVld t d a b => some (0x1500000 + t.toNat * 0x4000000 + d.toNat * 0x8000 + a.toNat * 0x400 + b.toNat * 0x20)
  | .sVst t d a b => some (0x1600000 + t.toNat * 0x4000000 + d.toNat * 0x8000 + a.toNat * 0x400 + b.toNat * 0x20)
  | .sVrc t a b => some (0x1700000 + t.toNat * 0x4000000 + a.toNat * 0x400 + b.toNat * 0x20)
  | .sAmoAdd t d a b w => some (0x1800000 + t.toNat * 0x4000000 + d.toNat * 0x8000 + a.toNat * 0x400 + b.toNat * 0x20 + w.toNat * 0x10)
  | .sAmoAnd t d a b w => some (0x1800001 + t.toNat * 0x4000000 + d.toNat * 0x8000 + a.toNat * 0x400 + b.toNat * 0x20 + w.toNat * 0x10)
  | .sAmoOr t d a b w => some (0x1800002 + t.toNat * 0x4000000 + d.toNat * 0x8000 + a.toNat * 0x400 + b.toNat * 0x20 + w.toNat * 0x10)
  | .sAmoXor t d a b w => some (0x1800003 + t.toNat * 0x4000000 + d.toNat * 0x8000 + a.toNat * 0x400 + b.toNat * 0x20 + w.toNat * 0x10)
  | .sAmoMin t d a b w => some (0x1800004 + t.toNat * 0x4000000 + d.toNat * 0x8000 + a.toNat * 0x400 + b.toNat * 0x20 + w.toNat * 0x10)
  | .sAmoMax t d a b w => some (0x1800005 + t.toNat * 0x4000000 + d.toNat * 0x8000 + a.toNat * 0x400 + b.toNat * 0x20 + w.toNat * 0x10)
  | .sAmoMinu t d a b w => some (0x1800006 + t.toNat * 0x4000000 + d.toNat * 0x8000 + a.toNat * 0x400 + b.toNat * 0x20 + w.toNat * 0x10)
  | .sAmoMaxu t d a b w => some (0x1800007 + t.toNat * 0x4000000 + d.toNat * 0x8000 + a.toNat * 0x400 + b.toNat * 0x20 + w.toNat * 0x10)
  | .sAmoSwap t d a b w => some (0x1800008 + t.toNat * 0x4000000 + d.toNat * 0x8000 + a.toNat * 0x400 + b.toNat * 0x20 + w.toNat * 0x10)
  | .sAmoFadd t d a b w => some (0x1800009 + t.toNat * 0x4000000 + d.toNat * 0x8000 + a.toNat * 0x400 + b.toNat * 0x20 + w.toNat * 0x10)
  | .sCas t d a b w => some (0x1900000 + t.toNat * 0x4000000 + d.toNat * 0x8000 + a.toNat * 0x400 + b.toNat * 0x20 + w.toNat * 0x10)
  | .sFence t o s => some (0x1a00000 + t.toNat * 0x4000000 + o.toNat * 0x40000 + s.toNat * 0x8000)
  | .sKwait t k => some (0x1b00000 + t.toNat * 0x4000000 + k.toNat * 0x8000)
  | .sKclr t k => some (0x1b00001 + t.toNat * 0x4000000 + k.toNat * 0x8000)
  | .sRinv t d a b i => some (0x1c00000 + t.toNat * 0x4000000 + d.toNat * 0x8000 + a.toNat * 0x400 + b.toNat * 0x20 + i.toNat)
  | .sB t f d => some (0x2000000 + t.toNat * 0x4000000 + f.toNat * 0x80000 + d.toNat)
  | .sBeqz t f a d => some (0x2010000 + t.toNat * 0x4000000 + f.toNat * 0x80000 + a.toNat * 0x800 + d.toNat)
  | .sBnez t f a d => some (0x2020000 + t.toNat * 0x4000000 + f.toNat * 0x80000 + a.toNat * 0x800 + d.toNat)
  | .sBltz t f a d => some (0x2030000 + t.toNat * 0x4000000 + f.toNat * 0x80000 + a.toNat * 0x800 + d.toNat)
  | .sBgez t f a d => some (0x2040000 + t.toNat * 0x4000000 + f.toNat * 0x80000 + a.toNat * 0x800 + d.toNat)
  | .sBgtz t f a d => some (0x2050000 + t.toNat * 0x4000000 + f.toNat * 0x80000 + a.toNat * 0x800 + d.toNat)
  | .sBlez t f a d => some (0x2060000 + t.toNat * 0x4000000 + f.toNat * 0x80000 + a.toNat * 0x800 + d.toNat)
  | .sBqb t f a d => some (0x2100000 + t.toNat * 0x4000000 + f.toNat * 0x80000 + a.toNat * 0x800 + d.toNat)
  | .sBqbEqz t f a d => some (0x2110000 + t.toNat * 0x4000000 + f.toNat * 0x80000 + a.toNat * 0x800 + d.toNat)
  | .sBqbNez t f a d => some (0x2120000 + t.toNat * 0x4000000 + f.toNat * 0x80000 + a.toNat * 0x800 + d.toNat)
  | .sBqbLtz t f a d => some (0x2130000 + t.toNat * 0x4000000 + f.toNat * 0x80000 + a.toNat * 0x800 + d.toNat)
  | .sBqbGez t f a d => some (0x2140000 + t.toNat * 0x4000000 + f.toNat * 0x80000 + a.toNat * 0x800 + d.toNat)
  | .sBqbGtz t f a d => some (0x2150000 + t.toNat * 0x4000000 + f.toNat * 0x80000 + a.toNat * 0x800 + d.toNat)
  | .sBqbLez t f a d => some (0x2160000 + t.toNat * 0x4000000 + f.toNat * 0x80000 + a.toNat * 0x800 + d.toNat)
  | .sJal t d i => some (0x2200000 + t.toNat * 0x4000000 + d.toNat * 0x8000 + i.toNat)
  | .sJalr t d a i => some (0x2300000 + t.toNat * 0x4000000 + d.toNat * 0x8000 + a.toNat * 0x400 + i.toNat)
  | .sSdw t s f a => some (0x2800000 + t.toNat * 0x4000000 + s.toNat * 0x10000 + f.toNat * 0x400 + a.toNat * 0x20)
  | .sMtw t l f a => some (0x2900000 + t.toNat * 0x4000000 + l.toNat * 0x20000 + f.toNat * 0x4000 + a.toNat * 0x20)
  | .sInj t a x y p => some (0x2a00000 + t.toNat * 0x4000000 + a.toNat * 0x8000 + x.toNat * 0x800 + y.toNat * 0x80 + p.toNat * 0x2)
  | .sEcall t => some (0x3000000 + t.toNat * 0x4000000)
  | .sEret t => some (0x3000001 + t.toNat * 0x4000000)
  | .sPark t => some (0x3000002 + t.toNat * 0x4000000)
  | .sYield t => some (0x3000003 + t.toNat * 0x4000000)
  | .sBreak t => some (0x3000004 + t.toNat * 0x4000000)
  | .sEnd t => some (0x3000005 + t.toNat * 0x4000000)
  | .sNop t => some (0x3000006 + t.toNat * 0x4000000)
  | .sMvfs t d r => some (0x3100000 + t.toNat * 0x4000000 + d.toNat * 0x8000 + r.toNat)
  | .sMvts t a r => some (0x3200000 + t.toNat * 0x4000000 + a.toNat * 0x400 + r.toNat)
  | .sBarInit t a b => some (0x3300000 + t.toNat * 0x4000000 + a.toNat * 0x400 + b.toNat * 0x20)
  | .sBarArv t d a => some (0x3300001 + t.toNat * 0x4000000 + d.toNat * 0x8000 + a.toNat * 0x400)
  | .sBarWait t a b => some (0x3300002 + t.toNat * 0x4000000 + a.toNat * 0x400 + b.toNat * 0x20)
  | .sBarAddb t a b => some (0x3300003 + t.toNat * 0x4000000 + a.toNat * 0x400 + b.toNat * 0x20)
  | .sLnch t d a b => some (0x3400000 + t.toNat * 0x4000000 + d.toNat * 0x8000 + a.toNat * 0x400 + b.toNat * 0x20)
  | .sWfn t d a b => some (0x3500000 + t.toNat * 0x4000000 + d.toNat * 0x8000 + a.toNat * 0x400 + b.toNat * 0x20)
  | .sNsig t a b => some (0x3500001 + t.toNat * 0x4000000 + a.toNat * 0x400 + b.toNat * 0x20)
  | .sNclr t a b => some (0x3500002 + t.toNat * 0x4000000 + a.toNat * 0x400 + b.toNat * 0x20)
  | .sPcut t a => some (0x3600000 + t.toNat * 0x4000000 + a.toNat * 0x400)
  | .sPjoin t a => some (0x3600001 + t.toNat * 0x4000000 + a.toNat * 0x400)
  | .sPqry t d => some (0x3600002 + t.toNat * 0x4000000 + d.toNat * 0x8000)
  | .sTlbiVa t a b => some (0x3700000 + t.toNat * 0x4000000 + a.toNat * 0x400 + b.toNat * 0x20)
  | .sTlbiAsid t b => some (0x3700001 + t.toNat * 0x4000000 + b.toNat * 0x20)
  | .sTlbiAll t => some (0x3700002 + t.toNat * 0x4000000)
  | .sTurn t d a => some (0x3800000 + t.toNat * 0x4000000 + d.toNat * 0x8000 + a.toNat * 0x400)
  | .sCnt t a b => some (0x3900000 + t.toNat * 0x4000000 + a.toNat * 0x400 + b.toNat * 0x20)
  | .cGo t s => some (0x40000000 + t.toNat * 0x4000000 + s.toNat * 0x20000)
  | .cStop t s => some (0x40200000 + t.toNat * 0x4000000 + s.toNat * 0x20000)
  | .cWait t s => some (0x40400000 + t.toNat * 0x4000000 + s.toNat * 0x20000)
  | .cWaitAll t => some (0x40400001 + t.toNat * 0x4000000)
  | .cAdv t s n => some (0x40600000 + t.toNat * 0x4000000 + s.toNat * 0x20000 + n.toNat)
  | .cBar t s => some (0x40800000 + t.toNat * 0x4000000 + s.toNat * 0x20000)
  | .cJrnl t s => some (0x40a00000 + t.toNat * 0x4000000 + s.toNat * 0x20000)
  | .cFlush t s => some (0x40c00000 + t.toNat * 0x4000000 + s.toNat * 0x20000)
  | .cLnk t l q => some (0x40e00000 + t.toNat * 0x4000000 + l.toNat * 0x100 + q.toNat)
  | .cFence t s => some (0x41000000 + t.toNat * 0x4000000 + s.toNat)
  | .cPri t s p => some (0x41200000 + t.toNat * 0x4000000 + s.toNat * 0x20000 + p.toNat)
  | .cRep t l c => some (0x41400000 + t.toNat * 0x4000000 + l.toNat * 0x1000 + c.toNat)
  | .mGo t l r => some (0x80000000 + t.toNat * 0x4000000 + l.toNat * 0x40000 + r.toNat)
  | .mWait t => some (0x80200000 + t.toNat * 0x4000000)
  | .mLdb t k => some (0x80400000 + t.toNat * 0x4000000 + k.toNat)
  | .mSwb t => some (0x80600000 + t.toNat * 0x4000000)
  | .mMma t n r => some (0x80800000 + t.toNat * 0x4000000 + n.toNat * 0x200 + r.toNat)
  | .mDrn t n r => some (0x80a00000 + t.toNat * 0x4000000 + n.toNat * 0x200 + r.toNat)
  | .mZero t n r => some (0x80c00000 + t.toNat * 0x4000000 + n.toNat * 0x200 + r.toNat)
  | .mFmt t f b a => some (0x80e00000 + t.toNat * 0x4000000 + f.toNat * 0x100 + b.toNat * 0x10 + a.toNat)
  | .mScl t s => some (0x81000000 + t.toNat * 0x4000000 + s.toNat)
  | .mSclOne t => some (0x81000400 + t.toNat * 0x4000000)
  | .mBind t r o s => some (0x81200000 + t.toNat * 0x4000000 + r.toNat * 0x1000 + o.toNat * 0x400 + s.toNat)
  | .mBindMem t d => some (0x81210800 + t.toNat * 0x4000000 + d.toNat)
  | .mUnbind t r o => some (0x81208000 + t.toNat * 0x4000000 + r.toNat * 0x1000 + o.toNat * 0x400)
  | .mKeep t n f => some (0x81400000 + t.toNat * 0x4000000 + n.toNat * 0x2 + f.toNat)
  | .mKeepRelease t n f => some (0x81400004 + t.toNat * 0x4000000 + n.toNat * 0x2 + f.toNat)
  | .mToil t => some (0x81600000 + t.toNat * 0x4000000)
  | .mRep t l c => some (0x81800000 + t.toNat * 0x4000000 + l.toNat * 0x1000 + c.toNat)
  | .fCfgl t o => some (0xc0000000 + t.toNat * 0x4000000 + o.toNat)
  | .fTurn t => some (0xc0200000 + t.toNat * 0x4000000)
  | .fTurnNow t => some (0xc0200001 + t.toNat * 0x4000000)
  | .fKset t e => some (0xc0400000 + t.toNat * 0x4000000 + e.toNat)
  | .fHem t n l e => some (0xc0600000 + t.toNat * 0x4000000 + n.toNat * 0x200 + l.toNat * 0x40 + e.toNat)
  | .fArm t => some (0xc0800000 + t.toNat * 0x4000000)
  | .fStop t => some (0xc0a00000 + t.toNat * 0x4000000)
  | .fWdr t => some (0xc0c00000 + t.toNat * 0x4000000)
  | .fSink t y x n => some (0xc0e00000 + t.toNat * 0x4000000 + y.toNat * 0x400 + x.toNat * 0x40 + n.toNat)
  | .fSinkClr t n => some (0xc0e04000 + t.toNat * 0x4000000 + n.toNat)
  | .fTag t w f => some (0xc1000100 + t.toNat * 0x4000000 + w.toNat * 0x8 + f.toNat)
  | .fTagClr t => some (0xc1000200 + t.toNat * 0x4000000)
  | .fTagSetClr t w f => some (0xc1000300 + t.toNat * 0x4000000 + w.toNat * 0x8 + f.toNat)
  | .fPleat t p y x => some (0xc1200000 + t.toNat * 0x4000000 + p.toNat * 0x100 + y.toNat * 0x10 + x.toNat)
  | _ => none

/-- The word of an element move (R153). -/
def encodeMove : Instr → Option Nat
  | .move g s d l t => some (0x0 + g.toNat * 0x20000000 + s.toNat * 0x800000 + d.toNat * 0x20000 + l.toNat * 0x400 + t.toNat * 0x100)
  | .isect s p => some (0x4e3c00 + s.toNat * 0x800000 + p.toNat)
  | .add g s l t i => some (0x600000 + g.toNat * 0x20000000 + s.toNat * 0x800000 + l.toNat * 0x400 + t.toNat * 0x100 + i.toNat)
  | .sub g s l t i => some (0x604000 + g.toNat * 0x20000000 + s.toNat * 0x800000 + l.toNat * 0x400 + t.toNat * 0x100 + i.toNat)
  | .and g s l t i => some (0x608000 + g.toNat * 0x20000000 + s.toNat * 0x800000 + l.toNat * 0x400 + t.toNat * 0x100 + i.toNat)
  | .or g s l t i => some (0x60c000 + g.toNat * 0x20000000 + s.toNat * 0x800000 + l.toNat * 0x400 + t.toNat * 0x100 + i.toNat)
  | .xor g s l t i => some (0x610000 + g.toNat * 0x20000000 + s.toNat * 0x800000 + l.toNat * 0x400 + t.toNat * 0x100 + i.toNat)
  | .shl g s l t i => some (0x614000 + g.toNat * 0x20000000 + s.toNat * 0x800000 + l.toNat * 0x400 + t.toNat * 0x100 + i.toNat)
  | .shr g s l t i => some (0x618000 + g.toNat * 0x20000000 + s.toNat * 0x800000 + l.toNat * 0x400 + t.toNat * 0x100 + i.toNat)
  | .sar g s l t i => some (0x61c000 + g.toNat * 0x20000000 + s.toNat * 0x800000 + l.toNat * 0x400 + t.toNat * 0x100 + i.toNat)
  | .min g s l t i => some (0x620000 + g.toNat * 0x20000000 + s.toNat * 0x800000 + l.toNat * 0x400 + t.toNat * 0x100 + i.toNat)
  | .max g s l t i => some (0x624000 + g.toNat * 0x20000000 + s.toNat * 0x800000 + l.toNat * 0x400 + t.toNat * 0x100 + i.toNat)
  | .ceq g s l t i => some (0x628000 + g.toNat * 0x20000000 + s.toNat * 0x800000 + l.toNat * 0x400 + t.toNat * 0x100 + i.toNat)
  | .clt g s l t i => some (0x62c000 + g.toNat * 0x20000000 + s.toNat * 0x800000 + l.toNat * 0x400 + t.toNat * 0x100 + i.toNat)
  | .cle g s l t i => some (0x630000 + g.toNat * 0x20000000 + s.toNat * 0x800000 + l.toNat * 0x400 + t.toNat * 0x100 + i.toNat)
  | .adds g s l t i => some (0x634000 + g.toNat * 0x20000000 + s.toNat * 0x800000 + l.toNat * 0x400 + t.toNat * 0x100 + i.toNat)
  | .subs g s l t i => some (0x638000 + g.toNat * 0x20000000 + s.toNat * 0x800000 + l.toNat * 0x400 + t.toNat * 0x100 + i.toNat)
  | .mulsr g s l t k r => some (0x63c000 + g.toNat * 0x20000000 + s.toNat * 0x800000 + l.toNat * 0x400 + t.toNat * 0x100 + k.toNat * 0x20 + r.toNat)
  | .sel g s l t => some (0x640000 + g.toNat * 0x20000000 + s.toNat * 0x800000 + l.toNat * 0x400 + t.toNat * 0x100)
  | .abs g s l t => some (0x644000 + g.toNat * 0x20000000 + s.toNat * 0x800000 + l.toNat * 0x400 + t.toNat * 0x100)
  | .neg g s l t => some (0x648000 + g.toNat * 0x20000000 + s.toNat * 0x800000 + l.toNat * 0x400 + t.toNat * 0x100)
  | .cvtIf g s l t => some (0x64c000 + g.toNat * 0x20000000 + s.toNat * 0x800000 + l.toNat * 0x400 + t.toNat * 0x100)
  | .cvtFi g s l t => some (0x650000 + g.toNat * 0x20000000 + s.toNat * 0x800000 + l.toNat * 0x400 + t.toNat * 0x100)
  | .pass g s l t => some (0x654000 + g.toNat * 0x20000000 + s.toNat * 0x800000 + l.toNat * 0x400 + t.toNat * 0x100)
  | .fadd g s l t i => some (0x660000 + g.toNat * 0x20000000 + s.toNat * 0x800000 + l.toNat * 0x400 + t.toNat * 0x100 + i.toNat)
  | .fsub g s l t i => some (0x664000 + g.toNat * 0x20000000 + s.toNat * 0x800000 + l.toNat * 0x400 + t.toNat * 0x100 + i.toNat)
  | .fmul g s l t i => some (0x668000 + g.toNat * 0x20000000 + s.toNat * 0x800000 + l.toNat * 0x400 + t.toNat * 0x100 + i.toNat)
  | .fma g s l t => some (0x66c000 + g.toNat * 0x20000000 + s.toNat * 0x800000 + l.toNat * 0x400 + t.toNat * 0x100)
  | .fnma g s l t => some (0x670000 + g.toNat * 0x20000000 + s.toNat * 0x800000 + l.toNat * 0x400 + t.toNat * 0x100)
  | .fmin g s l t i => some (0x674000 + g.toNat * 0x20000000 + s.toNat * 0x800000 + l.toNat * 0x400 + t.toNat * 0x100 + i.toNat)
  | .fmax g s l t i => some (0x678000 + g.toNat * 0x20000000 + s.toNat * 0x800000 + l.toNat * 0x400 + t.toNat * 0x100 + i.toNat)
  | .fclip g s l t h lo => some (0x67c000 + g.toNat * 0x20000000 + s.toNat * 0x800000 + l.toNat * 0x400 + t.toNat * 0x100 + h.toNat * 0x8 + lo.toNat)
  | .fclt g s l t i => some (0x680000 + g.toNat * 0x20000000 + s.toNat * 0x800000 + l.toNat * 0x400 + t.toNat * 0x100 + i.toNat)
  | .fcle g s l t i => some (0x684000 + g.toNat * 0x20000000 + s.toNat * 0x800000 + l.toNat * 0x400 + t.toNat * 0x100 + i.toNat)
  | .fceq g s l t i => some (0x688000 + g.toNat * 0x20000000 + s.toNat * 0x800000 + l.toNat * 0x400 + t.toNat * 0x100 + i.toNat)
  | .exp2 g s l t => some (0x6a0000 + g.toNat * 0x20000000 + s.toNat * 0x800000 + l.toNat * 0x400 + t.toNat * 0x100)
  | .log2 g s l t => some (0x6a4000 + g.toNat * 0x20000000 + s.toNat * 0x800000 + l.toNat * 0x400 + t.toNat * 0x100)
  | .rcp g s l t => some (0x6a8000 + g.toNat * 0x20000000 + s.toNat * 0x800000 + l.toNat * 0x400 + t.toNat * 0x100)
  | .rsqrt g s l t => some (0x6ac000 + g.toNat * 0x20000000 + s.toNat * 0x800000 + l.toNat * 0x400 + t.toNat * 0x100)
  | .sqrt g s l t => some (0x6b0000 + g.toNat * 0x20000000 + s.toNat * 0x800000 + l.toNat * 0x400 + t.toNat * 0x100)
  | .tanh g s l t => some (0x6b4000 + g.toNat * 0x20000000 + s.toNat * 0x800000 + l.toNat * 0x400 + t.toNat * 0x100)
  | .sigm g s l t => some (0x6b8000 + g.toNat * 0x20000000 + s.toNat * 0x800000 + l.toNat * 0x400 + t.toNat * 0x100)
  | .lsum g s l t f => some (0x6c0000 + g.toNat * 0x20000000 + s.toNat * 0x800000 + l.toNat * 0x400 + t.toNat * 0x100 + f.toNat)
  | .lmax g s l t f => some (0x6c4000 + g.toNat * 0x20000000 + s.toNat * 0x800000 + l.toNat * 0x400 + t.toNat * 0x100 + f.toNat)
  | .lmin g s l t f => some (0x6c8000 + g.toNat * 0x20000000 + s.toNat * 0x800000 + l.toNat * 0x400 + t.toNat * 0x100 + f.toNat)
  | .cnt g s l t => some (0x6cc000 + g.toNat * 0x20000000 + s.toNat * 0x800000 + l.toNat * 0x400 + t.toNat * 0x100)
  | .acc g s l t f => some (0x6d0000 + g.toNat * 0x20000000 + s.toNat * 0x800000 + l.toNat * 0x400 + t.toNat * 0x100 + f.toNat)
  | .accm g s l t f => some (0x6d4000 + g.toNat * 0x20000000 + s.toNat * 0x800000 + l.toNat * 0x400 + t.toNat * 0x100 + f.toNat)
  | .scan g s l t f => some (0x6d8000 + g.toNat * 0x20000000 + s.toNat * 0x800000 + l.toNat * 0x400 + t.toNat * 0x100 + f.toNat)
  | .pack g s l t z c => some (0x6e0000 + g.toNat * 0x20000000 + s.toNat * 0x800000 + l.toNat * 0x400 + t.toNat * 0x100 + z.toNat * 0x2 + c.toNat)
  | .unpk g s l t => some (0x6e4000 + g.toNat * 0x20000000 + s.toNat * 0x800000 + l.toNat * 0x400 + t.toNat * 0x100)
  | .reord g s l t k => some (0x6e8000 + g.toNat * 0x20000000 + s.toNat * 0x800000 + l.toNat * 0x400 + t.toNat * 0x100 + k.toNat)
  | .merge2 g s l t => some (0x6ec000 + g.toNat * 0x20000000 + s.toNat * 0x800000 + l.toNat * 0x400 + t.toNat * 0x100)
  | .union g s l t => some (0x6f0000 + g.toNat * 0x20000000 + s.toNat * 0x800000 + l.toNat * 0x400 + t.toNat * 0x100)
  | .steer g s l t => some (0x6f4000 + g.toNat * 0x20000000 + s.toNat * 0x800000 + l.toNat * 0x400 + t.toNat * 0x100)
  | .mrg g s l t => some (0x6f8000 + g.toNat * 0x20000000 + s.toNat * 0x800000 + l.toNat * 0x400 + t.toNat * 0x100)
  | .dup g s l t => some (0x6fc000 + g.toNat * 0x20000000 + s.toNat * 0x800000 + l.toNat * 0x400 + t.toNat * 0x100)
  | .topk g s l t k => some (0x700000 + g.toNat * 0x20000000 + s.toNat * 0x800000 + l.toNat * 0x400 + t.toNat * 0x100 + k.toNat)
  | .spa g s l t => some (0x704000 + g.toNat * 0x20000000 + s.toNat * 0x800000 + l.toNat * 0x400 + t.toNat * 0x100)
  | .tile g s l t x => some (0x708000 + g.toNat * 0x20000000 + s.toNat * 0x800000 + l.toNat * 0x400 + t.toNat * 0x100 + x.toNat)
  | .swst g s l t => some (0x70c000 + g.toNat * 0x20000000 + s.toNat * 0x800000 + l.toNat * 0x400 + t.toNat * 0x100)
  | .gthr g s l t => some (0x720000 + g.toNat * 0x20000000 + s.toNat * 0x800000 + l.toNat * 0x400 + t.toNat * 0x100)
  | .sctr g s l t o => some (0x724000 + g.toNat * 0x20000000 + s.toNat * 0x800000 + l.toNat * 0x400 + t.toNat * 0x100 + o.toNat)
  | .rmw g s l t o => some (0x728000 + g.toNat * 0x20000000 + s.toNat * 0x800000 + l.toNat * 0x400 + t.toNat * 0x100 + o.toNat)
  | _ => none

/-- The word of an instruction that has one: the events of the part have none. -/
def encode (i : Instr) : Option Nat :=
  match encodeText i with
  | some w => some w
  | none => encodeMove i

end Sys2Proof
end

