-- ==== Sys2Proof/Machine/Bits.lean ====
section
/-! DEFINITION. Bit fields, sign extension, byte order (R1) and integer roundings (R121) over Nat and Int. -/

namespace Sys2Proof.Machine

/-- Bits [lo + n - 1 : lo] of a number. -/
def bits (v lo n : Nat) : Nat := v / 2 ^ lo % 2 ^ n

/-- Bit `i` of a number. -/
def bitAt (v i : Nat) : Bool := v / 2 ^ i % 2 == 1

/-- The number with the `n` bits from `lo` replaced by those of `x`. -/
def putBits (v lo n x : Nat) : Nat :=
  v - bits v lo n * 2 ^ lo + x % 2 ^ n * 2 ^ lo

/-- An `n`-bit number read as two's complement. -/
def sgn (n v : Nat) : Int :=
  if v % 2 ^ n < 2 ^ (n - 1) then ((v % 2 ^ n : Nat) : Int) else ((v % 2 ^ n : Nat) : Int) - ((2 ^ n : Nat) : Int)

/-- The low `n` bits of an integer. -/
def lowBits (n : Nat) (v : Int) : Nat := (v % ((2 ^ n : Nat) : Int)).toNat

/-- The `n` low bytes of a number, lowest first (R1). -/
def bytesOf : Nat → Nat → List Byte
  | 0, _ => []
  | n + 1, v => BitVec.ofNat 8 v :: bytesOf n (v / 256)

/-- The number of a list of bytes, lowest first (R1). -/
def ofBytes : List Byte → Nat
  | [] => 0
  | b :: bs => b.toNat + 256 * ofBytes bs

/-- Doubleword `i` of a list of bytes. -/
def dword (bs : List Byte) (i : Nat) : Nat := ofBytes ((bs.drop (8 * i)).take 8)

/-- The `n` low bits of a number, lowest first. -/
def bitsOf : Nat → Nat → List Bool
  | 0, _ => []
  | n + 1, v => (v % 2 == 1) :: bitsOf n (v / 2)

/-- The number of a list of bits, lowest first. -/
def ofBits : List Bool → Nat
  | [] => 0
  | b :: bs => (if b then 1 else 0) + 2 * ofBits bs

/-- The bits of a list of bytes in stream order (R129): bit j is bit j mod 8 of byte j div 8. -/
def bitsOfBytes : List Byte → List Bool
  | [] => []
  | b :: bs => bitsOf 8 b.toNat ++ bitsOfBytes bs

/-- Packs bits into bytes, filling the last with zeros; `n` bounds the bytes. -/
def bytesOfBits : Nat → List Bool → List Byte
  | 0, _ => []
  | _, [] => []
  | n + 1, b => BitVec.ofNat 8 (ofBits (b.take 8)) :: bytesOfBits n (b.drop 8)

/-- The least power of two at or above a number, as its logarithm. -/
def clog2 (n : Nat) : Nat := if n ≤ 1 then 0 else (n - 1).log2 + 1

/-- The number rounded up to a multiple of `m`. -/
def roundUp (n m : Nat) : Nat := (n + m - 1) / m * m

/-- 2 to an integer power, as the shift of a dyadic number (m, e), value m * 2^e, to exponent 0 or above: the part
below is dropped. -/
def floorShift (m : Nat) (e : Int) : Nat := if 0 ≤ e then m * 2 ^ e.toNat else m / 2 ^ (-e).toNat

/-- Division of a magnitude by 2^n rounded to nearest, ties to even. -/
def rne (m n : Nat) : Nat :=
  let q := m / 2 ^ n
  let r := 2 * (m % 2 ^ n)
  if r < 2 ^ n then q else if 2 ^ n < r then q + 1 else q + q % 2

/-- RshRne (R121): x / 2^n to the nearest integer, ties to even. -/
def rshRne (x : Int) (n : Nat) : Int :=
  if 0 ≤ x then (rne x.toNat n : Int) else -(rne (-x).toNat n : Int)

/-- The integer square root by bits: `n` bits of the root of `m`, from `r` so far. -/
def isqrtBits : Nat → Nat → Nat → Nat
  | 0, _, r => r
  | n + 1, m, r =>
    let t := r + 2 ^ n
    if t * t ≤ m then isqrtBits n m t else isqrtBits n m r

/-- The floor of the square root of a number. -/
def isqrt (m : Nat) : Nat := isqrtBits (m.log2 / 2 + 1) m 0

/-- A list of the given length built from its indices. -/
def tab {α : Type} (n : Nat) (f : Nat → α) : List α := (List.range n).map f

/-- The first index of a list whose entry satisfies a test. -/
def firstIdx {α : Type} (p : α → Bool) : List α → Option Nat
  | [] => none
  | x :: xs => if p x then some 0 else (firstIdx p xs).map (· + 1)

/-- A list with entry `i` replaced; nothing where it has none. -/
def putAt {α : Type} : List α → Nat → α → List α
  | [], _, _ => []
  | _ :: xs, 0, y => y :: xs
  | x :: xs, n + 1, y => x :: putAt xs n y

/-- A list without entry `i`. -/
def dropAt {α : Type} : List α → Nat → List α
  | [], _ => []
  | _ :: xs, 0 => xs
  | x :: xs, n + 1 => x :: dropAt xs n

/-- An entry by its index, or the default. -/
def nth {α : Type} (d : α) : List α → Nat → α
  | [], _ => d
  | x :: _, 0 => x
  | _ :: xs, n + 1 => nth d xs n

end Sys2Proof.Machine
end

