-- ==== Sys2Proof/Machine/Crypto.lean ====
section
/-! DEFINITION. The standard functions the manual names: AES-256 and its XTS mode (R289), CMAC (R289, R291), SHA-256
(R297, R298), CRC-32C (R284) and CRC-64 (R231). Byte strings are lists of numbers below 256, first byte first. -/

namespace Sys2Proof.Machine

/-- The substitution table of AES, entries 0 to 31. -/
def aesSbox0 : Nat := 0xc072a49cafa2d4adf04759fa7dc982ca76abd7fe2b670130c56f6bf27b777c63

/-- The substitution table of AES, entries 32 to 63. -/
def aesSbox1 : Nat := 0x75b227ebe28012079a059618c323c7041531d871f1e5a534ccf73f362693fdb7

/-- The substitution table of AES, entries 64 to 95. -/
def aesSbox2 : Nat := 0xcf584c4a39becb6a5bb1fc20ed00d153842fe329b3d63b52a05a6e1b1a2c8309

/-- The substitution table of AES, entries 96 to 127. -/
def aesSbox3 : Nat := 0xd2f3ff1021dab6bcf5389d928f40a351a89f3c507f02f94585334d43fbaaefd0

/-- The substitution table of AES, entries 128 to 159. -/
def aesSbox4 : Nat := 0xdb0b5ede14b8ee4688902a22dc4f816073195d643d7ea7c41744975fec130ccd

/-- The substitution table of AES, entries 160 to 191. -/
def aesSbox5 : Nat := 0x8ae7a65eaf4566ca94ed58d6d37c8e779e4959162acd3c25c2406490a3a32e0

/-- The substitution table of AES, entries 192 to 223. -/
def aesSbox6 : Nat := 0x9e1dc186b95735610ef6034866b53e708a8bbd4b1f74dde8c6b4a61c2e2578ba

/-- The substitution table of AES, entries 224 to 255. -/
def aesSbox7 : Nat := 0x16bb54b00f2d99416842e6bf0d89a18cdf2855cee9871e9b948ed9691198f8e1

/-- The substitution table of AES. -/
def aesSbox (i : Nat) : Nat :=
  bits (match i / 32 with | 0 => aesSbox0 | 1 => aesSbox1 | 2 => aesSbox2 | 3 => aesSbox3 | 4 => aesSbox4 | 5 => aesSbox5 | 6 => aesSbox6 | _ => aesSbox7) (8 * (i % 32)) 8

/-- The inverse substitution table of AES, entries 0 to 31. -/
def aesInvSbox0 : Nat := 0xcbe9dec444438e3487ff2f9b8239e37cfbd7f3819ea340bf38a53630d56a0952

/-- The inverse substitution table of AES, entries 32 to 63. -/
def aesInvSbox1 : Nat := 0x25d18b6d49a25b76b224d92866a12e084ec3fa420b954cee3d23c2a632947b54

/-- The inverse substitution table of AES, entries 64 to 95. -/
def aesInvSbox2 : Nat := 0x849d8da75746155edab9edfd5048706c92b6655dcc5ca4d41698688664f6f872

/-- The inverse substitution table of AES, entries 96 to 127. -/
def aesInvSbox3 : Nat := 0x6b8a130103bdafc1020f3fca8f1e2cd00645b3b80558e4f70ad3bc8c00abd890

/-- The inverse substitution table of AES, entries 128 to 159. -/
def aesInvSbox4 : Nat := 0x6edf751ce837f9e28535ade72274ac9673e6b4f0cecff297eadc674f4111913a

/-- The inverse substitution table of AES, entries 160 to 191. -/
def aesInvSbox5 : Nat := 0xf45acd78fec0db9a2079d2c64b3e56fc1bbe18aa0e62b76f89c5291d711af147

/-- The inverse substitution table of AES, entries 192 to 223. -/
def aesInvSbox6 : Nat := 0xef9cc9939f7ae52d0d4ab519a97f51605fec8027591012b131c7078833a8dd1f

/-- The inverse substitution table of AES, entries 224 to 255. -/
def aesInvSbox7 : Nat := 0x7d0c2155631469e126d677ba7e042b17619953833cbbebc8b0f52aae4d3be0a0

/-- The inverse substitution table of AES. -/
def aesInvSbox (i : Nat) : Nat :=
  bits (match i / 32 with | 0 => aesInvSbox0 | 1 => aesInvSbox1 | 2 => aesInvSbox2 | 3 => aesInvSbox3 | 4 => aesInvSbox4 | 5 => aesInvSbox5 | 6 => aesInvSbox6 | _ => aesInvSbox7) (8 * (i % 32)) 8

/-- The round constants of SHA-256, entries 0 to 7. -/
def shaK0 : Nat := 0xab1c5ed5923f82a459f111f13956c25be9b5dba5b5c0fbcf71374491428a2f98

/-- The round constants of SHA-256, entries 8 to 15. -/
def shaK1 : Nat := 0xc19bf1749bdc06a780deb1fe72be5d74550c7dc3243185be12835b01d807aa98

/-- The round constants of SHA-256, entries 16 to 23. -/
def shaK2 : Nat := 0x76f988da5cb0a9dc4a7484aa2de92c6f240ca1cc0fc19dc6efbe4786e49b69c1

/-- The round constants of SHA-256, entries 24 to 31. -/
def shaK3 : Nat := 0x1429296706ca6351d5a79147c6e00bf3bf597fc7b00327c8a831c66d983e5152

/-- The round constants of SHA-256, entries 32 to 39. -/
def shaK4 : Nat := 0x92722c8581c2c92e766a0abb650a735453380d134d2c6dfc2e1b213827b70a85

/-- The round constants of SHA-256, entries 40 to 47. -/
def shaK5 : Nat := 0x106aa070f40e3585d6990624d192e819c76c51a3c24b8b70a81a664ba2bfe8a1

/-- The round constants of SHA-256, entries 48 to 55. -/
def shaK6 : Nat := 0x682e6ff35b9cca4f4ed8aa4a391c0cb334b0bcb52748774c1e376c0819a4c116

/-- The round constants of SHA-256, entries 56 to 63. -/
def shaK7 : Nat := 0xc67178f2bef9a3f7a4506ceb90befffa8cc7020884c8781478a5636f748f82ee

/-- The round constants of SHA-256. -/
def shaK (i : Nat) : Nat :=
  bits (match i / 8 with | 0 => shaK0 | 1 => shaK1 | 2 => shaK2 | 3 => shaK3 | 4 => shaK4 | 5 => shaK5 | 6 => shaK6 | _ => shaK7) (32 * (i % 8)) 32

/-- Exclusive or of two byte strings. -/
def xorBytes : List Nat → List Nat → List Nat
  | a :: as, b :: bs => (a ^^^ b) :: xorBytes as bs
  | _, _ => []

/-- Multiplication by x in the field of AES. -/
def aesX (a : Nat) : Nat := if a < 128 then 2 * a else (2 * a) % 256 ^^^ 0x1B

/-- Multiplication by a constant below 16 in the field of AES. -/
def aesMul (c a : Nat) : Nat :=
  let a2 := aesX a
  let a4 := aesX a2
  let a8 := aesX a4
  (if bitAt c 0 then a else 0) ^^^ (if bitAt c 1 then a2 else 0) ^^^ (if bitAt c 2 then a4 else 0)
    ^^^ (if bitAt c 3 then a8 else 0)

/-- One column times a circulant matrix whose first row is given. -/
def aesColumn (r0 r1 r2 r3 : Nat) (c : List Nat) : List Nat :=
  let a := nth 0 c 0
  let b := nth 0 c 1
  let d := nth 0 c 2
  let e := nth 0 c 3
  [aesMul r0 a ^^^ aesMul r1 b ^^^ aesMul r2 d ^^^ aesMul r3 e,
   aesMul r3 a ^^^ aesMul r0 b ^^^ aesMul r1 d ^^^ aesMul r2 e,
   aesMul r2 a ^^^ aesMul r3 b ^^^ aesMul r0 d ^^^ aesMul r1 e,
   aesMul r1 a ^^^ aesMul r2 b ^^^ aesMul r3 d ^^^ aesMul r0 e]

/-- A function of columns applied to the four columns of a state. -/
def aesColumns (f : List Nat → List Nat) (st : List Nat) : List Nat :=
  f (st.take 4) ++ f ((st.drop 4).take 4) ++ f ((st.drop 8).take 4) ++ f (st.drop 12)

/-- ShiftRows, and its inverse with the step 13. -/
def aesShift (step : Nat) (st : List Nat) : List Nat := tab 16 fun i => nth 0 st ((i + step * (i % 4)) % 16)

/-- The next words of the key schedule, `n` of them, behind the words so far (latest first). -/
def aesExpand : Nat → Nat → Nat → List (List Nat) → List (List Nat)
  | 0, _, _, ws => ws
  | n + 1, i, rc, ws =>
    let prev := nth [] ws 0
    let t :=
      if i % 8 = 0 then
        let r := (prev.drop 1 ++ prev.take 1).map aesSbox
        (nth 0 r 0 ^^^ rc) :: r.drop 1
      else if i % 8 = 4 then prev.map aesSbox else prev
    aesExpand n (i + 1) (if i % 8 = 0 then aesX rc else rc) (xorBytes t (nth [] ws 7) :: ws)

/-- The 15 round keys of AES-256. -/
def aesKeys (key : List Nat) : List (List Nat) :=
  let ws := (aesExpand 52 8 1 (tab 8 fun i => (key.drop (28 - 4 * i)).take 4)).reverse
  tab 15 fun i => ((ws.drop (4 * i)).take 4).flatten

/-- AES-256 encryption of a 16-byte block under round keys. -/
def aesEncrypt (ks : List (List Nat)) (blk : List Nat) : List Nat :=
  let st := xorBytes blk (nth [] ks 0)
  let st := (List.range 13).foldl (fun st r =>
    xorBytes (aesColumns (aesColumn 2 3 1 1) (aesShift 4 (st.map aesSbox))) (nth [] ks (r + 1))) st
  xorBytes (aesShift 4 (st.map aesSbox)) (nth [] ks 14)

/-- AES-256 decryption of a 16-byte block under round keys. -/
def aesDecrypt (ks : List (List Nat)) (blk : List Nat) : List Nat :=
  let st := (aesShift 12 (xorBytes blk (nth [] ks 14))).map aesInvSbox
  let st := (List.range 13).foldl (fun st r =>
    (aesShift 12 (aesColumns (aesColumn 14 11 13 9) (xorBytes st (nth [] ks (13 - r))))).map aesInvSbox) st
  xorBytes st (nth [] ks 0)

/-- The bytes of a number, lowest first, as numbers. -/
def natBytes (n v : Nat) : List Nat := (bytesOf n v).map (·.toNat)
/-- The number of bytes given as numbers, lowest first. -/
def bytesNat : List Nat → Nat
  | [] => 0
  | b :: bs => b + 256 * bytesNat bs

/-- Multiplication of an XTS tweak by the primitive element: the block is a little-endian number (IEEE 1619). -/
def xtsNext (t : Nat) : Nat := if t < 2 ^ 127 then 2 * t else (2 * t) % 2 ^ 128 ^^^ 0x87

/-- XTS over whole blocks with the running tweak. -/
def xtsBlocks (f : List Nat → List Nat) : Nat → Nat → List Nat → List Nat
  | 0, _, _ => []
  | n + 1, t, bs =>
    let tb := natBytes 16 t
    xorBytes (f (xorBytes (bs.take 16) tb)) tb ++ xtsBlocks f n (xtsNext t) (bs.drop 16)

/-- AES-XTS-256 of one data unit of whole 16-byte blocks: the key pair is 64 bytes, data key first. -/
def xts (enc : Bool) (key : BitVec 512) (tweak : Nat) (data : List Nat) : List Nat :=
  let kb := natBytes 64 key.toNat
  let k1 := aesKeys (kb.take 32)
  let t := bytesNat (aesEncrypt (aesKeys (kb.drop 32)) (natBytes 16 tweak))
  xtsBlocks (if enc then aesEncrypt k1 else aesDecrypt k1) (data.length / 16) t data

/-- Doubling in the field of CMAC: the block is a big-endian number (SP 800-38B). -/
def cmacDouble (b : List Nat) : List Nat :=
  let v := bytesNat b.reverse
  (natBytes 16 (if v < 2 ^ 127 then 2 * v else (2 * v) % 2 ^ 128 ^^^ 0x87)).reverse

/-- The chaining of CMAC over the blocks before the last. -/
def cmacChain (ks : List (List Nat)) : Nat → List Nat → List Nat → List Nat × List Nat
  | 0, x, m => (x, m)
  | n + 1, x, m => cmacChain ks n (aesEncrypt ks (xorBytes x (m.take 16))) (m.drop 16)

/-- AES-CMAC of a byte string under a 256-bit key: 16 bytes. -/
def cmac (key : BitVec 256) (m : List Nat) : List Nat :=
  let ks := aesKeys (natBytes 32 key.toNat)
  let k1 := cmacDouble (aesEncrypt ks (List.replicate 16 0))
  let n := (m.length - 1) / 16
  let (x, last) := cmacChain ks n (List.replicate 16 0) m
  let full := last.length == 16
  let blk := if full then xorBytes last k1
    else xorBytes (last ++ [0x80] ++ List.replicate (15 - last.length) 0) (cmacDouble k1)
  aesEncrypt ks (xorBytes x blk)

/-! ## SHA-256 -/

/-- A 32-bit rotation right. -/
def rotr32 (n x : Nat) : Nat := x / 2 ^ n ||| (x * 2 ^ (32 - n)) % 2 ^ 32

/-- The message schedule, `n` further words, latest first. -/
def shaSchedule : Nat → List Nat → List Nat
  | 0, ws => ws
  | n + 1, ws =>
    let a := nth 0 ws 14
    let b := nth 0 ws 1
    let s0 := rotr32 7 a ^^^ rotr32 18 a ^^^ a / 8
    let s1 := rotr32 17 b ^^^ rotr32 19 b ^^^ b / 1024
    shaSchedule n ((nth 0 ws 15 + s0 + nth 0 ws 6 + s1) % 2 ^ 32 :: ws)

/-- One round on the eight working words. -/
def shaRound (st : List Nat) (kw : Nat) : List Nat :=
  let a := nth 0 st 0
  let b := nth 0 st 1
  let c := nth 0 st 2
  let e := nth 0 st 4
  let f := nth 0 st 5
  let g := nth 0 st 6
  let s1 := rotr32 6 e ^^^ rotr32 11 e ^^^ rotr32 25 e
  let ch := (e &&& f) ^^^ ((2 ^ 32 - 1 - e) &&& g)
  let t1 := nth 0 st 7 + s1 + ch + kw
  let s0 := rotr32 2 a ^^^ rotr32 13 a ^^^ rotr32 22 a
  let maj := (a &&& b) ^^^ (a &&& c) ^^^ (b &&& c)
  [(t1 + s0 + maj) % 2 ^ 32, a, b, c, (nth 0 st 3 + t1) % 2 ^ 32, e, f, g]

/-- One block of 64 bytes. -/
def shaBlock (h : List Nat) (blk : List Nat) : List Nat :=
  let w0 := tab 16 fun i => bytesNat ((blk.drop (4 * i)).take 4).reverse
  let ws := (shaSchedule 48 w0.reverse).reverse
  let st := (List.range 64).foldl (fun st i => shaRound st (shaK i + nth 0 ws i)) h
  tab 8 fun i => (nth 0 h i + nth 0 st i) % 2 ^ 32

/-- Blocks of a padded message. -/
def shaBlocks : Nat → List Nat → List Nat → List Nat
  | 0, h, _ => h
  | n + 1, h, m => shaBlocks n (shaBlock h (m.take 64)) (m.drop 64)

/-- SHA-256 of a byte string: 32 bytes. -/
def sha256 (m : List Nat) : List Nat :=
  let pad := m ++ [0x80] ++ List.replicate ((119 - m.length % 64) % 64) 0 ++ (natBytes 8 (8 * m.length)).reverse
  let h0 := [0x6a09e667, 0xbb67ae85, 0x3c6ef372, 0xa54ff53a, 0x510e527f, 0x9b05688c, 0x1f83d9ab, 0x5be0cd19]
  ((shaBlocks (pad.length / 64) h0 pad).map fun w => (natBytes 4 w).reverse).flatten

/-! ## CRC -/

/-- One bit of a reflected CRC. -/
def crcBitR (poly c : Nat) : Nat := if c % 2 = 1 then c / 2 ^^^ poly else c / 2
/-- One byte of CRC-32C in its reflected form (polynomial 0x1EDC_6F41). -/
def crc32cByte (c b : Nat) : Nat := (List.range 8).foldl (fun c _ => crcBitR 0x82F63B78 c) (c ^^^ b)
/-- CRC-32C of a byte string (RFC 3720). -/
def crc32c (m : List Nat) : Nat := m.foldl crc32cByte 0xFFFFFFFF ^^^ 0xFFFFFFFF

/-- One bit of the CRC-64 of R231. -/
def crc64Bit (c : Nat) : Nat := if c < 2 ^ 63 then 2 * c else (2 * c) % 2 ^ 64 ^^^ 0x42F0E1EBA9EA3693
/-- One byte of the CRC-64 of R231: no reflection. -/
def crc64Byte (c b : Nat) : Nat := (List.range 8).foldl (fun c _ => crc64Bit c) (c ^^^ b * 2 ^ 56)
/-- The CRC-64 of R231: initial value 0, no final exclusive or. -/
def crc64 (m : List Nat) : Nat := m.foldl crc64Byte 0

end Sys2Proof.Machine
end

