-- ==== Sys2Proof/Machine/SMap.lean ====
section
/-! DEFINITION. Sparse data by key: a list of key and value pairs with keys strictly rising and no entry that
equals the default, which is what an unlisted key reads as. Memory, register files and tables are held so. -/

namespace Sys2Proof.Machine

/-- Sparse contents: (key, value) pairs in the canonical form `SMap.wf`. -/
abbrev SMap (α : Type) := List (Nat × α)

/-- The value at a key; `d` is what an unlisted key reads as. -/
def SMap.get {α : Type} (d : α) : SMap α → Nat → α
  | [], _ => d
  | (k, v) :: m, a => if k = a then v else SMap.get d m a

/-- Removes a key. -/
def SMap.erase {α : Type} : SMap α → Nat → SMap α
  | [], _ => []
  | (k, v) :: m, a => if k = a then SMap.erase m a else (k, v) :: SMap.erase m a

/-- Puts a value at a key, keeping the keys rising. -/
def SMap.insert {α : Type} : SMap α → Nat → α → SMap α
  | [], a, x => [(a, x)]
  | (k, v) :: m, a, x =>
    if k = a then (a, x) :: m
    else if a < k then (a, x) :: (k, v) :: m
    else (k, v) :: SMap.insert m a x

/-- Writes a value: an entry equal to the default is not kept, so that equal contents are equal lists. -/
def SMap.set {α : Type} [DecidableEq α] (d : α) (m : SMap α) (a : Nat) (x : α) : SMap α :=
  if x = d then m.erase a else m.insert a x

/-- Every key of a list is at or above a bound, and the keys rise. -/
def SMap.sortedFrom {α : Type} : Nat → SMap α → Bool
  | _, [] => true
  | b, (k, _) :: m => decide (b ≤ k) && SMap.sortedFrom (k + 1) m

/-- The canonical form: keys strictly rising, no entry equal to the default. -/
def SMap.wf {α : Type} [DecidableEq α] (d : α) (m : SMap α) : Bool :=
  SMap.sortedFrom 0 m && m.all fun kv => decide (kv.2 ≠ d)

end Sys2Proof.Machine
end

