-- ==== Sys2Proof/Machine/State.lean ====
section
/-! DEFINITION. The state of one JN4160 package as plain data: memory, the hub, the links, and the pieces with their
engines, matrix cores and element blocks; the state right after power-good; and the reasons a step can stop. -/

namespace Sys2Proof.Machine

/-- Why a step stops. `noPiece`: an engine, element or piece event names a piece that does not exist; raised by `step`
and by the piece steps. Safe: the part has no such unit, and no run from reset reaches it. -/
inductive Fault where
  /-- A step of a unit of a piece that is not granted. Raised by every step that names a piece. Safe. -/
  | noPiece
deriving DecidableEq, Repr

/-- Why a step has no meaning. -/
inductive Refusal where
  /-- An instruction not modelled yet, by its mnemonic. Raised by an arm of exec only. Safe. -/
  | notModelled (mnemonic : String)
deriving DecidableEq, Repr

/-! ## Tokens (R233) -/

/-- Token kinds (R233), with codes 0 to 5. -/
inductive TokKind where
  | data | sparse | hem | turn | kset | control
deriving DecidableEq, Repr

/-- One of a token's 16 lanes: its validity (a bit of MASK), value and coordinate. -/
structure LaneV where
  valid : Bool := false
  val   : Lane := 0
  coord : BitVec 32 := 0
deriving DecidableEq, Repr

/-- A token (R233). `lanes` holds the 16 lanes, lane 0 first. -/
structure Token where
  kind  : TokKind := .data
  level : BitVec 3 := 0
  tag   : BitVec 32 := 0
  lanes : List LaneV := []
deriving DecidableEq, Repr

/-! ## Memory operations in flight (R94, R95) -/

/-- Who issues a memory operation (R90). -/
inductive Agent where
  | thread (p : Nat)
  | engines (p : Nat)
  | bank (panel bay : Nat)
  | memBank (panel : Nat)
  | hub
  | sidecar (core : Nat)
  | host (f : Bool)
deriving DecidableEq, Repr

/-- The kinds of R94, and the handed requests of the same life: a versioned store and a notify write. -/
inductive OpKind where
  | read | write | rmw | vstore | notify
deriving DecidableEq, Repr

/-- An order an operation must respect: operation `op` has performed at scope code `scope` first. `cum`: with it the writes
that `op` observes (R108). -/
structure Dep where
  op    : Nat
  scope : Nat
  cum   : Bool := false
deriving DecidableEq, Repr

/-- A memory operation handed to the memory system and not yet performed everywhere. -/
structure MemOp where
  id     : Nat
  piece  : Nat
  agent  : Agent
  kind   : OpKind
  vault  : Bool          -- the vault space, else physical
  addr   : Nat
  va     : W64           -- the address as formed (TVAL)
  size   : Nat
  data   : List Byte     -- bytes to write, lowest first
  rd     : Nat           -- destination register of a read or read-modify-write
  sext   : Bool
  fn     : Nat           -- operation of a read-modify-write (R184, R185)
  cmp    : W64
  ord    : Nat
  scope  : Nat
  deps   : List Dep
  level  : Nat           -- 0 nowhere, else 1 + the widest scope code at which it has performed
  remote : Option Nat    -- the memory pair that carries it (R286)
  lining : Option Nat    -- the turn table entry whose lining it writes (R112)
  key    : Nat           -- KEY of its PTE (R289)
  fail   : Option (Nat × W64) := none  -- a remote read that was refused: cause and TLOC (R365, R396)
  slot   : Nat := 64     -- the stream slot that issued it
  grp    : Option Nat := none          -- the first operation of its request (R99)
  word   : Option Nat := none          -- for S: the first operation of its word
  got    : SMap (Option Byte) := []    -- the units of a read that have been read, by offset (R96)
  turned : Option (Nat × Nat) := none  -- a turned page not yet resolved: its entry, and the place in the buffer (R112)
  via    : Option Nat := none          -- the remote store line it travels in (R287)
deriving DecidableEq, Repr

/-- A scatter update handed to a bank element (R84). -/
structure Scatter where
  id    : Nat
  piece : Nat
  slot  : Option Nat     -- the stream slot, or none for a sctr or rmw node
  elem  : Nat
  vault : Bool
  addr  : Nat
  va    : W64
  fmt   : Nat
  nib   : Bool           -- the high half of the byte, for 4-bit formats
  sop   : Nat
  val   : Lane
  seq   : Nat            -- lane sequence number (R214)
  jrnl  : Option (Nat × Nat)   -- JBASE, JSIZE
  lining : Option Nat := none  -- the turn table entry whose lining it writes (R112)
  scale : Option Word32
  parts : List (Nat × Nat) := []   -- addresses and sizes, where the element does not lie in one place
deriving DecidableEq, Repr

/-- A barrier event handed to a bank element (R88): 0 arrive, 1 start, 2 land; 3 sets up the barrier (R195). -/
structure BarEvent where
  id    : Nat
  addr  : Nat            -- vault address of the barrier
  what  : Nat
  bytes : Nat
  start : Option Nat := none  -- for a land event: the start event of its stream
  src   : Nat            -- piece, for the order of R315
  agent : Agent
  deps  : List Dep
  rd    : Nat := 0       -- the register an arrive writes with PHASE
  waits : Bool := false  -- a start that has waited for PEND, or an event behind one (R88)
deriving DecidableEq, Repr

/-- An invocation of a remote-atomic subgraph at a bank element (R187). -/
structure Invoke where
  id    : Nat
  piece : Nat            -- the waiting piece, when local
  pair  : Option Nat     -- the memory pair it came in on, when remote
  vault : Bool
  addr  : Nat
  operand : W64
  fn    : Nat
  va    : W64 := 0       -- the address as formed, when local
  pa    : Nat := 0       -- the address its remote request named, where a move forwards it (R364)
deriving DecidableEq, Repr

/-! ## Element block (R235 to R274) -/

/-- A configuration plane (R236). -/
structure Plane where
  slots  : SMap Word32 := []
  consts : SMap W64 := []
  tagLay : W64 := 0
  pleat  : Nat := 0
  route  : SMap Nat := []      -- EXIT of input side d
  depth  : SMap Nat := []      -- declared depth of input side d
  edge   : SMap Nat := []      -- edge binding of side d: 256 * CLASS + NUM
  addr   : W64 := 0            -- where the record was loaded from (R353)
  bad    : SMap Bool := []     -- words with failing parity (R383): slot, or 32 for the others
deriving DecidableEq, Repr

/-- A register or port of an element that holds at most one token. `avail`: first cycle in which it may be taken;
`free`: first cycle in which it may be written; `old`: what a read in place finds before `avail` (R241, R243). -/
structure PReg where
  tok    : Option Token := none
  avail  : Nat := 0
  free   : Nat := 0
  old    : Option Token := none
  slot   : Nat := 0            -- the slot of the move that wrote it
  syn    : BitVec 8 := 0       -- parity syndrome of the next transfer (R382)
  resent : Bool := false
deriving DecidableEq, Repr

/-- A buffered token and the first cycle in which it may be taken. -/
structure BufTok where
  tok   : Token
  avail : Nat
deriving DecidableEq, Repr

/-- An operation in flight: the result ports and tokens it delivers together, not before `due` (R257), with the flags
its result sets (R124). -/
structure Flight where
  fam  : Nat                   -- trigger port code of its family, 39 for the isect pair, 58 for a tile product
  due  : Nat
  outs : List (Nat × Token)
  fl   : BitVec 4 := 0
  after : Option Nat := none   -- scatter updates numbered below this are applied first (R270)
deriving DecidableEq, Repr

/-- What merge2, union and the isect pair hold between tokens (R264, R265, R373): lanes taken and not yet placed, the
predecessor keys, the hems taken at one input, the kinds of the lanes, and the lanes of the output tokens being
filled. -/
structure MergeSt where
  left   : List LaneV := []
  right  : List LaneV := []
  predL  : Option (BitVec 32) := none
  predR  : Option (BitVec 32) := none
  hemL   : Option Token := none
  hemR   : Option Token := none
  kindL  : Option TokKind := none
  kindR  : Option TokKind := none
  outA   : List LaneV := []
  outB   : List LaneV := []
deriving DecidableEq, Repr

/-- Partial state of the exchange units and reductions (R251, R261 to R268). -/
structure Partial where
  packLanes : List LaneV := []
  packPos   : Nat := 0
  packKind  : TokKind := .data
  reord     : List LaneV := []
  reordKind : TokKind := .data
  mg        : MergeSt := {}    -- merge2
  un        : MergeSt := {}    -- union
  isc       : MergeSt := {}    -- the isect pair
  accOpen   : Bool := false
  accLanes  : List LaneV := []
  accmOpen  : Bool := false
  accmLanes : List LaneV := []
  scanOpen  : Bool := false
  scanSum   : Lane := 0
  topk      : List LaneV := []
  topPos    : Nat := 0
  topOpen   : Bool := false        -- a token of the fibre has been taken
  spa       : SMap (Option Lane) := []
  spaOpen   : Bool := false
  spaBusy   : Nat := 0             -- first cycle in which the unit may start again (R268)
deriving DecidableEq, Repr

/-- A fabric element (R241 to R255). -/
structure Elem where
  face     : Plane := {}
  lining   : Plane := {}
  inb      : SMap (List BufTok) := []   -- input buffers, by side
  stray    : SMap (Option Token) := []  -- stray entries, by side (R378)
  ctlb     : SMap (List BufTok) := []   -- control-token buffers, by port code
  ports    : SMap PReg := []            -- link registers, operand ports, result registers, a0 to a3, by port code
  flight   : List Flight := []
  part     : Partial := {}
  st0      : SMap (Option Lane) := []   -- active tile, 16 * row + lane
  st1      : SMap (Option Lane) := []   -- loading tile
  row0     : Nat := 0
  row1     : Nat := 0
  stPar    : Bool := false              -- the tiles have changed places an odd number of times
  tileBusy : Nat := 0                   -- first cycle in which a new tile may start
  tagCtr   : BitVec 32 := 0
  status   : W64 := 0                   -- the status word of R255 without MAPPED
  ksets    : List (BitVec 32) := []     -- the ksets it has handled (R252)
  faceAt   : Nat := 0                   -- cycle in which the face came in force
  faceNew  : Bool := false              -- the first cycle of the face is not over (R242)
  fence    : SMap Nat := []             -- outputs fenced after a turn, by side: first cycle in which each is open (R249)
  turnDue  : Bool := false              -- has still to turn in the turn last issued
  byturn   : SMap Bool := []            -- bypass starts through which its turn token has passed (R249)
  cycle    : Nat := 0                   -- the cycle of the record below (R241)
  fired    : Nat := 0
  nextSlot : Nat := 0
  usedSrc  : List Nat := []
  usedDst  : List Nat := []
  started  : List Nat := []             -- families that started an operation this cycle
  deal     : SMap Nat := []             -- pleat deal counts since the last hem, by side
  dealt    : SMap Nat := []             -- data tokens dealt at a pleat's inputs since the task began, by side
  collect  : SMap Nat := []             -- and collected at its outputs, by side
  hemAt    : List Nat := []             -- dealt counts at which a hem was broadcast, newest first
  idle     : Nat := 0                   -- last cycle with a move or an operation
  gate     : Nat := 0                   -- 0 on, 1 clock-gated, 2 power-gated, 3 waking
  wakeAt   : Nat := 0
  heldAt   : Nat := 0                   -- 1 + the last cycle in which something was held at it (R273)
  stopped  : Bool := false              -- stopped by a trap (R271)
  memOps   : List Nat := []             -- remote reads its memory node waits for
deriving DecidableEq, Repr

/-- The F engine's marks on an edge port (R248, R252, R253). -/
structure EdgePort where
  lastHem0 : Bool := false
  opened   : Bool := false     -- tokens have passed since the last level-0 hem (R59)
  mark     : Nat := 0          -- 0 none, 1 turn behind the next level-0 hem, 2 turn now, 3 inserted
  kset     : List (Option (Nat × List Dep)) := []   -- conversions asked for, with the tacks given at their end (R309)
  hem      : Option (Nat × Nat) := none   -- level, data or sparse tokens still to pass
  trapped  : Bool := false
deriving DecidableEq, Repr

/-- The element block of a piece. -/
structure Block where
  side     : Nat := 0          -- 0, 4, 8 or 16
  x0       : Nat := 0          -- coordinates of the block's origin in its bay
  y0       : Nat := 0
  armed    : Bool := false
  armAt    : Nat := 0          -- first cycle in which it runs since it was armed (R247)
  stopAt   : Nat := 0          -- first cycle in which it does not run since `f.stop`
  turnAt   : Nat := 0          -- cycle in which the last `f.turn` issued (R248)
  turnBind : SMap Nat := []    -- edge ports with a turn token to push: 256 * CLASS + NUM of the old face, plus 1 (R249)
  loading  : List (Nat × Plane) := []   -- plane records checked and still to be written (R246)
  elems    : SMap Elem := []
  edges    : SMap EdgePort := []
  turning  : Bool := false
  sinks    : List (Nat × Bool) := []   -- sinks not yet reached: edge port (true) or element (false)
  ksetN    : BitVec 32 := 0
  snk      : SMap (Option Nat) := []   -- SNKn mapping
  tagOps   : List (Nat × Option (Nat × Nat) × Bool) := []   -- `f.tag` under way: cycle, field and width, clear (R254)
  lastMove : Nat := 0          -- last cycle in which a token moved
  ctlNet   : List (Nat × Nat × Token) := []   -- control tokens under way: element, port code, token
deriving DecidableEq, Repr

/-! ## Copy and matrix engines -/

/-- A stream descriptor (R202): the fields by their fld code, as `s.sdw` stores them. -/
abbrev Desc := SMap W64

/-- Slot states of R207. -/
inductive SlotState where
  | free | queued | running | held | ending
deriving DecidableEq, Repr

/-- A stream slot (R205, R207). -/
structure Stream where
  st      : SlotState := .free
  sd      : Nat := 0
  desc    : Desc := []
  order   : Nat := 0           -- start order
  idx     : Nat := 0           -- elements enumerated
  node    : W64 := 0           -- current node of a chase
  nodes   : Nat := 0
  fill    : List LaneV := []   -- lanes of the token being filled, or popped and not used
  bytes   : List Byte := []    -- the same for a packed token
  oks     : List Bool := []    -- which of its bytes are stored bytes
  nib     : Option Nat := none -- the low half of a byte of 4-bit elements
  elems   : List Byte := []    -- e4m3 elements of an ec8 block not yet coded or delivered
  bits    : List Bool := []    -- bits of an ec8 stream not yet stored or decoded
  pos     : Nat := 0           -- 64-byte units of an ec8 stream done
  coded   : Nat := 0           -- elements in the blocks of a carried ec8 stream
  hem     : Option Nat := none -- a hem due, behind the partly filled token
  pri     : Nat := 0
  credit  : Nat := 0
  seq     : Nat := 0           -- lane sequence number (R214)
  landed  : Nat := 0           -- bytes landed for the barrier
  stop    : Bool := false      -- `c.stop`, or ended by a hem
  stopHem : Bool := false      -- the hem of `c.stop` has been pushed
  flush   : Bool := false      -- `c.flush` is due
  ops     : List Nat := []     -- operations not yet performed
  used    : List Nat := []     -- USED entries of the journal at c.go (R356)
  check   : Nat := 0
  deps    : List Dep := []     -- orders of the tacks C has popped
  after   : List Dep := []     -- earlier streams, by start order, that it must follow at a scope (R213)
  rem     : Option Nat := none -- the remote read it waits for
  got     : SMap (Option Byte) := []   -- the units of its present read that have been read, by offset (R96)
  src     : List (Bool × Nat × Nat) := []   -- the places of that read: vault, address, size
  ent     : Option Nat := none -- the number of the queue entry reserved for the token being filled (R208)
  hems    : List Nat := []     -- further hems due behind `hem`, of an ec8 stream that is carried
  skip    : Nat := 0           -- bits to pass over in the next unit of an ec8 stream that is read again (R209)
  again   : Nat := 0           -- units of a carried ec8 stream to be read again that have been delivered
  last    : Option Nat := none -- the cycle in which an address generator last served it
  start   : Option Nat := none -- its barrier start event
  mark    : Option Nat := none -- the input count a `c.jrnl` waits for (R214)
deriving DecidableEq, Repr

/-- One level of the loop-nest table (R228). -/
structure Level where
  count : Nat := 1
  astr  : Bool := false
  bstr  : Bool := false
  cstr  : Int := 0
  endA  : Nat := 0
deriving DecidableEq, Repr

/-- States of a B plane (R217). -/
inductive PlaneState where
  | released | loading | loaded
deriving DecidableEq, Repr

/-- A B plane of one core (R137, R217). A cell is sign and 15 magnitude bits; `spec` marks a cell that was
+infinity (1), -infinity (2) or NaN (3). -/
structure BPlane where
  st    : PlaneState := .released
  hold  : Bool := false
  fresh : Bool := false            -- a waiting `m.ldb` has found it Loaded, and no swap has taken it since (R222)
  krows : Nat := 0
  isInt : Bool := false
  cells : SMap (BitVec 16) := []   -- 128 * k + n
  exps  : SMap Int := []           -- 128 * b + n
  spec  : SMap Nat := []
  bad   : SMap Bool := []          -- cells with failing parity (R385)
deriving DecidableEq, Repr

/-- A binding of the M engine's result (R221). -/
inductive ResBind where
  | none
  | sel (s : BitVec 10)
  | mem (d : Desc)
deriving DecidableEq, Repr

/-- A drain in progress (R225): the rows still to drain and the tokens of the current row already pushed. -/
structure Drain where
  rows : List Nat
  tok  : Nat := 0
  word : W64 := 0              -- the word that asked for it, for TVAL
deriving DecidableEq, Repr

/-- What the nest does next (R229, R230). -/
inductive NestAct where
  | popA
  | intake
  | pass (r : Nat)
  | drain (rows : List Nat)
  | zero (rows : List Nat)
  | swap
  | hem (l : Nat)
deriving DecidableEq, Repr

/-- A running nest, or the passes of an `m.mma` (R224, R229). -/
structure Nest where
  top  : Nat                   -- L, the innermost level
  rb   : Nat
  idx  : List Nat              -- the tuple whose actions are in `todo`
  last : Bool                  -- no further tuple
  todo : List NestAct
  rows : SMap (List Nat)       -- rows reached so far in the current run of each level
  mma  : Bool := false
  word : W64 := 0              -- the word that runs it, for TVAL
deriving DecidableEq, Repr

/-- The matrix engine's state (R216). -/
structure Matrix where
  afmt   : Nat := 3
  bfmt   : Nat := 3
  form   : Nat := 0
  scale  : SMap Lane := []              -- scale registers; unlisted reads 1.0
  bindA  : SMap (Option (BitVec 10)) := []
  bindB  : SMap (Option (BitVec 10)) := []
  bindC  : Option (BitVec 10) := none
  res    : ResBind := .none
  mtFace : SMap Level := []
  mtLin  : SMap Level := []
  mtwLast : Option (Nat × Nat × W64 × Level) := none   -- this cycle's write of the lining: level, field, value, the level before (R191)
  planes : SMap BPlane := []            -- 2 * (16 * i + j), plus 1 for the lining
  acc    : SMap (Option Lane) := []     -- (512 * (16 * i + j) + row) * 128 + n; none is undefined
  accBad : SMap Bool := []
  nest   : Option Nest := none
  drains : List Drain := []
  abuf   : SMap (List Byte) := []       -- bytes of core row i's A stream popped and not used
  abits  : SMap (List Bool) := []
  aoff   : SMap Nat := []               -- bits of the nest's A stream consumed, for the FORMAT record
  arow   : SMap (List Nat) := []        -- the row buffer: element codes of core row i
  ldRow  : SMap Nat := []               -- K-rows of `m.ldb` stored so far, by core row
  ldBuf  : SMap (List Nat) := []        -- elements of the K-row being filled
  crow   : List Lane := []              -- lanes of the C row popped so far
  dirty  : List Nat := []               -- rows added into since their last drain or zero (R59)
  cnt    : Nat := 0                     -- tokens done by the word in progress, plus 1; 0 where none has started
  memN   : Nat := 0                     -- lanes drained to memory since the result was bound
  qtrap  : List Nat := []               -- operands, as TLOC names them, whose blocked pop or push has raised its trap
  ldWait : Bool := false                -- the present `m.ldb` waits for a swap (R222)
  nests  : Nat := 0                     -- nests since the last automatic toile product
  toile  : Bool := false                -- a deferred product is due
  lastUse : Nat := 0                    -- last cycle in which its matrix cores had work (R302)
  epoch  : Nat := 0                     -- names the undefined contents of this task
  badSig : Option (Nat × Nat × W64) := none   -- failing core and signature (R389)
deriving DecidableEq, Repr

/-! ## Pieces -/

/-- An engine's program counter and progress at its present word. -/
structure EngSt where
  pc      : W64 := 0
  issued  : Bool := false      -- its W tack has been popped
  done    : Option W64 := none -- its effect is complete; it waits to give its tack, then goes on at this address
  atEnd   : Bool := false      -- at s.end
  stopped : Bool := false      -- stopped by a trap it raised
  counted : Bool := false      -- the wait has counted a Pop or Full event (R30)
  slip    : Bool := false      -- the wait has counted a Slip event
  waitQ   : Bool := false      -- its last attempt waited on a queue or tack that the Mutual case names (R30)
  deps    : List Dep := []     -- orders taken over by popped tacks (R104)
  tdeps   : List Dep := []     -- orders of the tack popped for the present word
  tfrom   : Option Nat := none -- the partner that gave it
  rep     : Option (W64 × Nat × Nat × Nat) := none   -- block start, words, words left, passes left (R215)
  word    : Option Word32 := none   -- the word it has fetched and not ended
  tackWait : Option (Option Nat) := none   -- stalled in this cycle on a tack: a push, or a pop from a partner (R24)
  ending  : Bool := false      -- its present word is an `s.end`: it stops there once that word has retired
  late    : Bool := false      -- its word, an `s.qdisc`, comes behind the consumers of the cycle (R181)
  ended   : Option W64 := none -- the `s.end` at which a trap found S: its return stops there again
deriving DecidableEq, Repr

/-- An entry of a q queue (R28): reserved until `tok` is filled. -/
structure QEntry where
  rid  : Nat := 0
  strm : Bool := false   -- reserved by a stream (R208)
  at_  : Nat := 0        -- 1 + the cycle in which the push of its token completed, where a stream or S pushed it (R181)
  tok  : Option Token := none
  pois : Bool := false
deriving DecidableEq, Repr

/-- Where a lane of a queue load comes from: a local address, or the bytes a remote read has returned. -/
structure QLane where
  lane  : Nat
  vault : Bool
  addr  : Nat
  hi    : Bool           -- the high half of the byte, for 4-bit formats
  va    : W64
  got   : Option (List Byte) := none
  op    : Option Nat := none             -- the remote read that fetches it
  turned : Option (Nat × Nat) := none    -- a turned page not yet resolved, as in `MemOp.turned` (R112)
  key   : Nat := 0                       -- KEY of its PTE
deriving DecidableEq, Repr

/-- A queue load under way (R177). -/
structure QLoad where
  id    : Nat
  q     : Nat
  fmt   : Nat
  lanes : List QLane
  deps  : List Dep
  agent : Agent
  scope : Nat
  pois  : Bool := false  -- a line of it was poisoned
  failed : Bool := false -- an INTEGRITY trap has been raised for it and not retried
deriving DecidableEq, Repr

/-- A trap raised and not yet delivered (R343). -/
structure TrapRec where
  code  : Nat
  unit  : Nat
  async : Bool
  val   : W64
  loc   : W64
  elem  : Nat := 0             -- element concerned, for units 4
  slot  : Nat := 0             -- stream slot concerned, for unit 5
  at_   : Nat := 0             -- the cycle in which it was raised (R343)
deriving DecidableEq, Repr

/-- The prefix waiting for its word (R93, R147), with its address. -/
inductive Prefix where
  | none
  | imx (hi : BitVec 20) (pc : W64)
  | sem (o : BitVec 2) (sc : BitVec 3) (kw kt : BitVec 3) (pc : W64)
deriving DecidableEq, Repr

/-- The per-thread system registers (R150), except those the hub holds. -/
structure SysRegs where
  slip    : W64 := 16
  qtrap   : W64 := 0
  qtrapNow : W64 := 0          -- QTRAP as it governs C, M and F in this cycle (R194)
  lodc    : W64 := 0
  lodlim  : W64 := 0
  lodev   : W64 := 0
  lodDone : Bool := false      -- LOD_LIMIT has been raised since LODC or LODLIM was last written (R31)
  priv    : W64 := 0
  sem     : W64 := 0xC
  fpflags : W64 := 0
  flagsNow : W64 := 0          -- flags raised in this cycle (R122)
  troot   : W64 := 0
  vshare  : W64 := 0
  vwin    : SMap W64 := []
  stack   : W64 := 16
  tcause  : W64 := 0
  tpcs    : W64 := 0
  tpcc    : W64 := 0
  tpcm    : W64 := 0
  tpcf    : W64 := 0
  tval    : W64 := 0
  tvec    : W64 := 0
  tloc    : W64 := 0
  tstat   : W64 := 0
  wdog    : W64 := 0x01000000
  cnt     : SMap W64 := []
  cntEv   : SMap Nat := []
deriving DecidableEq, Repr

/-- What S waits for after its request has left it (R164, R165). -/
inductive Await where
  | none
  | invoke (id : Nat)
  | load (ids : List Nat)      -- remote reads, precise at their word (R365)
  | qload (id : Nat)           -- the remote reads of a queue load (R365)
  | turn (n : Nat)
  | vld (vault : Bool) (addr : Nat) (v : Word32)   -- parked for a version of a cell (R183)
  | wfn (n : Nat) (m : W64)    -- waits for a write of notify register n that meets the mask (R196)
  | drain (ids : List Nat)     -- accesses an `s.tlbi` waits for (R199)
  | result (v : W64)           -- the answer has arrived
  | failed (code : Nat) (loc : W64)   -- the request was refused: trap cause and TLOC
deriving DecidableEq, Repr

/-- A piece: its place, its four engines, and everything of its thread (R15, R34). -/
structure Piece where
  live    : Bool := false
  launch  : Nat := 0           -- hub launch slot
  seqPos  : Nat := 0           -- walker position of the sequence's first task
  taskPos : Nat := 0           -- walker position of the present task
  panel   : Nat := 0
  row0    : Nat := 0
  col0    : Nat := 0
  hLog    : Nat := 0
  wLog    : Nat := 0
  eb      : Nat := 0
  thread  : Nat := 0
  bay     : Nat := 0
  vbase   : Nat := 0           -- vault address of the share
  vunits  : Nat := 0
  cslot   : Nat := 0
  atSeam  : Bool := false      -- at a seam, between tasks (R35)
  regs    : SMap W64 := []
  pend    : SMap (Option Nat) := []   -- register number to the operation that will write it
  pois    : SMap (Option W64) := []   -- poisoned registers, with the address read (R167)
  knots   : SMap (List Nat) := []
  sys     : SysRegs := {}
  s       : EngSt := {}
  c       : EngSt := {}
  m       : EngSt := {}
  f       : EngSt := {}
  pre     : Prefix := .none
  popped  : List (W64 × W64) := []    -- words retired in part, an s.bqb that waits for slip, with the value popped (R188)
  await   : Await := .none
  parked  : Bool := false
  parkEv  : Bool := false             -- an event of s.park has happened since it issued (R193)
  halted  : Bool := false             -- halted by a debugger (R301)
  stepping : Bool := false            -- runs one word and halts again (R301)
  steers  : SMap (List Bool) := []    -- S to C, M, F: keys 1, 2, 3
  tacks   : SMap (List (List Dep)) := []   -- key 4 * from + to
  acqs    : List Nat := []            -- acquire reads later operations follow (R100)
  fenceR  : List Dep := []            -- orders of fences on every later operation
  fenceW  : List Dep := []            -- orders of fences on later writes
  relDeps : List Dep := []            -- what a tack of the next word carries for S (R104)
  seen    : List Nat := []            -- writes of others observed by the thread (R108)
  seenE   : List Nat := []            -- and by the engines
  q       : SMap (List QEntry) := []
  y       : SMap (List Token) := []
  bq      : List W64 := []
  pushes  : SMap Nat := []             -- tokens pushed into each y queue in this cycle, for `s.qdisc` (R181)
  qloads  : List QLoad := []
  mutualOn : Bool := false             -- the Mutual condition held in the last cycle (R30)
  sd      : SMap Desc := []
  slots   : SMap Stream := []
  cstarts : Nat := 0                  -- streams started in this task
  cfence  : List Dep := []            -- streams, by start order, that later ones follow at a scope (R213)
  cdone    : List (Nat × Nat) := []     -- operations, by start order, of streams that have ended, not yet performed at system scope (R213)
  mx      : Matrix := {}
  blk     : Block := {}
  stall   : Nat := 0                  -- watchdog count (R273)
  lastRun : Nat := 0                  -- last cycle in which its thread was not at a seam (R302)
  moved   : Bool := false             -- a movement happened in this cycle
  blocked : Bool := false             -- something waited in this cycle
  traps   : List TrapRec := []        -- raised and not delivered
  cur     : Option TrapRec := none    -- the trap delivered and not yet returned from
  abort   : Option Nat := none        -- the task is being aborted with this ACT (R355)
  leave   : Bool := false             -- switched out at this seam, for an unpicked core (R389)
  reshape : Option (Bool × W64) := none    -- join?, request of this task
  result  : Nat := 15                 -- RESULT of R198
  restore : Bool := false             -- entered with RESTORE_FAIL (R354)
  faceDue : Bool := false             -- the image at FIMG is still to be loaded into the face (R247)
  gives   : List (Nat × List Dep) := []   -- tacks of F still to be given, by partner (R309)
deriving DecidableEq, Repr

/-! ## Hub -/

/-- A launch queue's registers (R39). -/
structure LQueue where
  base : W64 := 0
  size : Nat := 4
  pmax : Nat := 0
  src  : Nat := 0
  dom  : Nat := 0
  en   : Bool := false
  rootq : Bool := false
  head : BitVec 16 := 0
  tail : BitVec 16 := 0
  ovr  : Bool := false
  rej  : Bool := false
  srcerr : Bool := false
  lasterr : Byte := 0
  posted : Nat := 0            -- records accepted: the posting order of its launches (R50)
  clamp : SMap Nat := []       -- priority of the launch that posted a record by `s.lnch`, plus 1, by index (R43)
deriving DecidableEq, Repr

/-- Launch states (R46). -/
inductive LState where
  | none | waiting | ready | running | draining | done | unfit
deriving DecidableEq, Repr

/-- Where a sequence is (R52, R57). -/
inductive SeqPlace where
  | fresh                      -- no task started
  | held (p : Nat)             -- holds a piece
  | saved (area : Nat)         -- switched out, save area at this physical address
  | ended
deriving DecidableEq, Repr

/-- One sequence of a launch: the position of its first task, of its next task, and where it is. -/
structure Seq where
  first : Nat
  next  : Nat                  -- walker position of the task it starts next
  place : SeqPlace := .fresh
  panel : Nat := 0             -- panel of its piece, for R53
  kept  : SMap BPlane := []    -- what its saved matrix plane records have no room for, by plane
  result : Nat := 15           -- RESULT of R198, while it is switched out
deriving DecidableEq, Repr

/-- An external or die-to-die binding of a launch (R277). -/
structure Binding where
  lq    : Nat
  die   : Bool
  mem   : Bool
  out   : Bool
  inn   : Bool
  pair  : Nat
  seq   : Nat
  peer  : Nat
  bid   : Word32
  claimed : Bool := false
  bound : Bool := false
  lost  : Bool := false
deriving DecidableEq, Repr

/-- A launch held by the hub (R42 to R51). -/
structure Launch where
  st    : LState := .none
  queue : Nat := 0
  index : Nat := 0             -- ring index
  posted : Nat := 0            -- records of its queue accepted before it
  src   : Nat := 0
  image : List Byte := []      -- the 128 bytes of the record
  prio  : Nat := 0             -- clamped priority
  eff   : Nat := 0             -- effective priority
  aged  : Bool := false
  age   : Nat := 0
  waits : List Nat := []       -- waits not yet met: 0 to 3 barriers, 4 and 5 notify
  next  : Nat := 0             -- walker position of the first task not started
  live  : Nat := 0             -- tasks started and not ended
  seqs  : List Seq := []
  reserve : Option (Nat × Nat × Nat) := none   -- panel, row0, col0
  aside : Nat × Nat × Nat × Nat := (0, 0, 0, 0)   -- set aside with them in the origin bay: block x0, y0, thread, vault unit
  poolRec : Bool := false      -- the record of R348 has been written for the reservation
  binds : List Binding := []
  claimAt : Option Nat := none -- cycle of the first claim (R279)
  ended : Bool := false        -- ended as UNFIT
deriving DecidableEq, Repr

/-- A turn table entry (R87). `busy`: a turn waits in the hub, with the lining writes it waits for. -/
structure TurnEntry where
  v     : Bool := false
  sel   : Bool := false
  dom   : Nat := 0
  pages : Nat := 0
  b0    : W64 := 0
  b1    : W64 := 0
  turns : Word32 := 0
  wait  : List (Nat × List Dep) := []   -- waiting piece and what its turn waits for, oldest first
deriving DecidableEq, Repr

/-- NCFG of a notify register (R89). -/
structure NCfg where
  dom  : Nat := 0
  hostw : Bool := true
  sidew : Bool := true
  anyd : Bool := false
deriving DecidableEq, Repr

/-- A trust domain of the key store (R299). -/
structure KeyDom where
  prov : Bool := false
  tool : Bool := false
  xts  : BitVec 512 := 0
  cmac : BitVec 256 := 0
  ending : Bool := false       -- a revocation has not completed (R400)
deriving DecidableEq, Repr

/-- A move entry (R363). -/
structure MovEntry where
  v   : Bool := false
  fwd : Bool := false
  src : W64 := 0
  dst : W64 := 0
  pages : Nat := 0
deriving DecidableEq, Repr

/-- A remote request held under a move (R364). -/
structure HeldReq where
  id    : Nat
  pair  : Nat
  bytes : List Byte
  since : Nat
deriving DecidableEq, Repr

/-- A pocket map entry (R81), with the register image the pocket holds. -/
structure Pocket where
  v      : Bool := false
  kind   : Nat := 0
  unit   : Nat := 0
  column : Nat := 0
  launch : Nat := 0
  seq    : Nat := 0
  image  : List Byte := []
  area   : Nat := 0            -- the save area of the sequence
deriving DecidableEq, Repr

/-- A translation cache entry (R75): ASID, the page and its size in bits, and the leaf entry. -/
structure TlbEntry where
  asid : Nat
  vpn  : Nat
  bits : Nat
  pte  : W64
  ptea : Nat                   -- where the entry was read
  bad  : Bool := false         -- fails its parity check at the next use (R360)
deriving DecidableEq, Repr

/-- The hub (R39 to R63, R292 to R307). -/
structure Hub where
  form  : BitVec 2 := 0
  step  : BitVec 4 := 0
  lpcap : BitVec 8 := 0
  svc   : Byte := 0            -- LEVEL, PANELS, STACKS, LINKS (R304)
  fused : Bool := false        -- SVC has read other than 0 since power-good: fuse fields read their values (R4)
  boot  : Nat := 0             -- boot step done (R296); 4 once basting service has begun, 5 after training
  fenced : List Nat := []
  fatal : Bool := false        -- a fatal record has been written: only a new power-good restores service (R358)
  lq    : SMap LQueue := []
  launches : SMap Launch := []
  rr    : SMap Nat := []       -- queue last granted, plus 1, by priority
  notify : SMap W64 := []
  ncfg  : SMap NCfg := []
  turns : SMap TurnEntry := []
  wallbase : W64 := 0
  dwin  : SMap W64 := []
  toilcfg : W64 := 0
  toilref : W64 := 0x0BF5BF33DF7127A0   -- the signature of a healthy core (R231)
  savebase : W64 := 0
  saveunits : Nat := 0
  saves : List (Nat × Nat) := []   -- first unit, units
  supvec : W64 := 0
  rootvec : W64 := 0
  scirq : W64 := 0
  errbase : W64 := 0
  errsize : Nat := 6
  errhead : BitVec 16 := 0
  errtail : BitVec 16 := 0
  errlost : Nat := 0
  errheld : List (List Byte) := []
  errseq : Word32 := 0
  aonbuf : List Byte := []
  movs  : SMap MovEntry := []
  held  : List HeldReq := []
  unpick : SMap Bool := []     -- (panel * 8 + row) * 16 + column
  unpickFuse : SMap Bool := [] -- the cores unpicked by fuses, in the same form
  stkstat : Byte := 0
  stkLost : Byte := 0          -- stacks lost on a wake (R404)
  dirs  : SMap Nat := []       -- the outgoing lanes of each port, as training at power-good left them (R391, R404)
  sgaddr : W64 := 0
  sgbusy : Bool := false
  sgstat : Nat := 0
  sgreq : W64 := 0
  sgfrom : W64 := 0            -- SGADDR as it was at the SGLOAD write (R85)
  sgdom : Option Nat := none   -- the domain of the thread that wrote it; none for the management core
  subgraphs : SMap (Option Plane) := []   -- (element, memory side from 512) * 32 + id
  meas  : SMap (BitVec 256) := []
  lc    : BitVec 2 := 2
  dbg   : BitVec 2 := 0
  dstat : Byte := 0
  nonce : W64 := 0
  nonceOk : Bool := false
  nonceN : Nat := 0
  dbgFails : Nat := 0
  dbgReq : Option W64 := none
  dbgAt : Nat := 0             -- the cycle in which that request arrived (R307)
  pwrWait : List Nat := []     -- PWRCTL requests behind it: 1 RETAIN, 2 DOWN, 3 wake (R307)
  attStat : Nat := 0
  attReq : Option W64 := none
  sigCtr : Nat := 0
  keys  : SMap KeyDom := []
  keybusy : Bool := false
  keystat : Nat := 0
  keyreq : W64 := 0
  power : Nat := 0             -- 0 ACTIVE, 1 QUIET, 2 RETAIN, 3 DOWN (R303)
  refused : Bool := false
  hot   : List Nat := []       -- blocks at halved cadence
  gated : List Nat := []       -- blocks power-gated; an element of a piece keeps that in `Elem.gate`
  used  : SMap Nat := []       -- last cycle in which a block was in use under an earlier piece (R302)
  waking : SMap Nat := []      -- gated blocks that wake: the cycle in which they have woken (R303)
  entering : Nat := 0          -- a commanded entry in progress: 2 RETAIN, 3 DOWN
  wakeDue : Bool := false      -- a kept tail or notify write wakes the part (R307)
  hostEn : Bool × Bool := (true, true)
  cxl   : Bool := false        -- CXLSEL as read at power-good (R293)
  pkg   : BitVec 11 := 0       -- own package number
  tlbs  : SMap (List TlbEntry) := []   -- bay caches, by 8 * panel + bay
  gtlbs : SMap (List TlbEntry) := []   -- caches of address generators, by 16 * (8 * panel + bay) + generator (R10)
  pockets : SMap Pocket := []  -- 64 * (8 * panel + bay) + entry
  troots : SMap W64 := []      -- TROOT of each access thread, 16 * (8 * panel + bay) + thread (R413)
deriving DecidableEq, Repr

/-! ## Links -/

/-- A flit on a lane group (R284). -/
structure Flit where
  payload : List Byte
  seq     : BitVec 16
  sends   : Nat := 0
  cred    : Nat := 0           -- CRED of its trailer
  sent    : Bool := false      -- it has been on the lanes
  pair    : Nat := 0
deriving DecidableEq, Repr

/-- An outgoing and incoming lane group pair (R275, R284, R285). -/
structure Pair where
  launch : Option Nat := none  -- the claiming launch
  mem    : Bool := false
  bid    : Word32 := 0
  dom    : Nat := 0            -- trust domain of the binding
  peer   : Nat := 0
  bound  : Bool := false
  server : Bool := false       -- attached to the memory server by a peer's memory binding (R279)
  served : Nat := 0            -- domain of that binding
  early  : Option (Nat × Word32 × Nat) := none   -- a peer's bind flit that came first
  lost   : Bool := false
  gout   : Nat := 0            -- outgoing group state: code of R276
  gin    : Nat := 0
  txseq  : BitVec 16 := 0      -- SEQ of the next flit sent
  rxack  : BitVec 16 := 0xFFFF -- highest SEQ received in order
  nak    : Bool := false
  replay : List Flit := []     -- flits sent and not acknowledged, oldest first
  sinceAck : Nat := 0          -- cycle of the last advance
  retrain : Nat := 0           -- 0 no, 1 retraining, 2 retrained once for the oldest flit
  cred   : Nat := 16           -- credits held: free slots of the peer's receive buffer
  freed  : Nat := 0            -- slots freed here since the last flit
  rx     : List Byte := []     -- payload received and not yet taken as frames or requests
  frames : Nat := 0            -- frames sent on the binding (R291)
  framesIn : Nat := 0
deriving DecidableEq, Repr

/-- A link queue of a sequence (R281, R282). Send tokens of the producer, receive tokens of the consumer. -/
structure LinkQ where
  launch : Nat := 0
  lq     : Nat := 0
  seqOut : Option Nat := none  -- first-task position of the pushing sequence
  seqIn  : Option Nat := none  -- and of the popping one
  pair   : Option Nat := none  -- external pair, or die-to-die
  send   : List Token := []
  recv   : List Token := []
  fly    : List BufTok := []   -- die-to-die tokens under way
  syn    : BitVec 8 := 0       -- parity syndrome of the next die-to-die token to arrive (R382)
  resent : Bool := false
  lost   : Bool := false
  live   : Bool := false
deriving DecidableEq, Repr

/-- A lane of a port (R275, R390): `own` is its group, `serves` the group it serves now. -/
structure LaneSt where
  out    : Bool := false
  homeOut : Bool := false      -- the direction that training gave it, and its own group (R275, R391)
  home   : Nat := 0
  up     : Bool := false
  unlock : Option Nat := none  -- cycle since which its receiver has no block lock
  serves : Option Nat := none  -- group (0 to 3) of the direction it was turned to
  turning : Bool := false
deriving DecidableEq, Repr

/-- A remote request outstanding on a memory binding (R286, R396). -/
structure RemoteReq where
  id    : Nat                  -- the memory operation or invocation
  pair  : Nat
  kind  : Nat                  -- 0 load, 1 store, 2 invocation, 3 atomic or scatter update
  at_   : Nat                  -- cycle sent, for the timer
  piece : Nat
  va    : W64
  rd    : Nat
  addr  : Nat
  size  : Nat
  sext  : Bool
  key   : Nat
  dead  : Bool := false        -- its timer has expired
deriving DecidableEq, Repr

/-- The Decroth links. -/
structure Links where
  pairs   : SMap Pair := []
  lanes   : SMap LaneSt := []  -- 16 * port + lane
  replays : SMap Nat := []     -- by port
  queues  : SMap LinkQ := []
  requests : List RemoteReq := []
deriving DecidableEq, Repr

/-- What left the package: interrupts, completions and read data (R48, R292, R295, R370). -/
inductive Output where
  | msix (f : Bool) (vector : Nat)
  | sidecarIrq (core : Nat)
  | readData (v : List Byte) (poisoned : Bool)
  | flit (g : Nat) (payload : List Byte) (trailer : BitVec 72)
  | bindFlit (pair pkg : Nat) (bid : Word32) (dom : Nat) (mem : Bool)
  | unbindFlit (pair : Nat)
  | bindAnswer (pair : Nat) (ok : Bool)
  | accessFault (core : Nat) (wr : Bool)
  | remoteWrite (line : Nat)
deriving DecidableEq, Repr

/-- The steps that the part's own units take by themselves (the model's own list; each is the row of the opcode table
of the same name). -/
inductive Auto where
  | queueLoadDeliver (p id : Nat)
  | loadDataReturn (p id : Nat) (fwd : Bool)
  | controlTokenArrive (p : Nat)
  | hubTurn (n : Nat)
  | streamTransfer (p k : Nat)
  | streamEnd (p k : Nat)
  | scatterUpdate (id : Nat)
  | barrierEventApply (id : Nat)
  | nestPass (p : Nat)
  | drainTokenPush (p : Nat)
  | operationResult (p e u : Nat)
  | tokenLinkHop (p e d : Nat)
  | edgePortTransfer (p port : Nat)
  | elementTurn (p e : Nat)
  | ksetHandle (p e d : Nat)
  | elementClockGate (p e : Nat)
  | elementPowerGate (p e : Nat)
  | elementWake (p e : Nat)
  | watchdog (p : Nat)
  | trapDelivery (p : Nat)
  | taskEnd (p : Nat)
  | launchRecordRead (n : Nat)
  | launchWaitMet (l : Nat)
  | agingStep (l : Nat)
  | pieceReserve (l : Nat)
  | pieceGrant (l : Nat)
  | switchOut (p : Nat)
  | sequenceResume (l : Nat)
  | launchDone (l : Nat)
  | subgraphLoadDone
  | remoteSubgraphFire (id : Nat)
  | moveHoldExpire (id : Nat)
  | pairClaim (l i : Nat)
  | bindingTimeout (l : Nat)
  | pairRelease (pair : Nat)
  | linkTokenSend (k : Nat)
  | replayTimeout (g : Nat)
  | streamFrameReceive (pair : Nat)
  | dieToDieTokenArrive (k : Nat)
  | remoteStoreLine (pair : Nat)
  | remoteStorePartial (pair : Nat)
  | remoteLoad (pair : Nat)
  | remoteInvoke (pair : Nat)
  | loadReply (pair : Nat)
  | storeAcknowledgement (pair : Nat)
  | invokeResult (pair : Nat)
  | remoteReplyTimeout (id : Nat)
  | memoryWritePerform (id : Nat) (scope : BitVec 3)
  | blockLockLoss (port lane : Nat)
  | idleFlit (g : Nat)
  | powerStateEntryComplete
  | laneLost (port lane : Nat)
deriving DecidableEq, Repr

/-- Whose turn it is (the model's own): an engine of a piece (0 S, 1 C, 2 M, 3 F), an element of a piece, a step of
another unit, an event from outside, or the end of the fabric cycle; `retry` is the turn of an engine that a tack has stalled,
`late` that of S where its word comes last in the cycle. -/
inductive Turn where
  | engine (p eng : Nat)
  | retry (p eng : Nat)
  | late (p : Nat)
  | element (p e : Nat)
  | auto (a : Auto)
  | event (i : Instr)
  | tick
deriving DecidableEq, Repr

/-- What orders the memory operations of a sidecar core (R118): the operations that its FENCEs and acquires put before its
later reads, writes, reads of the hub window and writes of it; and the writes it has observed. -/
structure SideCore where
  onR : List Dep := []
  onW : List Dep := []
  onI : List Dep := []
  onO : List Dep := []
  seen : List Nat := []        -- writes of others that its reads have observed
deriving DecidableEq, Repr

/-- The whole package. -/
structure State where
  agenda  : List Turn := []
  choices : List Nat := []
  focusP  : Nat := 0           -- the piece that acts
  focusE  : Nat := 0           -- the element that acts
  focusS  : Nat := 0           -- and its slot
  fresh   : Nat := 0           -- counts free values taken
  opCount : Nat := 0           -- counts operations handed out
  time    : Nat := 0           -- fabric cycles since power-good (R358)
  mem     : SMap Byte := []
  vault   : SMap Byte := []
  poison  : SMap Bool := []    -- 2 * (byte address of the line), plus 1 in the vault space
  upset   : SMap Nat := []     -- soft errors not yet detected, keyed as poison: 1 corrected, 2 uncorrected, 3 not containable
  lmeta   : SMap (BitVec 61) := []   -- TAG, KEY, PROT of a line (R290), by line number
  ops     : List MemOp := []
  scatters : List Scatter := []
  barEvs  : List BarEvent := []
  invokes : List Invoke := []
  side    : SMap SideCore := []
  resv    : SMap (Option Nat) := []    -- the line each sidecar core holds a reservation of (R118), by its base
  hub     : Hub := {}
  links   : Links := {}
  pieces  : SMap Piece := []
  outbox  : List Output := []
deriving DecidableEq, Repr

/-- The state right after power-good, before any boot step: every field at its reset value. -/
def State.reset : State := {}

end Sys2Proof.Machine
end

