-- ==== Sys2Proof/Machine/Mem.lean ====
section
/-! DEFINITION. Bytes of the physical and the vault space (R64, R66), lines with their poison (R368) and their
protection (R289, R290). -/

namespace Sys2Proof.Machine

/-- Contents of an address space: address and byte pairs, in the canonical form of `Memory.wf`. -/
abbrev Memory := SMap Byte

/-- What a byte that nothing has written reads as: a vault byte 0x00 (R412). A DRAM or LPDDR6 byte 0x00 (log 1, DESIGN CHOICE), but in the
wall table at the reset value of WALLBASE 0x03, since KIND is 3 at reset (R77). -/
def unlisted (v : Bool) (a : Nat) : Byte := if !v && decide (a < 2 ^ 20) then 3 else 0

/-- The canonical form of a memory, the vaults when `v`: addresses strictly rising, no entry equal to what an unlisted
address reads as. -/
def Memory.wf (v : Bool) (m : Memory) : Bool := SMap.sortedFrom 0 m && m.all fun kv => decide (kv.2 ≠ unlisted v kv.1)

/-- One byte of a space: the vaults when `v`, else physical memory. -/
def State.byte (s : State) (v : Bool) (a : Nat) : Byte := SMap.get (unlisted v a) (if v then s.vault else s.mem) a

/-- `n` bytes from an address, as stored. -/
def State.bytes (s : State) (v : Bool) (a n : Nat) : List Byte := tab n fun i => s.byte v (a + i)

/-- Writes one byte. -/
def State.putByte (s : State) (v : Bool) (a : Nat) (b : Byte) : State :=
  if v then { s with vault := SMap.set (unlisted v a) s.vault a b } else { s with mem := SMap.set (unlisted v a) s.mem a b }

/-- Writes bytes from an address upward, as stored. -/
def State.putBytes (s : State) (v : Bool) (a : Nat) : List Byte → State
  | [] => s
  | b :: bs => State.putBytes (s.putByte v a b) v (a + 1) bs

/-! ## Lines -/

/-- Bytes of a line (R368): 64 in a vault, 128 elsewhere. -/
def lineSize (v : Bool) : Nat := if v then 64 else 128
/-- The first address of a line. -/
def lineBase (v : Bool) (a : Nat) : Nat := a / lineSize v * lineSize v
/-- The key of a line in the poison and soft error maps. -/
def lineKey (v : Bool) (a : Nat) : Nat := 2 * lineBase v a + (if v then 1 else 0)
/-- The lines that `n` bytes from `a` touch. -/
def linesOf (v : Bool) (a n : Nat) : List Nat :=
  tab ((a + n - 1) / lineSize v + 1 - a / lineSize v) fun i => lineBase v a + i * lineSize v

/-- Whether any line of a range is poisoned. -/
def State.poisoned (s : State) (v : Bool) (a n : Nat) : Bool :=
  (linesOf v a n).any fun l => SMap.get false s.poison (lineKey v l)

/-! ## Protected lines -/

/-- A domain's keys. -/
def State.keyDom (s : State) (d : Nat) : KeyDom := SMap.get {} s.hub.keys d

/-- The line metadata of R290 at a physical address. -/
def State.lineMeta (s : State) (a : Nat) : BitVec 61 := SMap.get 0 s.lmeta (a / 128)
/-- PROT of a line. -/
def State.prot (s : State) (a : Nat) : Bool := bitAt (s.lineMeta a).toNat 60
/-- KEY of a line. -/
def State.protKey (s : State) (a : Nat) : Nat := bits (s.lineMeta a).toNat 56 4

/-- The tag of R289: the leftmost 56 bits of the CMAC of an address and a ciphertext, lowest byte first (R1). -/
def lineTag (k : KeyDom) (pa : Nat) (ct : List Nat) : Nat := bytesNat ((cmac k.cmac (natBytes 8 pa ++ ct)).take 7)

/-- A line encrypted under a domain's keys (R289): its bytes and its tag. -/
def sealLine (k : KeyDom) (pa : Nat) (plain : List Byte) : List Byte × Nat :=
  let ct := xts true k.xts pa (plain.map (·.toNat))
  (ct.map (BitVec.ofNat 8), lineTag k pa ct)

/-- A sealed line checked and decrypted, or none where its tag does not match, or the domain has no keys
or is losing them (R400, R401). -/
def openLine (k : KeyDom) (pa : Nat) (ct : List Byte) (tag : Nat) : Option (List Byte) :=
  let c := ct.map (·.toNat)
  if k.prov && !k.ending && lineTag k pa c = tag then some ((xts false k.xts pa c).map (BitVec.ofNat 8)) else none

/-- The whole physical address of a local one: the package number above it (R66). -/
def State.fullPa (s : State) (l : Nat) : Nat := l + s.hub.pkg.toNat * 2 ^ 45

/-- The clear contents of the physical line at `l`, or none where its tag fails (R372). -/
def State.plainLine (s : State) (l : Nat) : Option (List Byte) :=
  let raw := s.bytes false l 128
  if s.prot l then openLine (s.keyDom (s.protKey l)) (s.fullPa l) raw (bits (s.lineMeta l).toNat 0 56) else some raw

/-- Stores a line as a PROT line under a domain's keys (R288, R349). -/
def State.putSealed (s : State) (l dom : Nat) (plain : List Byte) : State :=
  let c := sealLine (s.keyDom dom) (s.fullPa l) plain
  let s := s.putBytes false l c.1
  { s with lmeta := SMap.set 0 s.lmeta (l / 128) (BitVec.ofNat 61 (c.2 + dom * 2 ^ 56 + 2 ^ 60)) }

/-- What a local read returns. -/
structure ReadRes where
  data  : List Byte
  pois  : Bool             -- some line of it is poisoned
  integ : Option Nat       -- the address of a line whose tag fails (R372)
deriving DecidableEq, Repr

/-- A local read of `n` bytes, through the hub's inline engine for PROT lines (R290). -/
def State.read (s : State) (v : Bool) (a n : Nat) : ReadRes :=
  if v then { data := s.bytes true a n, pois := s.poisoned true a n, integ := none }
  else
    let ls := linesOf false a n
    if ls.any s.prot then
      match ls.find? fun l => (s.plainLine l).isNone with
      | some l => { data := List.replicate n 0, pois := s.poisoned false a n, integ := some l }
      | none =>
        let all := (ls.map fun l => (s.plainLine l).getD []).flatten
        { data := (all.drop (a - lineBase false a)).take n, pois := s.poisoned false a n, integ := none }
    else { data := s.bytes false a n, pois := s.poisoned false a n, integ := none }

/-- A write to a line ends the reservations that sidecar cores hold of it (R118). -/
def State.breakLine (s : State) (v : Bool) (l : Nat) : State :=
  if v || s.resv.isEmpty then s else { s with resv := s.resv.filter fun kv => kv.2 != some l }

/-- Writes the bytes that one line receives: `o` is the offset in the line. None where a partial write meets a PROT line
whose tag fails (R372). A whole-line write clears poison and PROT (R290, R368). -/
def State.writeLine (s : State) (v : Bool) (l o : Nat) (data : List Byte) : Option State :=
  let s := s.breakLine v l
  if data.length = lineSize v then
    let s := s.putBytes v l data
    let s := { s with poison := SMap.set false s.poison (lineKey v l) false, upset := s.upset.erase (lineKey v l) }
    some (if v then s else
      { s with lmeta := SMap.set 0 s.lmeta (l / 128) (BitVec.ofNat 61 ((s.lineMeta l).toNat % 2 ^ 60)) })
  else if !v && s.prot l then
    match s.plainLine l with
    | none => none
    | some p => some (s.putSealed l (s.protKey l) (p.take o ++ data ++ p.drop (o + data.length)))
  else some (s.putBytes v (l + o) data)

/-- Writes bytes line by line; `n` bounds the lines. -/
def State.writeLines (s : State) (v : Bool) : Nat → Nat → List Byte → Option State
  | 0, _, _ => some s
  | _, _, [] => some s
  | n + 1, a, data =>
    let l := lineBase v a
    let k := l + lineSize v - a
    match s.writeLine v l (a - l) (data.take k) with
    | none => none
    | some t => State.writeLines t v n (a + k) (data.drop k)

/-- A local write; none where a partial write meets a PROT line whose tag fails: then nothing of it is written. -/
def State.write (s : State) (v : Bool) (a : Nat) (data : List Byte) : Option State :=
  s.writeLines v (data.length / lineSize v + 2) a data

/-- A write by a unit of the hub to memory it owns. -/
def State.hubWrite (s : State) (a : Nat) (data : List Byte) : State := (s.write false a data).getD s

/-! ## The local map (R66) -/

/-- Whether DRAM stack `k` is present and trained (R305, R403). -/
def State.stackUp (s : State) (k : Nat) : Bool := bitAt s.hub.svc.toNat 6 && bitAt s.hub.stkstat.toNat k

/-- Whether a local physical address is in a populated DRAM stack. -/
def State.inDram (s : State) (a : Nat) : Bool :=
  decide (a < 2 ^ 40) && decide (a % 2 ^ 37 < 96 * 2 ^ 30) && s.stackUp (a / 2 ^ 37)
/-- Whether a local physical address is in populated LPDDR6. -/
def State.inLpddr (s : State) (a : Nat) : Bool :=
  decide (2 ^ 40 ≤ a) && decide (a < 2 ^ 40 + s.hub.lpcap.toNat * 2 ^ 33)
/-- The host function whose enabled window holds an address (R66, R67). -/
def State.hostWin (s : State) (a : Nat) : Option Bool :=
  if a / 2 ^ 40 = 2 && s.hub.hostEn.1 then some false
  else if a / 2 ^ 40 = 3 && s.hub.hostEn.2 then some true
  else none
/-- Whether a local physical address is in the hub register window. -/
def inHubWin (a : Nat) : Bool := decide (2 ^ 42 ≤ a) && decide (a < 2 ^ 42 + 2 ^ 24)
/-- Whether a local physical address is memory: DRAM or LPDDR6. -/
def State.inMem (s : State) (a : Nat) : Bool := s.inDram a || s.inLpddr a

/-- Whether two ranges overlap. -/
def overlap (a n b m : Nat) : Bool := decide (a < b + m) && decide (b < a + n)

/-- The wall byte of a memory granule (R77). -/
def State.wallByte (s : State) (a : Nat) : Nat := (s.byte false (s.hub.wallbase.toNat + a / 2 ^ 21)).toNat
/-- KIND of a granule. -/
def State.wallKind (s : State) (a : Nat) : Nat := s.wallByte a % 4
/-- DOMAIN of a granule. -/
def State.wallDom (s : State) (a : Nat) : Nat := s.wallByte a / 4 % 16

end Sys2Proof.Machine
end

