-- ==== Sys2Proof/Machine/HubBase.lean ====
section
/-! DEFINITION. What several units share in the hub: interrupts (R292, R295), error records (R357, R358), the end of a
launch as unfit (R49), service level (R304), measurements (R297) and notify writes (R47, R89, R196). -/

namespace Sys2Proof.Machine

/-- Appends what leaves the package. -/
def State.emit (s : State) (o : Output) : State := { s with outbox := s.outbox ++ [o] }

/-- An MSI-X vector of an enabled host function (R292). -/
def State.hostIrq (s : State) (f : Bool) (v : Nat) : State :=
  if (if f then s.hub.hostEn.2 else s.hub.hostEn.1) then s.emit (.msix f v) else s

/-- Whether an agent is there: a host function that is not enabled reaches nothing (R292). -/
def Hub.present (h : Hub) (ag : HubAgent) : Bool :=
  match ag with
  | .host0 => h.hostEn.1
  | .host1 => h.hostEn.2
  | _ => true
/-- What an agent does, if it is there. -/
def State.byAgent (s : State) (ag : HubAgent) (f : State → State) : Host.Outcome State Fault Refusal :=
  .next (if s.hub.present ag then f s else s)

/-- Vector 0 of every enabled host function. -/
def State.hostIrqs (s : State) : State := (s.hostIrq false 0).hostIrq true 0

/-- The sidecar interrupt, to the core SCIRQ names (R295). -/
def State.sidecarIrq (s : State) : State := s.emit (.sidecarIrq (s.hub.scirq.toNat % 16))

/-- Sets SVC.LEVEL; a change raises the interrupts of R304. After a fatal record it stays 0 (R358). -/
def State.setLevel (s : State) (lv : Nat) : State :=
  if s.hub.svc.toNat % 4 = lv || (s.hub.fatal && lv != 0) then s
  else
    State.sidecarIrq (State.hostIrqs
      { s with hub := { s.hub with svc := BitVec.ofNat 8 (s.hub.svc.toNat / 4 * 4 + lv), fused := s.hub.fused || lv != 0 } })

/-! ## Error records -/

/-- A record to be written (R358), without its sequence number and time. -/
structure ErrRec where
  cls    : Nat
  src    : Nat
  code   : Nat
  loc    : Nat := 0
  addr   : Nat := 0
  launch : Nat := 0
  detail : Nat := 0
deriving DecidableEq, Repr

/-- The 64 bytes of a record. -/
def ErrRec.bytes (r : ErrRec) (seq time : Nat) : List Byte :=
  bytesOf 8 (r.cls % 4 + r.src % 64 * 4 + r.code % 256 * 256 + seq % 2 ^ 32 * 2 ^ 32) ++ bytesOf 8 time
    ++ bytesOf 8 r.loc ++ bytesOf 8 r.addr ++ bytesOf 8 r.launch ++ bytesOf 8 r.detail ++ bytesOf 16 0

/-- LOC of a record: panel, bay, unit index, port or lane. -/
def errLoc (panel bay unit port : Nat) : Nat := panel % 4 + bay % 8 * 4 + unit % 256 * 32 + port % 256 * 8192

/-- Whether the ring has no room. -/
def Hub.errFull (h : Hub) : Bool := (h.errhead - h.errtail).toNat == 2 ^ h.errsize

/-- Writes one record into the ring, then moves HEAD past it and raises the interrupts of R357. -/
def State.ringWrite (s : State) (img : List Byte) : State :=
  let s := s.hubWrite (s.hub.errbase.toNat + 64 * (s.hub.errhead.toNat % 2 ^ s.hub.errsize)) img
  State.sidecarIrq (State.hostIrqs { s with hub := { s.hub with errhead := s.hub.errhead + 1 } })

/-- Saturating count of dropped records. -/
def lostPlus (n : Nat) : Nat := if n < 65535 then n + 1 else n

/-- Writes, holds or drops a record (R357). -/
def State.record (s : State) (r : ErrRec) : State :=
  let img := r.bytes s.hub.errseq.toNat s.time
  let h := { s.hub with errseq := s.hub.errseq + 1, aonbuf := if r.cls = 2 then img else s.hub.aonbuf }
  let s := { s with hub := h }
  if h.errFull || !h.errheld.isEmpty then
    if r.cls = 2 || (r.cls != 0 && h.errheld.length < 64) then
      { s with hub := { h with errheld := h.errheld ++ [img] } }
    else { s with hub := { h with errlost := lostPlus h.errlost } }
  else s.ringWrite img

/-- Writes the records that waited, as long as there is room; `n` bounds them. -/
def State.drainHeld : Nat → State → State
  | 0, s => s
  | n + 1, s =>
    match s.hub.errheld with
    | [] => s
    | r :: rs =>
      if s.hub.errFull then s
      else State.drainHeld n (State.ringWrite { s with hub := { s.hub with errheld := rs } } r)

/-! ## Launches -/

/-- A launch slot. -/
def State.launch (s : State) (l : Nat) : Launch := SMap.get {} s.hub.launches l
/-- Writes a launch slot. -/
def State.setLaunch (s : State) (l : Nat) (x : Launch) : State :=
  { s with hub := { s.hub with launches := s.hub.launches.insert l x } }

/-- The LAUNCH word of a record (R358). -/
def State.launchWord (s : State) (l : Nat) : Nat :=
  let x := s.launch l
  l % 256 + x.queue % 64 * 256 + x.index % 65536 * 16384

/-- Returns a save area to the pool (R348). -/
def Hub.freeSave (h : Hub) (area : Nat) : Hub :=
  { h with saves := h.saves.filter fun a => h.savebase.toNat + 65536 * a.1 != area }

/-- The save areas of sequences. -/
def savedAreas : List Seq → List Nat
  | [] => []
  | q :: qs => match q.place with
    | .saved a => a :: savedAreas qs
    | _ => savedAreas qs

/-- A sequence of a launch that ends as unfit: one that holds a piece runs its task to the end, the others are
discarded (R49). -/
def Seq.drop (q : Seq) : Seq :=
  match q.place with
  | .held _ => q
  | _ => { q with place := .ended }

/-- R49: the launch enters UNFIT; its unstarted tasks never start and its pre-empted sequences are discarded. -/
def State.endUnfit (s : State) (l : Nat) : State :=
  let x := s.launch l
  let h := (savedAreas x.seqs).foldl Hub.freeSave s.hub
  let h := { h with pockets := h.pockets.map fun kv =>
    (kv.1, if kv.2.v && kv.2.launch == l && (x.seqs.any fun q => q.first == kv.2.seq
        && (match q.place with | .saved _ => true | _ => false)) then {} else kv.2) }
  State.setLaunch { s with hub := h } l
    { x with st := .unfit, ended := true, seqs := x.seqs.map Seq.drop, reserve := none, waits := [] }

/-- Whether a launch is in the hub and has not ended. -/
def Launch.open (x : Launch) : Bool :=
  match x.st with
  | .none => false
  | .done => false
  | .unfit => false
  | _ => true

/-- The error interrupt of a launch's source (R49, R45): MSI-X of a host function, or the sidecar interrupt. -/
def State.sourceErr (s : State) (src : Nat) : State :=
  match src with
  | 0 => s.hostIrq false 0
  | 1 => s.hostIrq true 0
  | 2 => s.sidecarIrq
  | _ => s
/-- A launch enters UNFIT, with its record and the error interrupt of its source (R49). -/
def State.unfitLaunch (s : State) (l : Nat) : State :=
  ((s.endUnfit l).record { cls := 1, src := 1, code := 1, launch := s.launchWord l }).sourceErr (s.launch l).src
/-- Ends every open launch as unfit (R301, R306, R358). -/
def State.endLaunches (s : State) : State :=
  s.hub.launches.foldl (fun s kv => if kv.2.open then s.unfitLaunch kv.1 else s) s

/-- An error record with its consequences: a fatal one ends every launch and sets SVC.LEVEL to 0 (R358). -/
def State.err (s : State) (r : ErrRec) : State :=
  if r.cls = 2 then
    let s := (s.record r).endLaunches.setLevel 0
    { s with hub := { s.hub with fatal := true } }
  else s.record r

/-! ## Soft errors (R368, R371) -/

/-- Where a line lies, for the LOC of its record (R9, R358): the panel, bay and bank of a vault line; the panel and number of a DRAM
stack; LPDDR6 lies in none (log 68, DEDUCED). -/
def lineLoc (v : Bool) (l : Nat) : Nat :=
  if v then errLoc (l / 2 ^ 29) (l / 2 ^ 26 % 8) (bits l 6 4) 0
  else if l < 2 ^ 40 then errLoc (l / 2 ^ 38) 0 (l / 2 ^ 37) 0 else 0

/-- Whether a line belongs to the wall table or the error record ring, whose uncorrectable errors cannot be contained (R371). -/
def Hub.vital (h : Hub) (v : Bool) (l : Nat) : Bool :=
  !v && (overlap l 128 h.wallbase.toNat (2 ^ 20) || overlap l 128 h.errbase.toNat (64 * 2 ^ h.errsize))

/-- Detection of a soft error of one line. -/
def State.detectLine (s : State) (v : Bool) (l : Nat) : State :=
  let k := lineKey v l
  let loc := lineLoc v l
  let adr := if v then 0xFE00000000000000 + l else l
  let clear := { s with upset := s.upset.erase k }
  match (if s.hub.vital v l && SMap.get 0 s.upset k = 2 then 3 else SMap.get 0 s.upset k) with
  | 0 => s
  | 1 => clear.err { cls := 0, src := 2, code := 1, loc := loc, addr := adr }
  | 2 => State.err { clear with poison := SMap.set false clear.poison k true } { cls := 1, src := 2, code := 2, loc := loc, addr := adr }
  | _ => clear.err { cls := 2, src := 2, code := 3, loc := loc, addr := adr }

/-- Detection of the soft errors of the lines a range touches, before they are read; a memory without any changes nothing. -/
def State.detect (s : State) (v : Bool) (a n : Nat) : State :=
  if s.upset.isEmpty then s else (linesOf v a n).foldl (fun s l => s.detectLine v l) s

/-! ## Measurements -/

/-- MEAS := SHA-256(MEAS ∥ digest) (R297). A 256-bit value is its 32 bytes, first byte lowest. -/
def State.extend (s : State) (i : Nat) (digest : BitVec 256) : State :=
  let old := SMap.get 0 s.hub.meas i
  let new := sha256 (natBytes 32 old.toNat ++ natBytes 32 digest.toNat)
  { s with hub := { s.hub with meas := s.hub.meas.insert i (BitVec.ofNat 256 (bytesNat new)) } }

/-! ## Notify registers -/

/-- The value of a notify register. -/
def State.notifyVal (s : State) (n : Nat) : W64 := SMap.get 0 s.hub.notify n
/-- Its NCFG. -/
def State.ncfgOf (s : State) (n : Nat) : NCfg := SMap.get {} s.hub.ncfg n

/-- The test of a notify wait of a launch (R47) on notify wait word `w` of its record. -/
def notifyWaitMet (w : Nat) (v : W64) : Bool :=
  if bitAt w 9 then bitAt v.toNat (bits w 10 6) else v != 0

/-- Word `n` of the notify waits of a record (R44). -/
def Launch.ntf (x : Launch) (n : Nat) : Nat := ofBytes ((x.image.drop (0x78 + 4 * n)).take 4)

/-- The evaluation of a waiting launch's notify waits at a write of register `n`. -/
def Launch.seeNotify (x : Launch) (n : Nat) (v : W64) : Launch :=
  { x with waits := x.waits.filter fun w =>
    !(4 ≤ w && bits (x.ntf (w - 4)) 0 8 == n && notifyWaitMet (x.ntf (w - 4)) v) }

/-- The evaluation of an `s.wfn` at a write of register `n` (R196). -/
def Piece.seeNotify (p : Piece) (n : Nat) (v : W64) : Piece :=
  match p.await with
  | .wfn k m => if k = n && v &&& (if m = 0 then -1 else m) != 0 then { p with await := .result v } else p
  | _ => p

/-- A notify register takes a value, and every wait on it is evaluated (R47, R89, R196). In RETAIN entry and RETAIN the
write is kept and wakes the part (R303, R307). -/
def State.setNotify (s : State) (n : Nat) (v : W64) : State :=
  { s with
    hub := { s.hub with
      notify := SMap.set 0 s.hub.notify n v
      launches := s.hub.launches.map fun kv => (kv.1, if kv.2.st = .waiting then kv.2.seeNotify n v else kv.2)
      wakeDue := s.hub.wakeDue || s.hub.power == 2 || s.hub.entering == 2 }
    pieces := s.pieces.map fun kv => (kv.1, kv.2.seeNotify n v) }

/-- The three writes of R89: replace, OR, add. -/
def notifyCombine (how : Nat) (old v : W64) : W64 :=
  match how with
  | 0 => v
  | 1 => old ||| v
  | _ => old + v

end Sys2Proof.Machine
end

