-- ==== Sys2Proof/Machine/Wif.lean ====
section
/-! DEFINITION. The wide internal float: decoding (R119), RoundWif (R120), the lane integer (R121), the flags (R122,
R123) and the element arithmetic of R141, with exact values as dyadic numbers. -/

namespace Sys2Proof.Machine

/-- A set of the four floating-point flags, in the bit places of R122. -/
abbrev FFlags := BitVec 4

/-- Invalid. -/
def flNV : FFlags := 1
/-- Overflow. -/
def flOF : FFlags := 2
/-- Underflow. -/
def flUF : FFlags := 4
/-- Inexact. -/
def flNX : FFlags := 8

/-- What a wif lane denotes (R119): a finite value is (-1)^neg * mag * 2^exp. -/
inductive WVal where
  | zero (neg : Bool)
  | fin (neg : Bool) (mag : Nat) (exp : Int)
  | inf (neg : Bool)
  | nan (neg : Bool)
deriving DecidableEq, Repr

/-- Decodes a wif lane (R119). -/
def wifVal (x : Lane) : WVal :=
  let v := x.toNat
  let s := bitAt v 39
  let e := bits v 27 12
  let m := bits v 0 27
  if e = 0 then .zero s
  else if e = 4095 then (if m = 0 then .inf s else .nan s)
  else .fin s (if m < 2 ^ 26 then m + 2 ^ 26 else m) ((e : Int) - 2047 - 26)

/-- Builds a wif lane from its fields. -/
def wifPack (neg : Bool) (e m : Nat) : Lane := BitVec.ofNat 40 ((if neg then 2 ^ 39 else 0) + e * 2 ^ 27 + m)

/-- Signed zero. -/
def wifZero (neg : Bool) : Lane := wifPack neg 0 0
/-- Signed infinity. -/
def wifInf (neg : Bool) : Lane := wifPack neg 4095 0
/-- The canonical NaN (R119). -/
def wifNan (neg : Bool) : Lane := wifPack neg 4095 0x4000000

/-- RoundWif (R120) of (-1)^neg * mag * 2^exp, `mag` not 0; `more` says that the exact magnitude is a little larger. -/
def roundMag (neg : Bool) (mag : Nat) (exp : Int) (more : Bool) : Lane × FFlags :=
  let m := 4 * mag + (if more then 1 else 0)
  let sh := m.log2 + 1
  let r := if sh ≤ 27 then m * 2 ^ (27 - sh) else rne m (sh - 27)
  let inexact := if sh ≤ 27 then more else more || (m % 2 ^ (sh - 27) != 0)
  let carry := r == 2 ^ 27
  let sig := if carry then 2 ^ 26 else r
  let e := exp - 2 + (sh : Int) - 27 + (if carry then 1 else 0) + 26 + 2047
  if 4095 ≤ e then (wifInf neg, flOF ||| flNX)
  else if e < 1 then (wifZero neg, flUF ||| flNX)
  else (wifPack neg e.toNat sig, if inexact then flNX else 0)

/-- RoundWif of an exact integer times a power of two; an exact zero gives +0. -/
def roundDyadic (x exp : Int) : Lane × FFlags :=
  if x = 0 then (wifZero false, 0) else roundMag (decide (x < 0)) x.natAbs exp false

/-- The signed integer of a finite value brought to exponent `e`, at or below its own. -/
def alignTo (neg : Bool) (mag : Nat) (exp e : Int) : Int :=
  let m : Int := ((mag * 2 ^ (exp - e).toNat : Nat) : Int)
  if neg then -m else m

/-- RoundWif of the exact sum of two finite nonzero values. -/
def roundSum (na : Bool) (ma : Nat) (ea : Int) (nb : Bool) (mb : Nat) (eb : Int) : Lane × FFlags :=
  let e := if ea ≤ eb then ea else eb
  roundDyadic (alignTo na ma ea e + alignTo nb mb eb e) e

/-- The negation of a decoded value. -/
def WVal.neg : WVal → WVal
  | .zero s => .zero (!s)
  | .fin s m e => .fin (!s) m e
  | .inf s => .inf (!s)
  | .nan s => .nan s

/-- RoundWif of the sum of two decoded values; NaN operands in order, the invalid operation first (R119). -/
def addVal (a b : WVal) : Lane × FFlags :=
  match a, b with
  | .nan s, _ => (wifNan s, 0)
  | _, .nan s => (wifNan s, 0)
  | .inf s, .inf t => if s = t then (wifInf s, 0) else (wifNan false, flNV)
  | .inf s, _ => (wifInf s, 0)
  | _, .inf t => (wifInf t, 0)
  | .zero s, .zero t => (wifZero (s && t), 0)
  | .zero _, .fin t m e => roundMag t m e false
  | .fin s m e, .zero _ => roundMag s m e false
  | .fin s m e, .fin t n f => roundSum s m e t n f

/-- The exact product of two decoded values, or the invalid product. -/
def mulVal (a b : WVal) : Option WVal :=
  match a, b with
  | .inf _, .zero _ => none
  | .zero _, .inf _ => none
  | .nan s, _ => some (.nan s)
  | _, .nan s => some (.nan s)
  | .inf s, .inf t => some (.inf (s != t))
  | .inf s, .fin t _ _ => some (.inf (s != t))
  | .fin s _ _, .inf t => some (.inf (s != t))
  | .zero s, .zero t => some (.zero (s != t))
  | .zero s, .fin t _ _ => some (.zero (s != t))
  | .fin s _ _, .zero t => some (.zero (s != t))
  | .fin s m e, .fin t n f => some (.fin (s != t) (m * n) (e + f))

/-- RoundWif of a decoded value. -/
def roundVal : WVal → Lane × FFlags
  | .zero s => (wifZero s, 0)
  | .fin s m e => roundMag s m e false
  | .inf s => (wifInf s, 0)
  | .nan s => (wifNan s, 0)

/-- fadd (R141). -/
def wifAdd (a b : Lane) : Lane × FFlags := addVal (wifVal a) (wifVal b)
/-- fsub (R141). -/
def wifSub (a b : Lane) : Lane × FFlags := addVal (wifVal a) (wifVal b).neg
/-- fmul (R141). -/
def wifMul (a b : Lane) : Lane × FFlags :=
  match mulVal (wifVal a) (wifVal b) with
  | none => (wifNan false, flNV)
  | some p => roundVal p
/-- fma: a * b + c rounded once; infinity times zero is invalid even where c is a NaN (R141). -/
def wifFma (a b c : Lane) : Lane × FFlags :=
  match mulVal (wifVal a) (wifVal b) with
  | none => (wifNan false, flNV)
  | some p => addVal p (wifVal c)
/-- fnma: c - a * b rounded once (R141). -/
def wifFnma (a b c : Lane) : Lane × FFlags :=
  match mulVal (wifVal a) (wifVal b) with
  | none => (wifNan false, flNV)
  | some p => addVal p.neg (wifVal c)

/-- The order of fmin and fmax on values that are no NaN: -0 below +0. -/
def wifLt (a b : WVal) : Bool :=
  match a, b with
  | .nan _, _ => false
  | _, .nan _ => false
  | .inf s, .inf t => s && !t
  | .inf s, _ => s
  | _, .inf t => !t
  | .zero s, .zero t => s && !t
  | .zero _, .fin t _ _ => !t
  | .fin s _ _, .zero _ => s
  | .fin s m e, .fin t n f =>
    let g := if e ≤ f then e else f
    decide (alignTo s m e g < alignTo t n f g)

/-- Whether two values compare equal: zeros of either sign do, NaNs never. -/
def wifEq (a b : WVal) : Bool :=
  match a, b with
  | .nan _, _ => false
  | _, .nan _ => false
  | .zero _, .zero _ => true
  | a, b => !wifLt a b && !wifLt b a

/-- A lane written in the part's own form (R119). -/
def wifCanon (x : Lane) : Lane := (roundVal (wifVal x)).1

/-- fmin (R141). -/
def wifMin (a b : Lane) : Lane :=
  match wifVal a, wifVal b with
  | .nan s, .nan _ => wifNan s
  | .nan _, _ => wifCanon b
  | _, .nan _ => wifCanon a
  | x, y => if wifLt y x then wifCanon b else wifCanon a
/-- fmax (R141). -/
def wifMax (a b : Lane) : Lane :=
  match wifVal a, wifVal b with
  | .nan s, .nan _ => wifNan s
  | .nan _, _ => wifCanon b
  | _, .nan _ => wifCanon a
  | x, y => if wifLt x y then wifCanon b else wifCanon a

/-- The integer of a lane: bits [31:0] in two's complement (R121). -/
def laneInt (x : Lane) : Int := sgn 32 x.toNat
/-- The low word of a lane. -/
def laneWord (x : Lane) : Nat := x.toNat % 2 ^ 32
/-- The lane of an integer result: bits [39:32] copy bit 31 (R121). -/
def intLane (v : Int) : Lane := BitVec.ofInt 40 (sgn 32 (lowBits 32 v))
/-- SatI32 (R121); a clamped result is inexact (R123). -/
def satI32 (v : Int) : Lane × FFlags :=
  if v < -2147483648 then (intLane (-2147483648), flOF ||| flNX)
  else if 2147483647 < v then (intLane 2147483647, flOF ||| flNX)
  else (intLane v, 0)

/-- fclt, fcle, fceq (R141) as integer lanes. -/
def wifCmp (c : Nat) (a b : Lane) : Lane :=
  let x := wifVal a
  let y := wifVal b
  let eq := wifEq x y
  let lt := wifLt x y && !eq
  intLane (if (match c with | 0 => lt | 1 => lt || eq | _ => eq) then 1 else 0)

/-- cvt.if (R141). -/
def cvtIF (a : Lane) : Lane × FFlags := roundDyadic (laneInt a) 0
/-- cvt.fi (R141). -/
def cvtFI (a : Lane) : Lane × FFlags :=
  match wifVal a with
  | .zero _ => (intLane 0, 0)
  | .nan _ => (intLane 0, flNV)
  | .inf s => (intLane (if s then -2147483648 else 2147483647), flNV)
  | .fin s m e =>
    let r : Nat := if 0 ≤ e then m * 2 ^ e.toNat else rne m (-e).toNat
    let exact := if 0 ≤ e then true else m % 2 ^ (-e).toNat == 0
    let v : Int := if s then -(r : Int) else (r : Int)
    let sat := satI32 v
    (sat.1, sat.2 ||| (if exact then 0 else flNX))

/-- A wif lane from an fp32 pattern is `Widen`; 1.0 in wif. -/
def wifOne : Lane := wifPack false 2047 0x4000000

end Sys2Proof.Machine
end

