-- ==== Sys2Proof/Machine/Ops.lean ====
section
/-! DEFINITION. The named operations of a piece: its registers, counters, queues, steer queues and tacks (R19 to R28),
traps raised and delivered (R339 to R343), the return from one (R344), and the one way a text word issues, waits,
traps and retires (R24, R25, R144, R164, R165). -/

namespace Sys2Proof.Machine

/-! ## The acting piece -/

/-- The acting piece. -/
def State.piece (s : State) : Piece := SMap.get {} s.pieces s.focusP
/-- Replaces the acting piece. -/
def State.setPiece (s : State) (p : Piece) : State := { s with pieces := s.pieces.insert s.focusP p }
/-- Changes the acting piece. -/
def State.modPiece (s : State) (f : Piece → Piece) : State := s.setPiece (f s.piece)
/-- Makes piece `p` the acting one. -/
def State.at (s : State) (p : Nat) : State := { s with focusP := p }
/-- A piece by its number. -/
def State.pieceOf (s : State) (p : Nat) : Piece := SMap.get {} s.pieces p

/-- An engine of a piece: 0 S, 1 C, 2 M, 3 F. -/
def Piece.eng (p : Piece) (e : Nat) : EngSt :=
  match e with
  | 0 => p.s
  | 1 => p.c
  | 2 => p.m
  | _ => p.f
/-- Replaces an engine. -/
def Piece.setEng (p : Piece) (e : Nat) (x : EngSt) : Piece :=
  match e with
  | 0 => { p with s := x }
  | 1 => { p with c := x }
  | 2 => { p with m := x }
  | _ => { p with f := x }

/-! ## S registers (R146, R164, R167) -/

/-- The value of an S register; s0 reads 0. -/
def Piece.reg (p : Piece) (r : BitVec 5) : W64 := if r = 0 then 0 else SMap.get 0 p.regs r.toNat
/-- Writes an S register by number: a write to s0 is discarded; the write clears a poison mark, and overtakes an
earlier load of the register. -/
def Piece.setRegN (p : Piece) (r : Nat) (v : W64) : Piece :=
  if r = 0 then p
  else { p with regs := SMap.set 0 p.regs r v, pend := p.pend.erase r, pois := p.pois.erase r }
/-- Writes an S register. -/
def Piece.setReg (p : Piece) (r : BitVec 5) (v : W64) : Piece := p.setRegN r.toNat v
/-- Marks a register as written later by operation `id`. -/
def Piece.pendReg (p : Piece) (r : BitVec 5) (id : Nat) : Piece :=
  if r = 0 then p else { p with pend := p.pend.insert r.toNat (some id), pois := p.pois.erase r.toNat }
/-- Whether a register waits for an earlier load. -/
def Piece.busy (p : Piece) (r : BitVec 5) : Bool := r != 0 && (SMap.get none p.pend r.toNat).isSome
/-- The address whose read poisoned a register. -/
def Piece.poisonOf (p : Piece) (r : BitVec 5) : Option W64 := if r = 0 then none else SMap.get none p.pois r.toNat

/-! ## Event counters (R201) -/

/-- Counts `n` occurrences of an event in every counter that selects it. -/
def Piece.count (p : Piece) (ev n : Nat) : Piece :=
  if p.sys.cntEv.any fun kv => kv.2 == ev then
    { p with sys := { p.sys with cnt := p.sys.cntEv.foldl (fun c kv =>
        if kv.2 = ev then SMap.set 0 c kv.1 (SMap.get 0 c kv.1 + BitVec.ofNat 64 n) else c) p.sys.cnt } }
  else p

/-! ## Tacks (R23 to R26) -/

/-- The FIFO from engine `a` to engine `b`: each tack carries the orders it hands over (R104). -/
def Piece.tackQ (p : Piece) (a b : Nat) : List (List Dep) := SMap.get [] p.tacks (4 * a + b)
/-- Replaces a FIFO. -/
def Piece.setTackQ (p : Piece) (a b : Nat) (q : List (List Dep)) : Piece :=
  { p with tacks := SMap.set [] p.tacks (4 * a + b) q }
/-- W, G and PARTNER of a tack field. -/
def tackW (t : BitVec 4) : Bool := bitAt t.toNat 3
/-- G. -/
def tackG (t : BitVec 4) : Bool := bitAt t.toNat 2
/-- PARTNER. -/
def tackP (t : BitVec 4) : Nat := t.toNat % 4

/-! ## Queues (R27, R28) -/

/-- The entries of a q queue. -/
def Piece.qOf (p : Piece) (n : Nat) : List QEntry := SMap.get [] p.q n
/-- Replaces a q queue. -/
def Piece.setQ (p : Piece) (n : Nat) (x : List QEntry) : Piece := { p with q := SMap.set [] p.q n x }
/-- The tokens of a y queue. -/
def Piece.yOf (p : Piece) (n : Nat) : List Token := SMap.get [] p.y n
/-- Replaces a y queue. -/
def Piece.setY (p : Piece) (n : Nat) (x : List Token) : Piece := { p with y := SMap.set [] p.y n x }
/-- Tokens pushed into a y queue in this cycle (R181). -/
def Piece.pushesOf (p : Piece) (n : Nat) : Nat := SMap.get 0 p.pushes n
/-- One more. -/
def Piece.pushed (p : Piece) (n : Nat) : Piece := { p with pushes := SMap.set 0 p.pushes n (p.pushesOf n + 1) }
/-- A push into a y queue completes: it ends a park (R193). -/
def Piece.pushY (p : Piece) (n : Nat) (t : Token) : Piece :=
  { (p.setY n (p.yOf n ++ [t])).pushed n with parkEv := true, moved := true }
/-- A push into bq completes. -/
def Piece.pushBq (p : Piece) (v : W64) : Piece := { p with bq := p.bq ++ [v], parkEv := true, moved := true }
/-- A push of a whole token into a q queue completes in a cycle. -/
def Piece.pushQ (p : Piece) (n : Nat) (t : Token) (time : Nat) : Piece :=
  { p.setQ n (p.qOf n ++ [{ tok := some t, at_ := time + 1 }]) with moved := true }

/-! ## Steer queues (R19, R21) -/

/-- A steer queue by its reader: 1 C, 2 M, 3 F. -/
def Piece.steerQ (p : Piece) (e : Nat) : List Bool := SMap.get [] p.steers e
/-- Replaces a steer queue. -/
def Piece.setSteer (p : Piece) (e : Nat) (q : List Bool) : Piece := { p with steers := SMap.set [] p.steers e q }
/-- Pushes an outcome into the three steer queues. -/
def Piece.pushSteer (p : Piece) (b : Bool) : Piece :=
  (((p.setSteer 1 (p.steerQ 1 ++ [b])).setSteer 2 (p.steerQ 2 ++ [b])).setSteer 3 (p.steerQ 3 ++ [b])).count 6 1
/-- The slip: the largest occupancy of the steer queues. -/
def Piece.slip (p : Piece) : Nat := Nat.max (p.steerQ 1).length (Nat.max (p.steerQ 2).length (p.steerQ 3).length)

/-! ## Traps -/

/-- The trap cause codes of R345. -/
def cILLEGAL : Nat := 0x01
/-- PRIV. -/
def cPRIV : Nat := 0x02
/-- MISALIGN. -/
def cMISALIGN : Nat := 0x03
/-- PAGE_ABSENT. -/
def cPAGE_ABSENT : Nat := 0x04
/-- PAGE_PROT. -/
def cPAGE_PROT : Nat := 0x05
/-- WALL. -/
def cWALL : Nat := 0x06
/-- VAULT_BOUND. -/
def cVAULT_BOUND : Nat := 0x07
/-- PAGE_MOVING. -/
def cPAGE_MOVING : Nat := 0x08
/-- VER_SKEW. -/
def cVER_SKEW : Nat := 0x09
/-- VER_GONE. -/
def cVER_GONE : Nat := 0x0A
/-- JOURNAL_FULL. -/
def cJOURNAL_FULL : Nat := 0x0B
/-- BQ_FULL. -/
def cBQ_FULL : Nat := 0x0C
/-- QUEUE_FULL. -/
def cQUEUE_FULL : Nat := 0x0D
/-- QUEUE_EMPTY. -/
def cQUEUE_EMPTY : Nat := 0x0E
/-- LOD_LIMIT. -/
def cLOD_LIMIT : Nat := 0x0F
/-- TAG_OVF. -/
def cTAG_OVF : Nat := 0x10
/-- ORDER. -/
def cORDER : Nat := 0x11
/-- DRAIN. -/
def cDRAIN : Nat := 0x12
/-- WATCHDOG. -/
def cWATCHDOG : Nat := 0x13
/-- CONFIG. -/
def cCONFIG : Nat := 0x14
/-- FORMAT. -/
def cFORMAT : Nat := 0x15
/-- POISON. -/
def cPOISON : Nat := 0x16
/-- INTEGRITY. -/
def cINTEGRITY : Nat := 0x17
/-- LINK_LOST. -/
def cLINK_LOST : Nat := 0x18
/-- REMOTE_FAIL. -/
def cREMOTE_FAIL : Nat := 0x19
/-- UNPICKED. -/
def cUNPICKED : Nat := 0x1A
/-- RESTORE_FAIL. -/
def cRESTORE_FAIL : Nat := 0x1B
/-- ECALL. -/
def cECALL : Nat := 0x1C
/-- BREAK. -/
def cBREAK : Nat := 0x1D
/-- KEY_REVOKED. -/
def cKEY_REVOKED : Nat := 0x1E
/-- DEBUG_HALT. -/
def cDEBUG_HALT : Nat := 0x1F

/-- The level of the thread (R36). -/
def Piece.level (p : Piece) : Nat := p.sys.priv.toNat % 4
/-- TSTAT.ACTIVE. -/
def Piece.active (p : Piece) : Bool := bitAt p.sys.tstat.toNat 2

/-- The address at which S re-executes: the prefix's where one is pending (R93, R147). -/
def Piece.spc (p : Piece) : W64 :=
  match p.pre with
  | .none => p.s.pc
  | .imx _ a => a
  | .sem _ _ _ _ a => a

/-- A popped tack goes back to the head of its FIFO (R25). Where the giver has refilled that FIFO to 15 meanwhile, its
count becomes 16, and pushes stall until it is below 15 again (log 64, DESIGN CHOICE). -/
def Piece.unpop (p : Piece) (e : Nat) (t : BitVec 4) : Piece :=
  let x := p.eng e
  let y := { x with issued := false, tdeps := [], tfrom := none, word := none, ending := false }
  if x.issued && tackW t then (p.setTackQ (tackP t) e (x.tdeps :: p.tackQ (tackP t) e)).setEng e y
  else p.setEng e y

/-- The word S waits in is abandoned (R165): the tack it has popped goes back, as in `Piece.unpop` (log 64, DESIGN CHOICE). -/
def Piece.abandon (p : Piece) : Piece :=
  match p.s.tfrom with
  | some q => p.setTackQ q 0 (p.s.tdeps :: p.tackQ q 0)
  | none => p

/-- A queue load leaves its queue without a token. -/
def Piece.dropQload (p : Piece) (id : Nat) : Piece :=
  { p with q := p.q.map fun kv => (kv.1, kv.2.filter fun e => !(e.rid == id && e.tok.isNone))
           qloads := p.qloads.filter fun q => q.id != id }

/-- The wait of S at a queue load is abandoned: its entry is given back (R165, R177). -/
def Piece.dropAwait (p : Piece) : Piece :=
  match p.await with
  | .qload id => p.dropQload id
  | _ => p

/-- Entry into the handler (R342), with S re-executing at `tpcs`. The popped tack has gone back already. A ROOT thread
stays at ROOT. An abandoned word is a new word instance when it is executed again: its wait may count a loss-of-decoupling
event once more (log 64, DESIGN CHOICE). A trap that finds S at a retired `s.end` keeps its address. -/
def Piece.enter (p : Piece) (r : TrapRec) (tpcs : W64) : Piece :=
  let p := p.dropAwait
  { p with
    sys := { p.sys with
      tcause := BitVec.ofNat 64 (r.code + r.unit * 256 + (if r.async then 2048 else 0))
      tpcs := tpcs
      tpcc := p.c.pc
      tpcm := p.m.pc
      tpcf := p.f.pc
      tval := r.val
      tloc := r.loc
      tstat := BitVec.ofNat 64 (p.level + 4)
      priv := if p.level < 1 then 1 else p.sys.priv }
    s := { p.s with pc := p.sys.tvec, issued := false, done := none, counted := false, slip := false, waitQ := false,
                    tdeps := [], tfrom := none, word := none, tackWait := none, ending := false,
                    atEnd := false, ended := if p.s.atEnd then some tpcs else none }
    pre := .none
    await := .none
    parked := false
    halted := p.halted || p.stepping
    stepping := false
    cur := some r }

/-- A trap raised by S itself: it is delivered at once; while a handler runs it is a double trap, which ends the
sequence as ACT 2 does and writes an error record (R343). -/
def State.trapS (s : State) (r : TrapRec) (tpcs : W64) : State :=
  let p := s.piece
  if p.active then
    State.err (s.setPiece { p with abort := some 2, s := { p.s with stopped := true } })
      { cls := 1, src := 1, code := 3, addr := tpcs.toNat, launch := s.launchWord p.launch,
        detail := r.code + r.unit * 256 + (if r.async then 2048 else 0) }
  else s.setPiece (p.enter r tpcs)

/-- A trap of any other unit of the piece: held until S takes it (R37, R343). -/
def Piece.raise (p : Piece) (r : TrapRec) : Piece := { p with traps := p.traps ++ [{ r with at_ := p.lastRun }] }

/-- The order in which the traps of one cycle are taken (R343): S, C, M, F, streams by descriptor, elements by y then x, hub. -/
def Piece.trapRank (p : Piece) (r : TrapRec) : Nat :=
  match r.unit with
  | 0 => 0
  | 1 => 1
  | 2 => 2
  | 3 => 3
  | 5 => 4 + (if r.slot < 64 then (SMap.get ({} : Stream) p.slots r.slot).sd else 16)
  | 4 => 100 + r.elem
  | _ => 1000

/-- The trap to take first: of those raised in the earliest cycle, the one that comes first in the order of R343. -/
def Piece.firstTrap (p : Piece) : Option Nat :=
  match p.traps with
  | [] => none
  | t :: ts =>
    let place (x : TrapRec) : Nat := 2048 * x.at_ + p.trapRank x
    let best := ts.foldl (fun b x => Nat.min b (place x)) (place t)
    firstIdx (fun x => place x == best) p.traps

/-- Delivers the first of the held traps (R342, R343). -/
def Piece.deliver (p : Piece) : Piece :=
  match p.firstTrap with
  | none => p
  | some i =>
    match p.traps[i]? with
    | none => p
    | some r => Piece.enter { p.abandon with traps := dropAt p.traps i } r p.spc

/-! ## Text words -/

/-- What the effect of a word comes to. -/
inductive Res where
  /-- Complete: the engine goes on at the next word. -/
  | done (s : State)
  /-- Complete: the engine goes on at an address. -/
  | jump (s : State) (pc : W64)
  /-- Not yet: the engine tries the word again; the state given holds what the wait changes. The wait is one that the
  watchdog counts: on a queue, a tack, a steer entry or a turn (R273). -/
  | wait (s : State)
  /-- Not yet, and the watchdog does not count the wait: on memory, a stream, a barrier or the hub (R273). -/
  | hold (s : State)
  /-- A trap before the effect: cause, TVAL, TLOC. -/
  | trap (s : State) (code : Nat) (val loc : W64)
  /-- A trap after the effect: ECALL and BREAK (R193), with TVAL. -/
  | call (s : State) (code : Nat) (val : W64)

/-- The 32 bits of a text word, as TVAL gives them (R144). -/
def wordOf (i : Instr) : W64 := BitVec.ofNat 64 ((encodeText i).getD 0)

/-- Prefixes a word accepts (R93, R147): 0 none, 1 `s.imx`, 2 `s.sem`. -/
def Prefix.fits (p : Prefix) (acc : Nat) : Bool :=
  match p with
  | .none => true
  | .imx _ _ => acc == 1
  | .sem _ _ _ _ _ => acc == 2

/-- The end of a word: its tack is given, or the engine waits at retirement for room (R24). -/
def Piece.retire (p : Piece) (e : Nat) (t : BitVec 4) (pc : W64) (carry : List Dep) : Piece :=
  let x := p.eng e
  if tackG t && 15 ≤ (p.tackQ e (tackP t)).length then p.setEng e { x with done := some pc, tackWait := some none }
  else
    let p := if tackG t then
        { p.setTackQ e (tackP t) (p.tackQ e (tackP t) ++ [carry]) with parkEv := p.parkEv || tackP t == 0 }
      else p
    let p := p.setEng e { x with pc := pc, issued := false, done := none, counted := false, slip := false
                                 waitQ := x.waitQ && 2 ≤ e, tdeps := [], tfrom := none, word := none, tackWait := none
                                 atEnd := x.ending, ending := false }
    if e = 0 then { p with pre := .none, relDeps := [], halted := p.halted || p.stepping, stepping := false } else p

/-- Where an engine goes on after a word (R215): the next word, or, at the end of a pass of a block that C or M repeats,
its first word. -/
def Piece.advance (p : Piece) (e : Nat) : Piece × W64 :=
  let x := p.eng e
  match (if e == 1 || e == 2 then x.rep else none) with
  | none => (p, x.pc + 4)
  | some (start, len, left, passes) =>
    if 1 < left then (p.setEng e { x with rep := some (start, len, left - 1, passes) }, x.pc + 4)
    else if 1 < passes then (p.setEng e { x with rep := some (start, len, len, passes - 1) }, start)
    else (p.setEng e { x with rep := none }, x.pc + 4)

/-- The orders a given tack hands over (R104): what the engine took over itself, what its S word is ordered after, and, for the
other engines, the writes that their accesses have observed. -/
def Piece.carry (p : Piece) (e : Nat) : List Dep :=
  (p.eng e).deps ++ (if e = 0 then p.relDeps else p.seenE.map fun w => { op := w, scope := 2, cum := true })

/-- A trap of a word of engine `e`: the popped tack goes back, then S enters its handler at once, and another engine
stops before its word and its trap is held. -/
def State.wordTrap (s : State) (e : Nat) (t : BitVec 4) (code : Nat) (val loc : W64) : State :=
  if e = 0 then
    let s := s.modPiece (·.unpop 0 t)
    s.trapS { code := code, unit := 0, async := false, val := val, loc := loc } s.piece.spc
  else
    s.modPiece fun p =>
      let p := p.unpop e t
      (p.setEng e { p.eng e with stopped := true }).raise { code := code, unit := e, async := false, val := val, loc := loc }

/-- A word whose effect is complete counts as issued (R201), after that effect (log 63, DEDUCED): one that is refused before issue,
or abandoned, does not. An M word is counted when it issues. -/
def Piece.countWord (p : Piece) (e : Nat) : Piece := if e = 2 then p else p.count (1 + e) 1

/-- Applies what the effect of a word came to. -/
def Res.apply (e : Nat) (t : BitVec 4) : Res → State
  | .done s => s.modPiece fun p =>
    let r := (p.countWord e).advance e
    r.1.retire e t r.2 (p.carry e)
  | .jump s pc => s.modPiece fun p => (p.countWord e).retire e t pc (p.carry e)
  | .wait s => s.modPiece fun p => { p with blocked := true }
  | .hold s => s
  | .trap s code val loc => s.wordTrap e t code val loc
  | .call s code val =>
    if tackG t && 15 ≤ (s.piece.tackQ e (tackP t)).length then
      s.modPiece fun p => p.setEng e { p.eng e with tackWait := some none }
    else
    let s := s.modPiece fun p => (p.countWord e).retire e t (p.s.pc + 4) (p.carry e)
    s.trapS { code := code, unit := 0, async := false, val := val, loc := 0 } s.piece.s.pc

/-- The W tack of a word: already popped or none needed, popped now, or not there (R24). A popped tack hands its orders
to the engine (R104). -/
def Piece.popTack (p : Piece) (e : Nat) (t : BitVec 4) : Option Piece :=
  let x := p.eng e
  if x.issued || !tackW t then some (p.setEng e { x with issued := true })
  else
    match p.tackQ (tackP t) e with
    | [] => none
    | d :: ds => some ((p.setTackQ (tackP t) e ds).setEng e
        { x with issued := true, tdeps := d, tfrom := some (tackP t), deps := x.deps ++ d })

/-- An M word that issues is counted (R201), once where a trap makes it issue again. -/
def Piece.countIssue (p : Piece) (e : Nat) : Piece :=
  if e = 2 && !p.m.counted then { p.count 3 1 with m := { p.m with counted := true } } else p

/-- Issues a text word of engine `e` on the acting piece (R24, R144). `acc` says which prefix the word accepts, `chk`
is the privilege check of step 7 (the cause it raises), `body` the effect. -/
def State.issue (s : State) (e : Nat) (i : Instr) (t : BitVec 4) (acc : Nat) (chk : Piece → Option Nat)
    (body : State → Res) : State :=
  let p := s.piece
  match (p.eng e).done with
  | some pc => s.setPiece (p.retire e t pc (p.carry e))
  | none =>
    if e = 0 && !p.pre.fits acc then s.wordTrap e t cILLEGAL (wordOf i) 0
    else
      match chk p with
      | some code => s.wordTrap e t code (wordOf i) 0
      | none =>
        match p.popTack e t with
        | none =>
          s.setPiece (p.setEng e { p.eng e with tackWait := some (some (tackP t)) })
        | some p1 =>
          let p2 := if (p.eng e).issued then p1 else { p1.countIssue e with moved := true }
          (body (s.setPiece p2)).apply e t

/-- Runs a text word: the acting piece must exist. -/
def State.runWord (s : State) (e : Nat) (i : Instr) (t : BitVec 4) (acc : Nat) (chk : Piece → Option Nat)
    (body : State → Res) : Host.Outcome State Fault Refusal :=
  if s.piece.live then .next (s.issue e i t acc chk body) else .fault .noPiece

/-- Step 5 of R144 where a field is checked against the piece: a word that fails raises ILLEGAL and pops no tack. -/
def State.step5 (s : State) (e : Nat) (i : Instr) (t : BitVec 4) (bad : Bool) (r : Host.Outcome State Fault Refusal) :
    Host.Outcome State Fault Refusal :=
  if s.piece.live && (s.piece.eng e).done.isNone && bad then .next (s.wordTrap e t cILLEGAL (wordOf i) 0) else r

/-- No privilege check. -/
def anyLevel (_ : Piece) : Option Nat := none
/-- SUPER or ROOT only (R144 step 7). -/
def superLevel (p : Piece) : Option Nat := if p.level = 0 then some cPRIV else none

/-- Refuses a value at run time (R168): ILLEGAL with TVAL holding the value. -/
def refuse (s : State) (v : W64) : Res := .trap s cILLEGAL v 0
/-- ILLEGAL with TVAL holding the word (R144). -/
def illegal (s : State) (i : Instr) : Res := .trap s cILLEGAL (wordOf i) 0

/-! ## Reading registers at issue -/

/-- What reading registers at issue comes to: ready, waiting for an earlier load, or poisoned (R164, R167). -/
inductive RegsRes where
  | ready
  | waits
  | poison (a : W64)

/-- Reads registers at issue in order. -/
def Piece.readRegs (p : Piece) : List (BitVec 5) → RegsRes
  | [] => .ready
  | r :: rs =>
    if p.busy r then .waits
    else match p.poisonOf r with
      | some a => .poison a
      | none => p.readRegs rs

/-- Runs the effect of an S word that reads the given registers. -/
def State.withRegs (s : State) (rs : List (BitVec 5)) (body : State → Res) : Res :=
  match s.piece.readRegs rs with
  | .ready => body s
  | .waits => .hold s
  | .poison a => .trap s cPOISON a 0

/-- Issues an S word that reads registers `rs`. -/
def State.runS (s : State) (i : Instr) (t : BitVec 4) (acc : Nat) (chk : Piece → Option Nat) (rs : List (BitVec 5))
    (body : State → Res) : Host.Outcome State Fault Refusal :=
  s.runWord 0 i t acc chk fun s => s.withRegs rs body

/-- Issues an S word whose only effect is a register write. -/
def State.runAlu (s : State) (i : Instr) (t : BitVec 4) (acc : Nat) (rs : List (BitVec 5)) (d : BitVec 5)
    (f : Piece → W64) : Host.Outcome State Fault Refusal :=
  s.runS i t acc anyLevel rs fun s => .done (s.modPiece fun p => p.setReg d (f p))

/-! ## The loop-nest table (R228) -/

/-- A level of the loop-nest table with one field written, or none where the value is refused (R191, R228). -/
def Level.put (l : Level) (f : Nat) (v : W64) : Option Level :=
  match f with
  | 0 => if 1 ≤ v.toNat && v.toNat ≤ 65536 then some { l with count := v.toNat } else none
  | 1 => if v.toNat < 2 then some { l with astr := v == 1 } else none
  | 2 => if v.toNat < 2 then some { l with bstr := v == 1 } else none
  | 3 => if -512 ≤ v.toInt && v.toInt ≤ 511 then some { l with cstr := v.toInt } else none
  | _ => if v.toNat < 16 then some { l with endA := v.toNat } else none

/-! ## Choices and free values -/

/-- Takes the next of the alternatives the manual permits; 0 where none is listed (log 4, DESIGN CHOICE). -/
def State.choose (s : State) : Nat × State :=
  match s.choices with
  | [] => (0, s)
  | c :: cs => (c, { s with choices := cs })

/-- Takes a number for a free value. -/
def State.takeFresh (s : State) : Nat × State := (s.fresh, { s with fresh := s.fresh + 1 })
/-- Takes a number for an operation. -/
def State.takeOp (s : State) : Nat × State := (s.opCount, { s with opCount := s.opCount + 1 })

end Sys2Proof.Machine
end

