-- ==== Sys2Proof/Machine/Flags.lean ====
section
/-! DEFINITION. The sticky flags of FPFLAGS (R122) and the loss-of-decoupling counters (R30, R31). -/

namespace Sys2Proof.Machine

/-- The groups of FPFLAGS (R122). -/
inductive FGroup where
  | matrix | fabric | convert
deriving DecidableEq, Repr

/-- The lowest bit of a group. -/
def FGroup.lo : FGroup → Nat
  | .matrix => 0
  | .fabric => 4
  | .convert => 8

/-- Sets flags of a group; they stay until software clears them (R122). -/
def Piece.flag (p : Piece) (g : FGroup) (f : FFlags) : Piece :=
  if f = 0 then p
  else
    let v : W64 := BitVec.ofNat 64 (f.toNat * 2 ^ g.lo)
    { p with sys := { p.sys with fpflags := p.sys.fpflags ||| v, flagsNow := p.sys.flagsNow ||| v } }

/-- The cases of R30. -/
inductive LodCase where
  | pop | slip | full | stuck
deriving DecidableEq, Repr

/-- The lowest bit of a case's LODEV field. -/
def LodCase.lo : LodCase → Nat
  | .pop => 0
  | .slip => 16
  | .full => 32
  | .stuck => 48

/-- Adds one to the 16-bit field of LODEV, saturating. -/
def lodevPlus (v : W64) (lo : Nat) : W64 :=
  if bits v.toNat lo 16 = 65535 then v else v + BitVec.ofNat 64 (2 ^ lo)

/-- Counts a loss-of-decoupling event, and raises LOD_LIMIT where R31 says so. -/
def Piece.lod (p : Piece) (c : LodCase) : Piece :=
  let old := p.sys.lodc.toNat % 2 ^ 32
  let new := if old = 2 ^ 32 - 1 then old else old + 1
  let lim := p.sys.lodlim.toNat % 2 ^ 32
  let p := { p with sys := { p.sys with lodc := BitVec.ofNat 64 new, lodev := lodevPlus p.sys.lodev c.lo } }
  let p := p.count 7 1
  if new = lim && lim != 0 && !p.sys.lodDone && bitAt p.sys.qtrap.toNat 49 then
    Piece.raise { p with sys := { p.sys with lodDone := true } } { code := cLOD_LIMIT, unit := 0, async := true, val := BitVec.ofNat 64 new, loc := 0 }
  else p

/-- Counts the Pop or Full event of a waiting S word once (R30). -/
def Piece.lodOnce (p : Piece) (c : LodCase) : Piece :=
  if p.s.counted then p else Piece.lod { p with s := { p.s with counted := true } } c

/-- Counts the Slip event of a waiting branch once. -/
def Piece.slipOnce (p : Piece) : Piece :=
  if p.s.slip then p else Piece.lod { p with s := { p.s with slip := true } } .slip

end Sys2Proof.Machine
end

