-- ==== Sys2Proof/Machine/Formats.lean ====
section
/-! DEFINITION. The storage formats (R125): Widen (R126), Narrow (R127), the storage additions (R128), the ec8 block code
(R129 to R132) and scales (R133). -/

namespace Sys2Proof.Machine

/-- Bits of an element of a format by its code (R125); ec8 elements are e4m3 bytes. -/
def fmtBits : Nat → Nat
  | 0 => 32 | 1 => 16 | 2 => 16 | 3 => 8 | 4 => 8 | 5 => 4 | 6 => 8 | 7 => 8 | 8 => 4 | 9 => 32 | 10 => 8
  | _ => 8

/-- Whether a code names a format (R125). -/
def fmtOk (f : Nat) : Bool := f ≤ 10
/-- Whether a format is an integer format. -/
def fmtInt (f : Nat) : Bool := f == 6 || f == 7 || f == 8 || f == 9
/-- Exponent bits of a floating format. -/
def fmtE : Nat → Nat
  | 0 => 8 | 1 => 5 | 2 => 8 | 4 => 5 | 5 => 2 | _ => 4
/-- Mantissa bits of a floating format. -/
def fmtM : Nat → Nat
  | 0 => 23 | 1 => 10 | 2 => 7 | 4 => 2 | 5 => 1 | _ => 3
/-- Exponent bias of a floating format. -/
def fmtBias : Nat → Nat
  | 0 => 127 | 1 => 15 | 2 => 127 | 4 => 15 | 5 => 1 | _ => 7
/-- Whether a floating format keeps the top exponent for infinities and NaNs. -/
def fmtIeee (f : Nat) : Bool := f == 0 || f == 1 || f == 2 || f == 4
/-- Whether the format is e4m3, raw or coded. -/
def fmtE4m3 (f : Nat) : Bool := f == 3 || f == 10

/-- The sign, exponent field and mantissa of an element of a floating format. -/
def fmtFields (f v : Nat) : Bool × Nat × Nat :=
  (bitAt v (fmtE f + fmtM f), bits v (fmtM f) (fmtE f), bits v 0 (fmtM f))

/-- The value of an element of a floating format (R125). -/
def fmtVal (f v : Nat) : WVal :=
  let (s, e, m) := fmtFields f v
  if fmtIeee f && e == 2 ^ fmtE f - 1 then (if m = 0 then .inf s else .nan s)
  else if fmtE4m3 f && e == 15 && m == 7 then .nan s
  else if e = 0 then
    if m = 0 then .zero s else .fin s m (1 - (fmtBias f : Int) - fmtM f)
  else .fin s (2 ^ fmtM f + m) ((e : Int) - fmtBias f - fmtM f)

/-- Widen (R126): a storage element as a lane. -/
def widen (f v : Nat) : Lane :=
  match f with
  | 6 => intLane (sgn 8 v)
  | 7 => intLane ((v % 256 : Nat) : Int)
  | 8 => intLane (sgn 4 v)
  | 9 => intLane (sgn 32 v)
  | _ => (roundVal (fmtVal f v)).1

/-- The bits of a floating element. -/
def fmtPack (f : Nat) (s : Bool) (e m : Nat) : Nat :=
  (if s then 2 ^ (fmtE f + fmtM f) else 0) + e * 2 ^ fmtM f + m

/-- Exponent field and mantissa of the largest finite value of a format. -/
def fmtMax (f : Nat) : Nat × Nat :=
  if fmtIeee f then (2 ^ fmtE f - 2, 2 ^ fmtM f - 1)
  else if fmtE4m3 f then (15, 6) else (3, 1)

/-- R127: a rounded value above the largest finite one. -/
def narrowOver (f : Nat) (s : Bool) : Nat × FFlags :=
  if fmtIeee f then (fmtPack f s (2 ^ fmtE f - 1) 0, flOF ||| flNX)
  else (fmtPack f s (fmtMax f).1 (fmtMax f).2, flOF ||| flNX)

/-- R127: rounding a finite nonzero value into a floating format. -/
def narrowFin (f : Nat) (s : Bool) (mag : Nat) (exp : Int) : Nat × FFlags :=
  let p := fmtM f
  let top : Int := exp + mag.log2
  let emin : Int := 1 - (fmtBias f : Int)
  let q : Int := (if top < emin then emin else top) - p
  let sh : Int := q - exp
  let r := if sh ≤ 0 then mag * 2 ^ (-sh).toNat else rne mag sh.toNat
  let exact := if sh ≤ 0 then true else mag % 2 ^ sh.toNat == 0
  let nx : FFlags := if exact then 0 else flNX
  if r < 2 ^ p then (fmtPack f s 0 r, if exact then 0 else flUF ||| flNX)
  else
    let carry := r == 2 ^ (p + 1)
    let m := if carry then 0 else r - 2 ^ p
    let e := (q + p + fmtBias f + (if carry then 1 else 0)).toNat
    if (fmtMax f).1 < e || (e == (fmtMax f).1 && (fmtMax f).2 < m) then narrowOver f s
    else (fmtPack f s e m, nx)

/-- Clamps an integer into a range, flagging as R127. -/
def narrowInt (lo hi v : Int) (n : Nat) : Nat × FFlags :=
  if v < lo then (lowBits n lo, flOF ||| flNX)
  else if hi < v then (lowBits n hi, flOF ||| flNX)
  else (lowBits n v, 0)

/-- Narrow (R127): a lane as a storage element. -/
def narrow (f : Nat) (x : Lane) : Nat × FFlags :=
  match f with
  | 6 => narrowInt (-128) 127 (laneInt x) 8
  | 7 => narrowInt 0 255 (laneInt x) 8
  | 8 => narrowInt (-8) 7 (laneInt x) 4
  | 9 => (laneWord x, 0)
  | _ =>
    match wifVal x with
    | .zero s => (fmtPack f s 0 0, 0)
    | .fin s m e => narrowFin f s m e
    | .inf s =>
      if fmtIeee f then (fmtPack f s (2 ^ fmtE f - 1) 0, 0)
      else if fmtE4m3 f then (fmtPack f s 15 7, flNV)
      else (fmtPack f s 3 1, flNV)
    | .nan s =>
      if fmtIeee f then (fmtPack f s (2 ^ fmtE f - 1) (2 ^ (fmtM f - 1)), 0)
      else if fmtE4m3 f then (fmtPack f s 15 7, 0)
      else (0, flNV)

/-- The sum of a storage element and a lane in a floating format (R128). -/
def storageFadd (f old : Nat) (v : Lane) : Nat × FFlags :=
  let a := wifAdd (widen f old) v
  let n := narrow f a.1
  (n.1, a.2 ||| n.2)

/-! ## ec8 -/

/-- Reads the unary part of a Rice code: the number of one bits before the zero bit. -/
def riceUnary : Nat → List Bool → Option (Nat × List Bool)
  | 0, _ => none
  | _, [] => none
  | n + 1, b :: bs => if b then (riceUnary n bs).map fun r => (r.1 + 1, r.2) else some (0, bs)

/-- Decodes one element code (R130): the e4m3 byte and the bits behind it. -/
def ec8Elem (emax k : Nat) (lossy : Bool) (bs : List Bool) : Option (Byte × List Bool) :=
  if bs.length < 4 then none
  else
    let s := ofBits (bs.take 1)
    let m := ofBits ((bs.drop 1).take 3)
    match riceUnary 32 (bs.drop 4) with
    | none => none
    | some (q, rest) =>
      if rest.length < k then none
      else
        let d := q * 2 ^ k + ofBits (rest.take k)
        let rest := rest.drop k
        if lossy then
          if 8 < d then none
          else if d = 8 then (if m = 0 then some (BitVec.ofNat 8 (s * 128), rest) else none)
          else if emax < d then none
          else
            let e := emax - d
            if e = 15 && m = 7 then none else some (BitVec.ofNat 8 (s * 128 + e * 8 + m), rest)
        else if emax < d then none
        else some (BitVec.ofNat 8 (s * 128 + (emax - d) * 8 + m), rest)

/-- Decodes `n` element codes. -/
def ec8Elems (emax k : Nat) (lossy : Bool) : Nat → List Bool → Option (List Byte × List Bool)
  | 0, bs => some ([], bs)
  | n + 1, bs =>
    match ec8Elem emax k lossy bs with
    | none => none
    | some (b, rest) => (ec8Elems emax k lossy n rest).map fun r => (b :: r.1, r.2)

/-- Whether `n` element codes are there in full, or end in a run of one bits that no valid code has. -/
def ec8Codes (k : Nat) : Nat → List Bool → Bool
  | 0, _ => true
  | n + 1, bs =>
    if bs.length < 4 then false
    else match riceUnary 32 (bs.drop 4) with
      | none => 20 ≤ bs.length
      | some (_, rest) => k ≤ rest.length && ec8Codes k n (rest.drop k)

/-- Whether a block is there in full, so that it can be decoded or refused. -/
def ec8Whole (bs : List Bool) : Bool :=
  8 ≤ bs.length &&
    (let h := ofBits (bs.take 8)
     match bits h 6 2 with
     | 0 => ec8Codes (bits h 4 2) 32 (bs.drop 8)
     | 1 => ec8Codes (bits h 4 2) 32 (bs.drop 8)
     | 2 => true
     | _ => bits h 0 6 != 0 || 264 ≤ bs.length)

/-- Decodes one ec8 block (R129, R130): 32 e4m3 bytes and the bits behind the block, or none where FORMAT is raised. -/
def ec8Block (bs : List Bool) : Option (List Byte × List Bool) :=
  if bs.length < 8 then none
  else
    let h := ofBits (bs.take 8)
    let emax := bits h 0 4
    let k := bits h 4 2
    let rest := bs.drop 8
    match bits h 6 2 with
    | 0 => ec8Elems emax k false 32 rest
    | 1 => ec8Elems emax k true 32 rest
    | 2 => if emax = 0 && k = 0 then some (List.replicate 32 0, rest) else none
    | _ =>
      if emax = 0 && k = 0 && 256 ≤ rest.length then some (bytesOf 32 (ofBits (rest.take 256)), rest.drop 256)
      else none

/-- The code of one element (R130). -/
def ec8Code (emax k : Nat) (lossy : Bool) (v : Nat) : List Bool :=
  let d0 := emax - bits v 3 4
  let gone := lossy && 8 ≤ d0
  let d := if gone then 8 else d0
  bitsOf 1 (v / 128) ++ bitsOf 3 (if gone then 0 else v % 8) ++ List.replicate (d / 2 ^ k) true ++ [false]
    ++ bitsOf k (d % 2 ^ k)

/-- A block coded with parameter `k`. -/
def ec8With (emax k : Nat) (lossy : Bool) (vs : List Nat) : List Bool :=
  bitsOf 8 (emax + 16 * k + (if lossy then 64 else 0)) ++ (vs.map (ec8Code emax k lossy)).flatten

/-- The shorter of two codes, the first on a tie. -/
def shorter (a b : List Bool) : List Bool := if b.length < a.length then b else a

/-- Codes a block of 32 e4m3 elements (R131). -/
def ec8Encode (lossy : Bool) (blk : List Byte) : List Bool :=
  let vs := blk.map (·.toNat)
  if vs.all (· == 0) then bitsOf 8 0x80
  else
    let emax := (vs.map fun v => bits v 3 4).foldl Nat.max 0
    let c := shorter (shorter (shorter (ec8With emax 0 lossy vs) (ec8With emax 1 lossy vs)) (ec8With emax 2 lossy vs))
      (ec8With emax 3 lossy vs)
    if 264 < c.length then bitsOf 8 0xC0 ++ bitsOfBytes blk else c

/-! ## Scales (R133) -/

/-- A lane times an fp32 scale, rounded once; 1.0 is exact and skips the rounding. -/
def scaleLane (x : Lane) (scale : Word32) : Lane × FFlags :=
  if scale = 0x3F800000 then (x, 0) else wifMul x (widen 0 scale.toNat)

/-- A storage element taken in by an address generator: widened and scaled. -/
def scaleIn (f v : Nat) (scale : Word32) : Lane × FFlags := scaleLane (widen f v) scale

/-- A lane stored by an address generator: scaled and narrowed. -/
def scaleOut (f : Nat) (x : Lane) (scale : Word32) : Nat × FFlags :=
  let a := scaleLane x scale
  let n := narrow f a.1
  (n.1, a.2 ||| n.2)

end Sys2Proof.Machine
end

