-- ==== Sys2Proof/Machine/Operands.lean ====
section
/-! DEFINITION. The operand forms: immediates and their prefix (R146, R147, R149), tokens and their fields (R179, R233),
operand selectors (R152), and the ordering and scope of a memory word (R92, R93). -/

namespace Sys2Proof.Machine

/-! ## Immediates -/

/-- The 20 bits of a pending `s.imx`, where there is one. -/
def Piece.hi20 (p : Piece) : Option Nat :=
  match p.pre with
  | .imx h _ => some h.toNat
  | _ => none

/-- The sign-extended immediate, alone or combined with `s.imx` (R146, R147). -/
def Piece.simm (p : Piece) (i : BitVec 10) : W64 :=
  match p.hi20 with
  | none => BitVec.ofInt 64 (sgn 10 i.toNat)
  | some h => BitVec.ofInt 64 (sgn 30 (h * 1024 + i.toNat))

/-- The zero-extended immediate. -/
def Piece.uimm (p : Piece) (i : BitVec 10) : W64 :=
  match p.hi20 with
  | none => BitVec.ofNat 64 i.toNat
  | some h => BitVec.ofNat 64 (h * 1024 + i.toNat)

/-- The width of a bit field (R149): by its code, or from the prefix for code 7. -/
def Piece.fieldWidth (p : Piece) (w : BitVec 3) : Nat :=
  if w = 7 then
    match p.hi20 with
    | none => 1
    | some h => h % 64 + 1
  else 2 ^ w.toNat

/-- The reserved bits of a prefix before `s.bfx` or `s.bfi` (R149): bits [29:16] with code 7, else all of it. -/
def Piece.fieldPrefix (w : BitVec 3) (p : Piece) : Option Nat :=
  match p.hi20 with
  | none => none
  | some h => if w = 7 then (if h / 64 = 0 then none else some cILLEGAL) else (if h = 0 then none else some cILLEGAL)

/-! ## Tokens -/

/-- Codes of the token kinds (R233). -/
def TokKind.code : TokKind → Nat
  | .data => 0
  | .sparse => 1
  | .hem => 2
  | .turn => 3
  | .kset => 4
  | .control => 5

/-- A lane of a token by its number. -/
def Token.lane (t : Token) (i : Nat) : LaneV := nth {} t.lanes i
/-- The validity mask. -/
def Token.mask (t : Token) : Nat := ofBits (tab 16 fun i => (t.lane i).valid)
/-- Whether a token carries values: data or sparse. -/
def Token.isData (t : Token) : Bool := t.kind == .data || t.kind == .sparse

/-- Sixteen invalid lanes. -/
def noLanes : List LaneV := List.replicate 16 {}
/-- A data token of valid lanes, filled up with invalid ones. -/
def dataTok (vs : List Lane) : Token :=
  { kind := .data, lanes := tab 16 fun i => if i < vs.length then { valid := true, val := nth 0 vs i } else {} }
/-- A hem token of a level. -/
def hemTok (l : Nat) : Token := { kind := .hem, level := BitVec.ofNat 3 l, lanes := noLanes }
/-- A token with lane 0 alone. -/
def lane0Tok (k : TokKind) (v : Lane) : Token :=
  { kind := k, lanes := { valid := true, val := v } :: List.replicate 15 {} }

/-- A lane read as an S register value: sign-extended from bit 39 (R179). -/
def laneReg (v : Lane) : W64 := BitVec.ofInt 64 (sgn 40 v.toNat)
/-- The lane of a register: bits [39:0]. -/
def regLane (v : W64) : Lane := BitVec.ofNat 40 v.toNat

/-- Field (R179): a value lane, a coordinate lane or the status of a token. -/
def Token.field (t : Token) (sel : Nat) : W64 :=
  if sel < 16 then laneReg (t.lane sel).val
  else if sel < 32 then BitVec.ofNat 64 (t.lane (sel - 16)).coord.toNat
  else BitVec.ofNat 64 (t.mask + t.kind.code * 2 ^ 16 + t.level.toNat * 2 ^ 20 + t.tag.toNat * 2 ^ 32)

/-! ## Operand selectors (R152) -/

/-- What an operand selector names. -/
inductive Sel where
  | q (n : Nat)
  | y (n : Nat)
  | l (n : Nat)
  | ep (n : Nat)
deriving DecidableEq, Repr

/-- Decodes a selector. -/
def selOf (x : BitVec 10) : Sel :=
  match x.toNat / 256 with
  | 0 => .q (x.toNat % 32)
  | 1 => .y (x.toNat % 16)
  | 2 => .l (x.toNat % 256)
  | _ => .ep (x.toNat % 64)

/-- QFMT of a q queue of the piece's launch (R44). -/
def State.qfmt (s : State) (q : Nat) : Nat := bits (dword (s.launch s.piece.launch).image 7) (2 * q) 2

/-- Word `i` of the launch record of the acting piece (R44). -/
def State.recWord (s : State) (i : Nat) : Nat := dword (s.launch s.piece.launch).image i
/-- The trust domain of the acting piece's launch. -/
def State.domain (s : State) : Nat := bits (s.recWord 10) 0 4

/-! ## Ordering and scope of a memory word -/

/-- The ordering, scope and prefix knots of an S memory word (R92, R93). -/
structure OrdScope where
  ord   : Nat
  scope : Nat
  kw    : Nat := 0
  kt    : Nat := 0
deriving DecidableEq, Repr

/-- From the pending `s.sem`, or from SEM. -/
def Piece.ordScope (p : Piece) : OrdScope :=
  match p.pre with
  | .sem o sc kw kt _ => { ord := o.toNat, scope := sc.toNat, kw := kw.toNat, kt := kt.toNat }
  | _ => { ord := bits p.sys.sem.toNat 0 2, scope := bits p.sys.sem.toNat 2 3 }

/-- Whether an ordering acquires. -/
def isAcq (o : Nat) : Bool := o == 1 || o == 3
/-- Whether an ordering releases. -/
def isRel (o : Nat) : Bool := o == 2 || o == 3

/-- R93: a word whose own kt and prefix kt are both nonzero and differ is ILLEGAL. -/
def Piece.ktClash (kt : BitVec 3) (p : Piece) : Option Nat :=
  let x := p.ordScope.kt
  if x != 0 && kt != 0 && x != kt.toNat then some cILLEGAL else none

end Sys2Proof.Machine
end

