-- ==== Sys2Proof/Machine/Xlate.lean ====
section
/-! DEFINITION. Addresses: the vault windows (R69, R79), the four-level walk and its caches (R72 to R75), page classes
and walls (R76 to R78), turned buffers (R87), the checks of an access (R166) and instruction fetch (R17). -/

namespace Sys2Proof.Machine

/-! ## What an access is -/

/-- How an access treats a turned page (R87, R166, R206): refused, resolved to the face, resolved to the lining where
the page is turned and refused elsewhere, or resolved to the lining where it is turned. -/
inductive TurnedUse where
  | refuse | face | liningOnly | lining
deriving DecidableEq, Repr

/-- What the checks need to know of an access. -/
structure Acc where
  write  : Bool
  text   : Bool := false
  ver    : Bool := false              -- reaches versioned pages, and only those
  turned : TurnedUse := .refuse
  stack  : Bool := false              -- may reach the stack window (R79)
  hub    : Bool := false              -- may reach the hub register window (R68)
  host   : Bool := true               -- may reach host windows
  ag     : Bool := false              -- made by an address generator
deriving DecidableEq, Repr

/-- What checking an address comes to. -/
inductive Adr where
  /-- A place: the vault space or physical memory, the address, the PTE's KEY, the turn entry whose lining it is, and, for
  the face of a turned page, its entry and the place in the buffer. -/
  | place (s : State) (vault : Bool) (addr key : Nat) (lining : Option Nat) (face : Option (Nat × Nat))
  /-- The hub holds the access until a turn has been made (R112). -/
  | held (s : State)
  /-- A trap cause with its TLOC; TVAL is the address formed. -/
  | bad (s : State) (code : Nat) (tloc : W64)

/-! ## Vault windows -/

/-- Whether an address is a vault address (R65). -/
def isVaultAddr (a : W64) : Bool := a.toNat / 2 ^ 31 == 0x1FC000000
/-- The vault address of an aperture address. -/
def vaultOf (a : W64) : Nat := a.toNat % 2 ^ 31
/-- The aperture address of a vault address. -/
def apertureOf (v : Nat) : W64 := BitVec.ofNat 64 (0xFE00000000000000 + v)

/-- BASE and SIZE of a window register, in bytes. -/
def winRange (w : W64) : Nat × Nat := (bits w.toNat 16 15 * 65536, bits w.toNat 31 11 * 65536)

/-- The stack window of a piece (R79): base and size. -/
def Piece.stackWin (p : Piece) : Nat × Nat :=
  let n := p.sys.stack.toNat % 65536 * 4096
  (p.vbase + p.vunits * 65536 - n, n)

/-- Whether a range lies in a window. -/
def inRange (r : Nat × Nat) (v n : Nat) : Bool := decide (r.1 ≤ v) && decide (v + n ≤ r.1 + r.2)
/-- Whether a range overlaps a window. -/
def touches (r : Nat × Nat) (v n : Nat) : Bool := decide (v < r.1 + r.2) && decide (r.1 < v + n)

/-- Whether VWIN `w` admits an access. -/
def winAdmits (w : W64) (v n : Nat) (write : Bool) : Bool :=
  bitAt w.toNat 0 && (!write || bitAt w.toNat 1) && inRange (winRange w) v n

/-- R69 and R79: the access lies in one window that permits it, and touches no stack window it may not reach. -/
def State.inWindow (s : State) (v n : Nat) (a : Acc) : Bool :=
  let p := s.piece
  (inRange (p.vbase, p.vunits * 65536) v n || (tab 4 fun i => SMap.get 0 p.sys.vwin i).any fun w => winAdmits w v n a.write)
    && s.pieces.all fun kv => !kv.2.live || !touches kv.2.stackWin v n || (kv.1 == s.focusP && a.stack)

/-! ## Page table entries (R73) -/

/-- V. -/
def pteV (e : Nat) : Bool := bitAt e 0
/-- LEAF. -/
def pteLeaf (e : Nat) : Bool := bitAt e 4
/-- CLASS. -/
def pteClass (e : Nat) : Nat := bits e 5 3
/-- KEY. -/
def pteKey (e : Nat) : Nat := bits e 8 4
/-- PPN. -/
def ptePpn (e : Nat) : Nat := bits e 16 44
/-- Whether a bit reserved at this level is set (R73). -/
def pteReserved (e level : Nat) : Bool :=
  bits e 60 4 != 0 ||
    (if pteLeaf e then level != 0 && bitAt e 15
     else bits e 1 3 != 0 || bits e 5 11 != 0)
/-- The size of a page in bits. -/
def pageBits (level e : Nat) : Nat :=
  match level with
  | 0 => if bitAt e 15 then 16 else 12
  | 1 => 21
  | _ => 30

/-- Permissions, classes and the place of a leaf (R74). -/
def leafOk (e level : Nat) (a : Acc) : Bool :=
  level != 3
    && !((level == 2 && ptePpn e % 2 ^ 18 != 0) || (level == 1 && ptePpn e % 2 ^ 9 != 0)
      || (level == 0 && bitAt e 15 && ptePpn e % 16 != 0))
    && pteClass e ≤ 4 && !(bitAt e 2 && !bitAt e 1)
    && (if a.text then bitAt e 3 else if a.write then bitAt e 2 else bitAt e 1)

/-- What a walk comes to: a leaf entry with its level and address, or a cause with its TLOC. -/
inductive WalkRes where
  | leaf (s : State) (pte level adr : Nat)
  | bad (s : State) (code : Nat) (tloc : W64)

/-- Whether the walk may read a table entry at a physical address: a general granule of local DRAM or LPDDR6 (R78). -/
def State.tableOk (s : State) (pa : Nat) : Bool :=
  pa / 2 ^ 45 == s.hub.pkg.toNat && s.inMem (pa % 2 ^ 45) && s.wallKind (pa % 2 ^ 45) == 0

/-- What one level of a walk comes to: the end of the walk, or the table of the next level down. -/
inductive WalkStep where
  | stop (r : WalkRes)
  | down (s : State) (table : Nat)

/-- One level of the walk of R74. -/
def State.walkStep (s : State) (va : Nat) (a : Acc) (level table : Nat) : WalkStep :=
  let idx := if level = 3 then bits va 39 18 else bits va (12 + 9 * level) 9
  let pa := table + 8 * idx
  if !s.tableOk pa then .stop (.bad s cWALL 0)
  else
    let la := pa % 2 ^ 45
    let s := s.detect false la 8
    let r := s.read false la 8
    let e := ofBytes r.data
    if r.pois then .stop (.bad s cPOISON (BitVec.ofNat 64 la))
    else if r.integ.isSome then .stop (.bad s cINTEGRITY (BitVec.ofNat 64 (s.fullPa la + s.protKey la * 2 ^ 56)))
    else if !pteV e then .stop (.bad s cPAGE_ABSENT 0)
    else if pteReserved e level then .stop (.bad s cPAGE_PROT 0)
    else if pteLeaf e then .stop (if leafOk e level a then .leaf s e level la else .bad s cPAGE_PROT 0)
    else .down s (ptePpn e * 4096)

/-- The walk of R74 from a level down. -/
def State.walk (va : Nat) (a : Acc) : Nat → Nat → State → WalkRes
  | 0, table, s =>
    match s.walkStep va a 0 table with
    | .stop r => r
    | .down s _ => .bad s cPAGE_PROT 0
  | l + 1, table, s =>
    match s.walkStep va a (l + 1) table with
    | .stop r => r
    | .down s t => State.walk va a l t s

/-! ## Walls and classes -/

/-- The launch row of R78: the page's class and KEY for a model or a tool launch of a domain. -/
def classOk (tool : Bool) (d cls key : Nat) : Bool :=
  match cls with
  | 1 => !tool && key == d
  | 2 => tool && key == d
  | _ => key == d || key == 0

/-- The granule of local memory an access reaches, for a page class (R78). -/
def granuleOk (tool : Bool) (d cls kind dom : Nat) : Bool :=
  match kind with
  | 0 => true
  | 1 => !tool && cls == 1 && dom == d
  | 2 => tool && cls == 2 && dom == d
  | _ => false

/-- Whether a launch of the domain may reach a local physical address through a page of a class (R66 to R68, R78). -/
def State.localOk (s : State) (cls key pa : Nat) (a : Acc) : Bool :=
  if s.inMem pa then granuleOk (s.keyDom s.domain).tool s.domain cls (s.wallKind pa) (s.wallDom pa)
  else if inHubWin pa then a.hub && cls == 0 && key == 0 && s.piece.level != 0
  else match s.hostWin pa with
    | some _ => a.host && cls != 3 && cls != 4
    | none => false

/-- A turn table entry (R87). -/
def State.turnEnt (s : State) (n : Nat) : TurnEntry := SMap.get {} s.hub.turns n
/-- Replaces a turn table entry. -/
def State.setTurnEnt (s : State) (n : Nat) (x : TurnEntry) : State :=
  { s with hub := { s.hub with turns := s.hub.turns.insert n x } }

/-- The memory binding of the acting piece's sequence to a package (R67, R286): its pair, and whether it is lost. -/
def State.memBinding (s : State) (pkg : Nat) : Option (Nat × Bool) :=
  ((s.launch s.piece.launch).binds.find? fun b => !b.die && b.mem && b.seq == s.piece.seqPos && b.peer == pkg).map
    fun b => (b.pair, b.lost)

/-- Marks A, and D on a write, in a page table entry (R74). -/
def State.markPte (s : State) (e adr : Nat) (write : Bool) : State :=
  if bitAt e 13 && (!write || bitAt e 14) then s
  else s.hubWrite adr (bytesOf 8 (putBits (if write then putBits e 14 1 1 else e) 13 1 1))

/-- Whether a backing of a turned page may be reached: a local one lies in a general granule (R78). -/
def State.backingOk (s : State) (bp : Nat) : Bool :=
  bp / 2 ^ 45 != s.hub.pkg.toNat || (s.inMem (bp % 2 ^ 45) && s.wallKind (bp % 2 ^ 45) == 0)
/-- Whether a physical address is local, or the acting piece holds a memory binding to its package (R67). -/
def State.reaches (s : State) (pa : Nat) : Bool := pa / 2 ^ 45 == s.hub.pkg.toNat || (s.memBinding (pa / 2 ^ 45)).isSome

/-- The checks of R74 from WallCheck on, for a leaf entry, whether walked or cached, and the physical address; that of the
binding of a remote page comes last (R166). The page index of a turned leaf larger than 4 KiB is that of its PPN plus the number
of the 4 KiB page within it (log 68, DEDUCED). -/
def State.checkLeaf (s : State) (va e level adr : Nat) (a : Acc) : Adr :=
  let n := pageBits level e
  let cls := pteClass e
  let key := pteKey e
  let pa := ptePpn e * 4096 + va % 2 ^ n
  let tool := (s.keyDom s.domain).tool
  if !classOk tool s.domain cls key then .bad s cWALL 0
  else if cls = 4 then
    let i := ptePpn e % 1024
    let idx := ptePpn e / 1024 + va % 2 ^ n / 4096
    let t := s.turnEnt i
    match a.turned with
    | .refuse => .bad s cPAGE_PROT 0
    | use =>
      if !t.v || t.pages ≤ idx then .bad s cPAGE_PROT 0
      else if t.dom != s.domain then .bad s cWALL 0
      else
        let b := if (use == .face) == t.sel then t.b1 else t.b0
        let bp := b.toNat + 4096 * idx + va % 4096
        if !s.backingOk bp then .bad s cWALL 0
        else if bitAt e 12 then .bad s cPAGE_MOVING 0
        else if !t.wait.isEmpty then .held s
        else
          let s := s.markPte e adr a.write
          if !s.reaches bp then .bad s cWALL 0
          else if use == .face then .place s false bp key none (some (i, 4096 * idx + va % 4096))
          else .place s false bp key (some i) none
  else if pa / 2 ^ 45 = s.hub.pkg.toNat && !s.localOk cls key (pa % 2 ^ 45) a then .bad s cWALL 0
  else if (cls == 3) != a.ver then .bad s cPAGE_PROT 0
  else if cls = 3 && pa / 2 ^ 45 = s.hub.pkg.toNat && s.wallKind (pa % 2 ^ 45) != 0 then .bad s cWALL 0
  else if a.turned == .liningOnly then .bad s cPAGE_PROT 0
  else if bitAt e 12 then .bad s cPAGE_MOVING 0
  else
    let s := s.markPte e adr a.write
    if s.reaches pa then .place s false pa key none none else .bad s cWALL 0

/-! ## Translation caches (R10, R75, log 12, DESIGN CHOICE) -/

/-- The bay whose caches the acting piece uses, 8 * panel + bay. -/
def State.bayKey (s : State) : Nat := 8 * s.piece.panel + s.piece.bay
/-- A cache of the acting piece's bay: that of one of its 16 address generators, or the bay's own. -/
def State.tlb (s : State) (gen : Option Nat) : List TlbEntry :=
  match gen with
  | some g => SMap.get [] s.hub.gtlbs (16 * s.bayKey + g)
  | none => SMap.get [] s.hub.tlbs s.bayKey
/-- ASID of the thread. -/
def State.asid (s : State) : Nat := s.piece.sys.troot.toNat % 65536
/-- Whether an entry translates an address. -/
def TlbEntry.hits (t : TlbEntry) (asid va : Nat) : Bool := t.asid == asid && va / 2 ^ t.bits == t.vpn
/-- The level of a cached entry by its page size. -/
def levelOfBits (b : Nat) : Nat := if b = 30 then 2 else if b = 21 then 1 else 0

/-- Replaces the entries of a cache. -/
def State.setTlb (s : State) (gen : Option Nat) (l : List TlbEntry) : State :=
  match gen with
  | some g => { s with hub := { s.hub with gtlbs := s.hub.gtlbs.insert (16 * s.bayKey + g) l } }
  | none => { s with hub := { s.hub with tlbs := s.hub.tlbs.insert s.bayKey l } }
/-- Keeps an entry; the oldest leaves a cache that is full: 64 entries, or 4,096 (R10, R75). -/
def State.keepEntry (s : State) (gen : Option Nat) (t : TlbEntry) : State :=
  s.setTlb gen ((t :: s.tlb gen).take (if gen.isSome then 64 else 4096))

/-- A leaf entry of one cache, if the part uses one: the choice names which of the matching entries, or none (log 12, DESIGN CHOICE). An
entry with D clear is walked again on a write; one that fails its parity check is dropped and reported (R9, R360). -/
def State.lookup (s : State) (gen : Option Nat) (va : Nat) (a : Acc) : Option TlbEntry × State :=
  let hits := (s.tlb gen).filter fun t => t.hits s.asid va
  match hits with
  | [] => (none, s)
  | _ =>
    let (c, s) := s.choose
    match hits[c]? with
    | none => (none, s)
    | some t =>
      if t.bad then
        let s := s.setTlb gen ((s.tlb gen).filter fun x => x != t)
        (none, s.err { cls := 0, src := 2, code := 1, loc := errLoc s.piece.panel s.piece.bay (gen.getD 0) 0, addr := t.ptea })
      else if a.write && !bitAt t.pte.toNat 14 then (none, s)
      else (some t, s)

/-- A cached leaf entry. An address generator looks in its own cache, whose misses are counted, and then in its bay's, from which it
takes the entry over; the access core looks in its bay's (R10, R201). -/
def State.cached (s : State) (gen : Option Nat) (va : Nat) (a : Acc) : Option TlbEntry × State :=
  match gen with
  | none => s.lookup none va a
  | some g =>
    match s.lookup (some g) va a with
    | (some t, s) => (some t, s)
    | (none, s) =>
      match (s.modPiece (·.count 14 1)).lookup none va a with
      | (some t, s) => (some t, s.keepEntry (some g) t)
      | (none, s) => (none, s)

/-- Keeps a walked leaf entry, in the bay's cache and that of the address generator that asked for it. -/
def State.keepTlb (s : State) (gen : Option Nat) (va e level adr : Nat) (write : Bool) : State :=
  let n := pageBits level e
  let t : TlbEntry := { asid := s.asid, vpn := va / 2 ^ n, bits := n,
                        pte := BitVec.ofNat 64 (putBits (if write then putBits e 14 1 1 else e) 13 1 1), ptea := adr }
  let s := s.keepEntry none t
  if gen.isSome then s.keepEntry gen t else s

/-- A leaf a walk found is checked, and kept where it lets the access through (R74). -/
def State.checkKeep (s : State) (gen : Option Nat) (va e level adr : Nat) (a : Acc) : Adr :=
  match s.checkLeaf va e level adr a with
  | .place s v pa key l f => .place (s.keepTlb gen va e level adr a.write) v pa key l f
  | r => r

/-- What a finished walk gives. -/
def WalkRes.adr (r : WalkRes) (gen : Option Nat) (va : Nat) (a : Acc) : Adr :=
  match r with
  | .bad s c l => .bad s c l
  | .leaf s e level adr => s.checkKeep gen va e level adr a

/-- The address TROOT names. -/
def State.rootAdr (s : State) : Nat := bits s.piece.sys.troot.toNat 21 35 * 2 ^ 21

/-- The address generator of the bay that makes an access, as the next choice says (log 12, DESIGN CHOICE): none where S makes it. -/
def State.chooseGen (s : State) (a : Acc) : Option Nat × State :=
  if a.ag then
    let (c, s) := s.choose
    (some (c % 16), s)
  else (none, s)

/-- Translate (R74) of a canonical virtual address. -/
def State.translate (s : State) (va : Nat) (a : Acc) : Adr :=
  let (gen, s) := s.chooseGen a
  match s.cached gen va a with
  | (some t, s) =>
    if leafOk t.pte.toNat (levelOfBits t.bits) a then s.checkLeaf va t.pte.toNat (levelOfBits t.bits) t.ptea a
    else .bad s cPAGE_PROT 0
  | (none, s) =>
    let s := s.modPiece (·.count 15 1)
    (State.walk va a 3 s.rootAdr s).adr gen va a

/-- CheckAddress (R166). -/
def State.checkAddr (s : State) (adr : W64) (size : Nat) (a : Acc) : Adr :=
  if adr.toNat % size != 0 then .bad s cMISALIGN 0
  else if isVaultAddr adr then
    if a.text then .bad s cPAGE_PROT 0
    else if !s.inWindow (vaultOf adr) size a then .bad s cVAULT_BOUND 0
    else if a.ver || a.turned == .liningOnly then .bad s cPAGE_PROT 0
    else .place s true (vaultOf adr) 0 none none
  else if adr.toNat / 2 ^ 57 != 0 then .bad s cPAGE_ABSENT 0
  else s.translate adr.toNat a

/-! ## Instruction fetch (R17) -/

/-- What fetching a text word comes to. -/
inductive FetchRes where
  | word (s : State) (w : Nat)
  | bad (s : State) (code : Nat) (tloc : W64)

/-- Fetches the word at an address of the acting piece's text. -/
def State.fetch (s : State) (pc : W64) : FetchRes :=
  match s.checkAddr pc 4 { write := false, text := true, host := false } with
  | .bad s c l => .bad s c l
  | .held s => .bad s cPAGE_PROT 0
  | .place s v pa _ _ _ =>
    if !v && pa / 2 ^ 45 != s.hub.pkg.toNat then .bad s cWALL 0
    else
    let la := pa % 2 ^ 45
    let s := s.detect v la 4
    let r := s.read v la 4
    if r.pois then .bad s cPOISON 0
    else match r.integ with
      | some l => .bad s cINTEGRITY (BitVec.ofNat 64 (s.fullPa l + s.protKey l * 2 ^ 56))
      | none => .word s (ofBytes r.data)

end Sys2Proof.Machine
end

