-- ==== Sys2Proof/Machine/HubRegs.lean ====
section
/-! DEFINITION. The hub register window (R3, R4, R68): what each offset reads, which agent may write it, and what a
write sets. Registers whose write starts something of its own are in the files of those steps. -/

namespace Sys2Proof.Machine

/-- Whether fields filled from fuses read their value: SVC has read other than 0 (R4). -/
def Hub.fusesUp (h : Hub) : Bool := h.fused || h.svc != 0

/-- IDENT (R13). -/
def Hub.ident (h : Hub) : W64 :=
  BitVec.ofNat 64 (0x52D1 + 0x4160 * 2 ^ 16 + (if h.fusesUp then h.form.toNat * 2 ^ 32 + h.step.toNat * 2 ^ 44 else 0)
    + h.lpcap.toNat * 2 ^ 36)

/-- A launch queue's registers. -/
def State.lqOf (s : State) (n : Nat) : LQueue := SMap.get {} s.hub.lq n
/-- Replaces a launch queue's registers. -/
def State.setLq (s : State) (n : Nat) (x : LQueue) : State := { s with hub := { s.hub with lq := s.hub.lq.insert n x } }

/-- LQCFG (R39). -/
def LQueue.cfg (q : LQueue) : Nat :=
  q.size + q.pmax * 16 + q.src * 128 + q.dom * 512 + (if q.en then 2 ^ 13 else 0) + (if q.rootq then 2 ^ 14 else 0)
/-- LQSTAT (R39). -/
def LQueue.stat (q : LQueue) : Nat :=
  (if q.ovr then 1 else 0) + (if q.rej then 2 else 0) + (if q.srcerr then 4 else 0) + q.lasterr.toNat * 256

/-- A pair of lane groups. -/
def State.pairOf (s : State) (n : Nat) : Pair := SMap.get {} s.links.pairs n
/-- Replaces a pair. -/
def State.setPair (s : State) (n : Nat) (x : Pair) : State :=
  { s with links := { s.links with pairs := s.links.pairs.insert n x } }
/-- A lane of a port. -/
def State.laneOf (s : State) (port lane : Nat) : LaneSt := SMap.get {} s.links.lanes (16 * port + lane)
/-- Replaces a lane. -/
def State.setLane (s : State) (port lane : Nat) (x : LaneSt) : State :=
  { s with links := { s.links with lanes := s.links.lanes.insert (16 * port + lane) x } }

/-- LNKSTAT of a port (R276). -/
def State.lnkstat (s : State) (port : Nat) : Nat :=
  if s.hub.svc.toNat % 4 = 1 then 0
  else
    ofBits (tab 16 fun i => (s.laneOf port i).out) + ofBits (tab 16 fun i => (s.laneOf port i).up) * 2 ^ 16
      + ((List.range 4).foldl (fun n g => n + (s.pairOf (4 * port + g)).gout % 4 * 2 ^ (32 + 2 * g)
          + (s.pairOf (4 * port + g)).gin % 4 * 2 ^ (40 + 2 * g)
          + (if (s.pairOf (4 * port + g)).bound then 2 ^ (48 + g) else 0)) 0)
      + Nat.min (SMap.get 0 s.links.replays port) 4095 * 2 ^ 52

/-- Unpicked cores (R388): whether core (row, column) of a panel is unpicked. -/
def Hub.unpicked (h : Hub) (panel row col : Nat) : Bool := SMap.get false h.unpick ((panel * 8 + row) * 16 + col)

/-- UNPICKMAP, half `i` counted over the panels. -/
def Hub.unpickmap (h : Hub) (i : Nat) : Nat :=
  if h.fusesUp then ofBits (tab 64 fun k => h.unpicked (i / 2) (4 * (i % 2) + k / 16) (k % 16)) else 0

/-- Free units of the save pool, saturating (R348). -/
def Hub.saveFree (h : Hub) : Nat := Nat.min (h.saveunits - h.saves.foldl (fun n a => n + a.2) 0) 65535

/-- SECSTAT (R301). -/
def Hub.secstat (h : Hub) : Nat :=
  (if h.fusesUp then h.lc.toNat else 0) + h.dbg.toNat * 4
    + ofBits (tab 16 fun d => (SMap.get ({} : KeyDom) h.keys d).prov) * 16 + h.dstat.toNat * 2 ^ 20

/-- A move entry (R363). -/
def Hub.mov (h : Hub) (i : Nat) : MovEntry := SMap.get {} h.movs i

/-- A doubleword of a turn table entry (R87). -/
def turnWord (t : TurnEntry) (i : Nat) : Nat :=
  match i with
  | 0 => (if t.v then 1 else 0) + (if t.sel then 2 else 0) + t.dom % 16 * 4 + t.pages % 2 ^ 20 * 2 ^ 16
  | 1 => t.b0.toNat
  | 2 => t.b1.toNat
  | _ => t.turns.toNat

/-- NCFG as a number (R89). -/
def NCfg.num (c : NCfg) : Nat :=
  c.dom % 16 + (if c.hostw then 16 else 0) + (if c.sidew then 32 else 0) + (if c.anyd then 64 else 0)

/-- What a doubleword of the window reads (R3: RSV and WO fields read 0). DBGREQ is read by its own step. -/
def State.hubRead (s : State) (off : Nat) : W64 :=
  let h := s.hub
  BitVec.ofNat 64 <|
    if off = 0 then h.ident.toNat
    else if off = 8 then h.svc.toNat
    else if 0x1000 ≤ off && off < 0x2000 then
      let q := s.lqOf ((off - 0x1000) / 64)
      match off % 64 with
      | 0 => q.base.toNat
      | 8 => q.cfg
      | 0x10 => q.head.toNat
      | 0x18 => q.tail.toNat
      | 0x20 => q.stat
      | _ => 0
    else if 0x2000 ≤ off && off < 0x2400 then (if off % 32 = 0 then s.lnkstat ((off - 0x2000) / 32) else 0)
    else if 0x3380 ≤ off && off < 0x33C0 then ofBytes ((h.aonbuf.drop (off - 0x3380)).take 8)
    else if 0x3400 ≤ off && off < 0x3600 then
      bits (SMap.get (0 : BitVec 256) h.meas ((off - 0x3400) / 32)).toNat (8 * (off % 32)) 64
    else if 0x3900 ≤ off && off < 0x3A00 then
      let m := h.mov ((off - 0x3900) / 32)
      match off % 32 with
      | 0 => (if m.v then 1 else 0) + (if m.fwd then 2 else 0)
      | 8 => m.src.toNat
      | 16 => m.dst.toNat
      | _ => m.pages
    else if 0x3A00 ≤ off && off < 0x3A40 then h.unpickmap ((off - 0x3A00) / 8)
    else if 0x3C00 ≤ off && off < 0x3E00 then (SMap.get (0 : W64) h.dwin ((off - 0x3C00) / 8)).toNat
    else if 0x4000 ≤ off && off < 0x5800 then (s.notifyVal (off % 0x800 / 8)).toNat
    else if 0x6000 ≤ off && off < 0x6800 then (s.ncfgOf ((off - 0x6000) / 8)).num
    else if 0x8000 ≤ off && off < 0x10000 then turnWord (s.turnEnt ((off - 0x8000) / 32)) (off % 32 / 8)
    else match off with
      | 0x3000 => h.wallbase.toNat
      | 0x3100 => h.toilcfg.toNat
      | 0x3108 => if h.fusesUp then h.toilref.toNat else 0
      | 0x3208 => h.power % 4 + (if h.refused then 4 else 0) + h.hot.length % 1024 * 8
      | 0x3300 => h.secstat
      | 0x3310 => h.attStat
      | 0x3318 => h.scirq.toNat
      | 0x3328 => (if h.keybusy then 1 else 0) + h.keystat * 2
      | 0x3700 => h.savebase.toNat
      | 0x3708 => h.saveunits + h.saveFree * 2 ^ 32
      | 0x3710 => h.supvec.toNat
      | 0x3718 => h.rootvec.toNat
      | 0x3800 => h.errbase.toNat
      | 0x3808 => h.errsize
      | 0x3810 => h.errhead.toNat
      | 0x3818 => h.errtail.toNat
      | 0x3820 => h.errlost + (if h.errheld.isEmpty then 0 else 2 ^ 16)
      | 0x3B00 => if bitAt h.svc.toNat 6 then h.stkstat.toNat else 0
      | 0x3E08 => h.sgaddr.toNat
      | 0x3E10 => (if h.sgbusy then 1 else 0) + h.sgstat * 2
      | _ => 0

/-! ## Writes -/

/-- Keeps bits [hi:lo] of a written value: the others are reserved (R3). -/
def keep (v : W64) (lo n : Nat) : W64 := BitVec.ofNat 64 (bits v.toNat lo n * 2 ^ lo)

/-- Pages of a move entry as a range. -/
def MovEntry.covers (m : MovEntry) (a : Nat) : Bool :=
  m.v && decide (m.src.toNat ≤ a) && decide (a < m.src.toNat + 4096 * m.pages)
/-- Whether the source ranges of two entries overlap. -/
def MovEntry.overlaps (m n : MovEntry) : Bool :=
  touches (m.src.toNat, 4096 * m.pages) n.src.toNat (4096 * n.pages)

/-- Replaces a move entry. -/
def State.setMov (s : State) (i : Nat) (m : MovEntry) : State := { s with hub := { s.hub with movs := s.hub.movs.insert i m } }

/-- Whether setting V of entry `i` would overlap another valid entry (R363). -/
def State.movClash (s : State) (i : Nat) (m : MovEntry) : Bool :=
  (List.range 8).any fun j => j != i && (s.hub.mov j).v && (s.hub.mov j).overlaps m

/-- A write of MOVCTL (R363): V and FWD are set while V is 0, then only FWD may rise and V fall. -/
def State.movCtl (s : State) (i : Nat) (v : W64) : State :=
  let m := s.hub.mov i
  if m.v then
    if bitAt v.toNat 0 then s.setMov i { m with fwd := m.fwd || bitAt v.toNat 1 }
    else s.setMov i { m with v := false }
  else
    let n := { m with v := bitAt v.toNat 0, fwd := bitAt v.toNat 1 }
    if n.v && s.movClash i n then s else s.setMov i n

/-- A write into the move entries (R363). -/
def State.movWrite (s : State) (off : Nat) (v : W64) : State :=
  let i := (off - 0x3900) / 32
  let m := s.hub.mov i
  match off % 32 with
  | 0 => s.movCtl i v
  | 8 => if m.v then s else s.setMov i { m with src := keep v 12 33 }
  | 16 => if m.v then s else s.setMov i { m with dst := keep v 12 33 }
  | _ => if m.v then s else s.setMov i { m with pages := bits v.toNat 0 20 }

/-- A write into the turn table (R87). -/
def State.turnWrite (s : State) (off : Nat) (v : W64) : State :=
  let i := (off - 0x8000) / 32
  let t := s.turnEnt i
  match off % 32 with
  | 0 => s.setTurnEnt i { t with v := bitAt v.toNat 0, dom := bits v.toNat 2 4, pages := bits v.toNat 16 20 }
  | 8 => s.setTurnEnt i { t with b0 := keep v 12 44 }
  | 16 => s.setTurnEnt i { t with b1 := keep v 12 44 }
  | _ => s

/-- A write of SGLOAD by a thread of a domain, or by the management core: a load from SGADDR or an unload starts, unless one is in
progress (R85). -/
def State.sgStart (s : State) (dom : Option Nat) (v : W64) : State :=
  if s.hub.sgbusy then s
  else { s with hub := { s.hub with sgbusy := true, sgreq := keep v 0 16, sgfrom := s.hub.sgaddr, sgdom := dom } }

/-- A write of a launch queue register other than the tail (R39). -/
def State.lqWrite (s : State) (off : Nat) (v : W64) : State :=
  let n := (off - 0x1000) / 64
  let q := s.lqOf n
  let x := v.toNat
  match off % 64 with
  | 0 => s.setLq n { q with base := keep v 7 38 }
  | 8 => s.setLq n { q with size := if bits x 0 4 < 4 then 4 else bits x 0 4, pmax := bits x 4 3, src := bits x 7 2,
                            dom := bits x 9 4, en := bitAt x 13, rootq := bitAt x 14 }
  | 0x20 => s.setLq n { q with ovr := q.ovr && !bitAt x 0, rej := q.rej && !bitAt x 1, srcerr := q.srcerr && !bitAt x 2 }
  | _ => s

/-- Sets the fields of a register that has no behaviour of its own (R3); other offsets ignore the write. -/
def State.hubSet (s : State) (off : Nat) (v : W64) : State :=
  let h := s.hub
  if 0x1000 ≤ off && off < 0x2000 then s.lqWrite off v
  else if 0x3900 ≤ off && off < 0x3A00 then s.movWrite off v
  else if 0x3C00 ≤ off && off < 0x3E00 then
    let w : W64 := BitVec.ofNat 64 (bits v.toNat 0 2 + bits v.toNat 16 26 * 65536)
    { s with hub := { h with dwin := SMap.set 0 h.dwin ((off - 0x3C00) / 8) w } }
  else if 0x6000 ≤ off && off < 0x6800 then
    let c : NCfg := { dom := bits v.toNat 0 4, hostw := bitAt v.toNat 4, sidew := bitAt v.toNat 5, anyd := bitAt v.toNat 6 }
    { s with hub := { h with ncfg := h.ncfg.insert ((off - 0x6000) / 8) c } }
  else if 0x8000 ≤ off && off < 0x10000 then s.turnWrite off v
  else match off with
    | 0x3000 => { s with hub := { h with wallbase := keep v 20 25 } }
    | 0x3100 => { s with hub := { h with toilcfg := keep v 0 16 } }
    | 0x3208 => { s with hub := { h with refused := h.refused && !bitAt v.toNat 2 } }
    | 0x3318 => { s with hub := { h with scirq := keep v 0 4 } }
    | 0x3700 => if h.saves.isEmpty then { s with hub := { h with savebase := keep v 16 29 } } else s
    | 0x3708 => if h.saves.isEmpty then { s with hub := { h with saveunits := bits v.toNat 0 32 } } else s
    | 0x3710 => { s with hub := { h with supvec := v } }
    | 0x3718 => { s with hub := { h with rootvec := v } }
    | 0x3800 => { s with hub := { h with errbase := keep v 12 33 } }
    | 0x3808 => { s with hub := { h with errsize := if bits v.toNat 0 4 < 6 then 6 else bits v.toNat 0 4 } }
    | 0x3818 => State.drainHeld 64 { s with hub := { h with errtail := BitVec.ofNat 16 v.toNat } }
    | 0x3E00 => s.sgStart none v
    | 0x3E08 => { s with hub := { h with sgaddr := keep v 8 37 } }
    | _ => s

/-- Whether an offset is one of the notify registers' write views (R89). -/
def isNotifyOff (off : Nat) : Bool := decide (0x4000 ≤ off) && decide (off < 0x5800)
/-- The offsets that SUPER and ROOT threads may write, notify registers apart (R68). -/
def superOff (off : Nat) : Bool :=
  (decide (0x8000 ≤ off) && decide (off < 0x10000)) || (decide (0x3900 ≤ off) && decide (off < 0x3A00))
    || (decide (0x3C00 ≤ off) && decide (off < 0x3E00)) || off == 0x3E00 || off == 0x3E08 || off == 0x3E10
/-- The other offsets the manual gives as written by firmware: ROOT threads may write them (R68). -/
def firmwareOff (off : Nat) : Bool :=
  off == 0x3000 || off == 0x3100 || off == 0x3318 || off == 0x3700 || off == 0x3708 || off == 0x3710 || off == 0x3718
    || off == 0x3800 || off == 0x3808

/-- Whether a thread of a domain may write notify register `n` (R89). -/
def State.threadNotify (s : State) (n : Nat) : Bool :=
  let c := s.ncfgOf n
  c.anyd || c.dom == s.domain

/-- Whether the acting thread may write an offset of the window (R68). -/
def State.threadMayWrite (s : State) (off : Nat) : Bool :=
  if isNotifyOff off then s.threadNotify (off % 0x800 / 8)
  else superOff off || (s.piece.level == 2 && firmwareOff off)

/-- A thread's write of notify register `n` raises the sidecar interrupt where NCFG.SIDEW is 1 (R295). -/
def State.notifyByThread (s : State) (n : Nat) (v : W64) : State :=
  let s := s.setNotify n v
  if (s.ncfgOf n).sidew then s.sidecarIrq else s

/-- A thread's write of a window offset performs (R68). -/
def State.threadHubWrite (s : State) (off : Nat) (v : W64) : State :=
  if isNotifyOff off then
    let n := off % 0x800 / 8
    s.notifyByThread n (notifyCombine ((off - 0x4000) / 0x800) (s.notifyVal n) v)
  else if off = 0x3E00 then s.sgStart (some s.domain) v
  else s.hubSet off v

end Sys2Proof.Machine
end

