-- ==== Sys2Proof/Machine/Fit.lean ====
section
/-! DEFINITION. Piece classes and where they fit (R49, R54), save areas as memory (R80, R81, R350), and how a core is
unpicked (R387). -/

namespace Sys2Proof.Machine

/-! ## Classes -/

/-- A piece class (R44 word 0x30): core rows and columns, element block side, vault units, stream slots. -/
structure PClass where
  h     : Nat
  w     : Nat
  side  : Nat
  vault : Nat
  cslot : Nat
deriving DecidableEq, Repr

/-- The side of an element block by its EB code. -/
def ebSide (eb : Nat) : Nat := if eb = 0 then 0 else 2 ^ (eb + 1)
/-- The vault units of a VAULT code (R44). -/
def vaultUnits (v : Nat) : Nat := if v = 0 then 1024 else v
/-- The class of a record's word 0x30. -/
def classOf (w : Nat) : PClass :=
  { h := 2 ^ bits w 0 2, w := 2 ^ bits w 2 3, side := ebSide (bits w 5 2), vault := vaultUnits (bits w 8 10), cslot := bits w 18 6 }
/-- The class of a launch. -/
def Launch.cls (x : Launch) : PClass := classOf (dword x.image 6)
/-- The bay of a core within its panel. -/
def bayOf (row col : Nat) : Nat := row / 4 * 4 + col / 4
/-- The positions of a class on a panel, in the order of R55. -/
def PClass.positions (c : PClass) : List (Nat × Nat) :=
  (tab (8 / c.h) fun a => tab (16 / c.w) fun b => (a * c.h, b * c.w)).flatten
/-- The cores of a rectangle. -/
def rectCores (row0 col0 h w : Nat) : List (Nat × Nat) := (tab h fun i => tab w fun j => (row0 + i, col0 + j)).flatten
/-- Whether a rectangle holds a core. -/
def inRect (row0 col0 h w row col : Nat) : Bool :=
  decide (row0 ≤ row) && decide (row < row0 + h) && decide (col0 ≤ col) && decide (col < col0 + w)
/-- Whether a piece holds a core. -/
def Piece.holds (p : Piece) (panel row col : Nat) : Bool :=
  p.live && p.panel == panel && inRect p.row0 p.col0 (2 ^ p.hLog) (2 ^ p.wLog) row col
/-- Whether a launch's reservation holds a core. -/
def Launch.reserves (x : Launch) (panel row col : Nat) : Bool :=
  match x.reserve with
  | some (pl, r, c) => pl == panel && inRect r c x.cls.h x.cls.w row col
  | none => false

/-- Whether no core of a rectangle is unpicked. -/
def State.picked (s : State) (panel row0 col0 : Nat) (c : PClass) : Bool :=
  (rectCores row0 col0 c.h c.w).all fun x => !s.hub.unpicked panel x.1 x.2
/-- The fit test of R49: some rectangle of a panel that is not fenced would fit if nothing were allocated. CSLOT is left out: a class
with CSLOT above 32 would fail the last condition of R54 too, and is rejected with code 0x08 alone (log 67, DESIGN CHOICE). -/
def State.fitsAtAll (s : State) (c : PClass) : Bool :=
  (List.range 4).any fun p => !s.hub.fenced.contains p && c.positions.any fun x => s.picked p x.1 x.2 c

/-! ## Blocks (R302, R303)

The manual does not number the blocks that PWRSTAT.HOT counts and that gate themselves: the model takes the compute blocks of R303,
512 matrix cores, 32 access cores, 32 vaults and 8,192 elements, in this order (log 66, DESIGN CHOICE). -/

/-- The compute blocks. -/
def blockCount : Nat := 8768
/-- A matrix core as a block. -/
def coreBlock (panel row col : Nat) : Nat := 128 * panel + 16 * row + col
/-- The access core of a bay, 8 * panel + bay. -/
def accessBlock (bay : Nat) : Nat := 512 + bay
/-- The vault of a bay. -/
def vaultBlock (bay : Nat) : Nat := 544 + bay
/-- The bay of a piece, 8 * panel + bay. -/
def Piece.bayKey (p : Piece) : Nat := 8 * p.panel + p.bay
/-- An element of a piece. -/
def Piece.elemBlock (p : Piece) (e : Nat) : Nat :=
  576 + 256 * p.bayKey + 16 * ((p.blk.y0 + e / 16) % 16) + (p.blk.x0 + e % 16) % 16
/-- The matrix cores of a piece. -/
def Piece.coreBlocks (p : Piece) : List Nat :=
  (rectCores p.row0 p.col0 (2 ^ p.hLog) (2 ^ p.wLog)).map fun c => coreBlock p.panel c.1 c.2
/-- The elements of a piece. -/
def Piece.elems (p : Piece) : List Nat := (List.range (p.blk.side * p.blk.side)).map fun i => 16 * (i / p.blk.side) + i % p.blk.side
/-- The live piece and the element that a block is, where it is an element of one. -/
def State.elemOfBlock (s : State) (b : Nat) : Option (Nat × Nat) :=
  if b < 576 then none
  else (s.pieces.filterMap fun kv =>
    if kv.2.live then (kv.2.elems.find? fun e => kv.2.elemBlock e == b).map fun e => (kv.1, e) else none).head?

/-- Whether the matrix cores of a piece have work. -/
def Piece.mBusy (p : Piece) : Bool := p.mx.nest.isSome || !p.mx.drains.isEmpty || p.mx.cnt != 0
/-- Whether a block other than an element is in use: cores by the work of their piece, an access core and a vault by a thread
that is not at a seam, a vault also by an access in flight. -/
def State.blockInUse (s : State) (b : Nat) : Bool :=
  (s.pieces.any fun kv => kv.2.live && (if b < 512 then kv.2.mBusy && kv.2.coreBlocks.contains b
    else !kv.2.atSeam && (accessBlock kv.2.bayKey == b || vaultBlock kv.2.bayKey == b)))
  || s.ops.any fun o => o.vault && o.remote.isNone && vaultBlock (o.addr / 2 ^ 26) == b
/-- The last cycle in which a block was in use. -/
def State.lastUse (s : State) (b : Nat) : Nat :=
  s.pieces.foldl (fun n kv =>
    if !kv.2.live then n
    else if b < 512 then (if kv.2.coreBlocks.contains b then Nat.max n kv.2.mx.lastUse else n)
    else if accessBlock kv.2.bayKey == b || vaultBlock kv.2.bayKey == b then Nat.max n kv.2.lastRun else n) (SMap.get 0 s.hub.used b)
/-- Whether a block has been idle for 2^16 cycles (R302); an element of a piece by R274. -/
def State.blockIdle (s : State) (b : Nat) : Bool :=
  match s.elemOfBlock b with
  | some (k, e) =>
    let x : Elem := SMap.get {} (SMap.get {} s.pieces k).blk.elems e
    decide (x.gate ≤ 1) && x.flight.isEmpty && x.memOps.isEmpty && decide (x.idle + 2 ^ 16 ≤ s.time)
  | none => !s.blockInUse b && decide (s.lastUse b + 2 ^ 16 ≤ s.time)

/-- Whether the units of these blocks act in this cycle: none is power-gated, and one at halved cadence acts in every second
cycle (R8, R11, R302). -/
def State.unitsOn (s : State) (bs : List Nat) : Bool :=
  bs.all fun b => !s.hub.gated.contains b && (!s.hub.hot.contains b || s.time % 2 == 0)
/-- The same where no block is gated or hot. -/
def State.allOn (s : State) : Bool := s.hub.gated.isEmpty && s.hub.hot.isEmpty

/-- Blocks that are power-gated: those on the hub's list and elements of pieces. -/
def State.gatedCount (s : State) : Nat :=
  s.pieces.foldl (fun n kv => if kv.2.live then n + (kv.2.blk.elems.filter fun x => x.2.gate == 2).length else n) s.hub.gated.length
/-- QUIET follows from the block states (R303). -/
def State.requiet (s : State) : State :=
  if s.hub.power = 0 && blockCount ≤ s.gatedCount then { s with hub := { s.hub with power := 1 } } else s
/-- A block has woken: the package is ACTIVE (R303). -/
def State.wakeBlock (s : State) (b : Nat) : State :=
  { s with hub := { s.hub with
    gated := s.hub.gated.filter (· != b), waking := s.hub.waking.erase b, power := if s.hub.power = 1 then 0 else s.hub.power } }
/-- Gated blocks that are needed wake, which takes 400 fabric cycles (R303). -/
def State.wakeBlocks (s : State) : State :=
  s.hub.gated.foldl (fun s b =>
    match SMap.get none (s.hub.waking.map fun kv => (kv.1, some kv.2)) b with
    | some t => if t ≤ s.time then s.wakeBlock b else s
    | none =>
      if b < 576 && s.blockInUse b then { s with hub := { s.hub with waking := s.hub.waking.insert b (s.time + 400) } } else s) s

/-- Blocks were last in use in a cycle; 0 is never. -/
def noteUse (u : SMap Nat) (bs : List Nat) (t : Nat) : SMap Nat := if t = 0 then u else bs.foldl (fun u b => u.insert b t) u
/-- When the cores, the access core and the vault of a piece were last in use, as it leaves them (R302). -/
def State.leaveCores (s : State) (p : Piece) : State :=
  { s with hub := { s.hub with
    used := noteUse (noteUse s.hub.used p.coreBlocks p.mx.lastUse) [accessBlock p.bayKey, vaultBlock p.bayKey] p.lastRun } }
/-- What a piece leaves behind as it goes (R302): when its blocks were last in use, and which of its elements are gated. -/
def State.leaveBlocks (s : State) (p : Piece) : State :=
  let s := s.leaveCores p
  let u := p.blk.elems.foldl (fun u x => noteUse u [p.elemBlock x.1] x.2.idle) s.hub.used
  let off := (p.blk.elems.filter fun x => x.2.gate == 2).map fun x => p.elemBlock x.1
  { s with hub := { s.hub with used := u, gated := s.hub.gated ++ off.filter fun b => !s.hub.gated.contains b } }
/-- The elements of a piece that is placed, as their blocks stand (R302). -/
def State.joinBlocks (s : State) (k : Nat) : State :=
  let p : Piece := SMap.get {} s.pieces k
  let known := p.elems.filter fun e => s.hub.gated.contains (p.elemBlock e) || (SMap.get 0 s.hub.used (p.elemBlock e)) != 0
  let took (m : SMap Elem) (e : Nat) : SMap Elem :=
    let b := p.elemBlock e
    m.insert e { SMap.get ({} : Elem) m e with idle := SMap.get 0 s.hub.used b, gate := if s.hub.gated.contains b then 2 else 0 }
  let q := { p with blk := { p.blk with elems := known.foldl took p.blk.elems } }
  let mine := known.map p.elemBlock
  { s with pieces := s.pieces.insert k q, hub := { s.hub with gated := s.hub.gated.filter fun b => !mine.contains b } }

/-! ## Resources of a bay -/

/-- The live pieces whose origin lies in a bay, piece `but` apart. -/
def State.bayPieces (s : State) (panel bay : Nat) (but : Option Nat) : List Piece :=
  (s.pieces.filter fun kv => kv.2.live && kv.2.panel == panel && kv.2.bay == bay && some kv.1 != but).map (·.2)
/-- What a launch's reservation sets aside in a bay, as a piece would hold it (R57). -/
def Launch.asidePiece (x : Launch) (panel bay : Nat) : Option Piece :=
  match x.reserve with
  | some (p, r, c) =>
    let (x0, y0, thr, u) := x.aside
    if p = panel && bayOf r c = bay then
      some { live := true, panel := panel, bay := bay, thread := thr, vbase := u * 65536, vunits := x.cls.vault, cslot := x.cls.cslot
             blk := { side := x.cls.side, x0 := x0, y0 := y0 } }
    else none
  | none => none
/-- What launch `l` finds taken in a bay, piece `but` apart: pieces, and what other launches have reserved. -/
def State.bayTaken (s : State) (l panel bay : Nat) (but : Option Nat) : List Piece :=
  s.bayPieces panel bay but ++ s.hub.launches.filterMap fun kv => if kv.1 = l then none else kv.2.asidePiece panel bay
/-- The free element blocks of a class in a bay, by their origins. -/
def freeBlocks (ps : List Piece) (side : Nat) : List (Nat × Nat) :=
  if side = 0 then [(0, 0)]
  else ((tab (16 / side) fun y => tab (16 / side) fun x => (x * side, y * side)).flatten).filter fun o =>
    ps.all fun p => p.blk.side == 0 || !(decide (o.1 < p.blk.x0 + p.blk.side) && decide (p.blk.x0 < o.1 + side)
      && decide (o.2 < p.blk.y0 + p.blk.side) && decide (p.blk.y0 < o.2 + side))
/-- The free access threads of a bay. -/
def freeThreads (ps : List Piece) : List Nat := (List.range 16).filter fun t => ps.all fun p => p.thread != t
/-- The free places for a vault share in a bay, in 64 KiB units. -/
def freeShares (ps : List Piece) (n : Nat) : List Nat :=
  (List.range (1025 - n)).filter fun u => ps.all fun p =>
    let b := p.vbase % 2 ^ 26 / 65536
    decide (u + n ≤ b) || decide (b + p.vunits ≤ u)
/-- Whether the stream slots of a class are free in a bay. -/
def freeSlots (ps : List Piece) (n : Nat) : Bool := decide (ps.foldl (fun k p => k + p.cslot) n ≤ 32)
/-- Whether a bay has all that a class needs besides cores (R54). -/
def bayFits (ps : List Piece) (c : PClass) : Bool :=
  !(freeBlocks ps c.side).isEmpty && !(freeThreads ps).isEmpty && !(freeShares ps c.vault).isEmpty && freeSlots ps c.cslot

/-! ## Save areas (R350) -/

/-- Writes lines of a save area as PROT lines under a domain (R349); `n` bounds the lines. -/
def State.sealLines (dom : Nat) : Nat → Nat → List Byte → State → State
  | 0, _, _, s => s
  | _, _, [], s => s
  | n + 1, a, b, s => State.sealLines dom n (a + 128) (b.drop 128) (s.putSealed a dom (b.take 128))
/-- Writes a section of a save area. -/
def State.saveBytes (s : State) (a dom : Nat) (b : List Byte) : State := State.sealLines dom (b.length / 128 + 1) a b s
/-- The trust domain of a launch. -/
def Launch.domain (x : Launch) : Nat := bits (dword x.image 10) 0 4

/-- Copies the register image of a pocket to its save area, whose header then says that it is there (R81, R350). -/
def State.emptyPocket (s : State) (i : Nat) : State :=
  let p := SMap.get {} s.hub.pockets i
  let dom := (s.launch p.launch).domain
  let s := s.saveBytes (p.area + 256) dom p.image
  let h := (s.plainLine p.area).getD (List.replicate 128 0)
  let s := s.putSealed p.area dom (bytesOf 8 (dword h 0 % 2 ^ 32) ++ h.drop 8)
  { s with hub := { s.hub with pockets := s.hub.pockets.erase i } }
/-- Empties the pockets that a test selects: bay key, kind and unit. -/
def State.emptyPockets (s : State) (sel : Nat → Nat → Nat → Bool) : State :=
  (s.hub.pockets.filter fun kv => kv.2.v && sel (kv.1 / 64) kv.2.kind kv.2.unit).foldl (fun s kv => s.emptyPocket kv.1) s
/-- The core of a panel within its bay, as UNIT of a pocket names it (R81): row by row. -/
def coreUnit (row col : Nat) : Nat := row % 4 * 4 + col % 4
/-- Empties the pockets in the accumulator columns of a core. -/
def State.emptyCore (s : State) (panel row col : Nat) : State :=
  s.emptyPockets fun b k u => b == 8 * panel + bayOf row col && k == 0 && u == coreUnit row col

/-! ## Unfit launches -/

/-- A launch whose class no longer fits enters UNFIT (R49). -/
def State.testFit (s : State) (l : Nat) : State :=
  let x := s.launch l
  if x.open && !s.fitsAtAll x.cls then s.unfitLaunch l else s
/-- The fit test of every open launch. -/
def State.testFits (s : State) : State := s.hub.launches.foldl (fun s kv => s.testFit kv.1) s

/-- A launch whose reservation holds an unpicked core drops it (R387). -/
def Launch.unreserve (x : Launch) (panel row col : Nat) : Launch :=
  if x.reserves panel row col then { x with reserve := none, poolRec := false } else x

/-- Unpicks a core (R387) whose toile product gave a signature. -/
def State.unpickCore (s : State) (panel row col : Nat) (sig : W64) : State :=
  let s := s.emptyCore panel row col
  let s := { s with hub := { s.hub with unpick := s.hub.unpick.insert ((panel * 8 + row) * 16 + col) true } }
  let loc := errLoc panel (bayOf row col) (coreUnit row col) 0
  let s := s.record { cls := 1, src := 4, code := 1, loc := loc, detail := sig.toNat }
  let s := if s.hub.svc.toNat % 4 = 2 then s.setLevel 3 else s
  let s := s.testFits
  { s with hub := { s.hub with launches := s.hub.launches.map fun kv => (kv.1, kv.2.unreserve panel row col) } }

/-- Fences a panel (R49): a launch that no longer fits ends. -/
def State.fencePanel (s : State) (panel : Nat) : State :=
  let h := { s.hub with fenced := if s.hub.fenced.contains panel then s.hub.fenced else s.hub.fenced ++ [panel] }
  State.testFits { s with hub := h }

end Sys2Proof.Machine
end

