-- ==== Sys2Proof/Config.lean ====
section
/-! DEFINITION. The free values of the part: what the manual leaves open and an implementation fixes. None has a body,
so nothing can be proved of the values themselves. -/

namespace Sys2Proof.Config

/-- The value an implementation returns for a special function (R142), by function code and operand. It is used only
where it lies inside the bound of R142 (log 8, DESIGN CHOICE). -/
opaque sfuValue (fn : Nat) (x : Lane) : Lane

/-- The contents of a cell, row or tile lane that the manual calls undefined (R34, R216, R243), by the free value's
number (log 14, DESIGN CHOICE). -/
opaque undefLane (n : Nat) : Lane

/-- Random bits of the part's noise source (R299, R301, R402), by the free value's number (log 9, DESIGN CHOICE). -/
opaque randomBits (n : Nat) : BitVec 512

/-- The contents of an access window whose key or wrapping the manual does not give: what a blob unwraps to (R299),
by the blob's bytes and the free value's number (log 10, DESIGN CHOICE). -/
opaque unwrapped (n : Nat) (blob : Nat) : BitVec 512

/-- A signature the part makes with a key it never reveals (R298), over a report given as a number (log 10, DESIGN CHOICE). -/
opaque signature (n : Nat) (report : Nat) : BitVec 512

/-- A value the manual does not state for an ordinary result, by the free value's number (log 16, DESIGN CHOICE). -/
opaque freeWord (n : Nat) : W64

end Sys2Proof.Config
end

