-- ==== Sys2Proof/Machine/Arith.lean ====
section
/-! DEFINITION. The integer words of S (R169 to R174) and the two prefixes (R93, R147). -/

namespace Sys2Proof.Machine

/-! ## Shared functions -/

/-- 1 or 0. -/
def flag64 (b : Bool) : W64 := if b then 1 else 0
/-- The value of a word as a signed integer. -/
def sval (a : W64) : Int := a.toInt

/-- The high half of the signed product. -/
def mulHigh (a b : W64) : W64 := BitVec.ofInt 64 (sval a * sval b / 2 ^ 64)
/-- The high half of the unsigned product. -/
def mulHighU (a b : W64) : W64 := BitVec.ofNat 64 (a.toNat * b.toNat / 2 ^ 64)
/-- Signed division truncated toward zero (R169). -/
def divS (a b : W64) : W64 := if b = 0 then -1 else BitVec.ofInt 64 (Int.tdiv (sval a) (sval b))
/-- Unsigned division (R169). -/
def divU (a b : W64) : W64 := if b = 0 then -1 else BitVec.ofNat 64 (a.toNat / b.toNat)
/-- Signed remainder (R169). -/
def remS (a b : W64) : W64 := if b = 0 then a else BitVec.ofInt 64 (Int.tmod (sval a) (sval b))
/-- Unsigned remainder (R169). -/
def remU (a b : W64) : W64 := if b = 0 then a else BitVec.ofNat 64 (a.toNat % b.toNat)

/-- Number of one bits among the low `n`. -/
def popCount : Nat → Nat → Nat
  | 0, _ => 0
  | n + 1, v => v % 2 + popCount n (v / 2)
/-- Number of leading zero bits of 64. -/
def clz64 (a : W64) : Nat := if a = 0 then 64 else 63 - a.toNat.log2
/-- Number of trailing zero bits among the low `n`. -/
def ctzBits : Nat → Nat → Nat
  | 0, _ => 0
  | n + 1, v => if v % 2 = 1 then 0 else ctzBits n (v / 2) + 1
/-- Sign extension of the low `n` bits. -/
def sextW (n : Nat) (a : W64) : W64 := BitVec.ofInt 64 (sgn n a.toNat)

/-- A bit field cut at bit 63 (R173). -/
def fieldLen (pos w : Nat) : Nat := Nat.min w (64 - pos)
/-- `s.bfx` (R173). -/
def bfx (a : W64) (pos w : Nat) : W64 := BitVec.ofNat 64 (bits a.toNat pos (fieldLen pos w))
/-- `s.bfi` (R173). -/
def bfi (d a : W64) (pos w : Nat) : W64 := BitVec.ofNat 64 (putBits d.toNat pos (fieldLen pos w) a.toNat)

/-- X of the swizzle (R71) for a mode and a vault offset. -/
def swizzleX (m off : Nat) : Nat :=
  match m with
  | 0 => 0
  | 1 => bits off 10 4
  | 2 => bits off 14 4
  | 3 => bits off 10 4 ^^^ bits off 14 4
  | 4 => bits off 11 4
  | 5 => bits off 12 4
  | 6 => bits off 10 1 * 8 + bits off 11 1 * 4 + bits off 12 1 * 2 + bits off 13 1
  | _ => bits off 18 4
/-- An address with the bank bits [9:6] of its vault offset swizzled (R71, R174). -/
def swizzle (m a : Nat) : Nat := putBits a 6 4 (bits a 6 4 ^^^ swizzleX m (a % 2 ^ 26))

/-! ## Words -/

/-- `s.add` (R169). -/
def execSAdd (t : BitVec 4) (d a b : BitVec 5) (s : State) : Host.Outcome State Fault Refusal :=
  s.runAlu (.sAdd t d a b) t 0 [a, b] d fun p => p.reg a + p.reg b

/-- `s.sub` (R169). -/
def execSSub (t : BitVec 4) (d a b : BitVec 5) (s : State) : Host.Outcome State Fault Refusal :=
  s.runAlu (.sSub t d a b) t 0 [a, b] d fun p => p.reg a - p.reg b

/-- `s.and` (R169). -/
def execSAnd (t : BitVec 4) (d a b : BitVec 5) (s : State) : Host.Outcome State Fault Refusal :=
  s.runAlu (.sAnd t d a b) t 0 [a, b] d fun p => p.reg a &&& p.reg b

/-- `s.or` (R169). -/
def execSOr (t : BitVec 4) (d a b : BitVec 5) (s : State) : Host.Outcome State Fault Refusal :=
  s.runAlu (.sOr t d a b) t 0 [a, b] d fun p => p.reg a ||| p.reg b

/-- `s.xor` (R169). -/
def execSXor (t : BitVec 4) (d a b : BitVec 5) (s : State) : Host.Outcome State Fault Refusal :=
  s.runAlu (.sXor t d a b) t 0 [a, b] d fun p => p.reg a ^^^ p.reg b

/-- `s.andn` (R169). -/
def execSAndn (t : BitVec 4) (d a b : BitVec 5) (s : State) : Host.Outcome State Fault Refusal :=
  s.runAlu (.sAndn t d a b) t 0 [a, b] d fun p => p.reg a &&& ~~~(p.reg b)

/-- `s.sll` (R169). -/
def execSSll (t : BitVec 4) (d a b : BitVec 5) (s : State) : Host.Outcome State Fault Refusal :=
  s.runAlu (.sSll t d a b) t 0 [a, b] d fun p => p.reg a <<< ((p.reg b).toNat % 64)

/-- `s.srl` (R169). -/
def execSSrl (t : BitVec 4) (d a b : BitVec 5) (s : State) : Host.Outcome State Fault Refusal :=
  s.runAlu (.sSrl t d a b) t 0 [a, b] d fun p => p.reg a >>> ((p.reg b).toNat % 64)

/-- `s.sra` (R169). -/
def execSSra (t : BitVec 4) (d a b : BitVec 5) (s : State) : Host.Outcome State Fault Refusal :=
  s.runAlu (.sSra t d a b) t 0 [a, b] d fun p => (p.reg a).sshiftRight ((p.reg b).toNat % 64)

/-- `s.mul` (R169). -/
def execSMul (t : BitVec 4) (d a b : BitVec 5) (s : State) : Host.Outcome State Fault Refusal :=
  s.runAlu (.sMul t d a b) t 0 [a, b] d fun p => p.reg a * p.reg b

/-- `s.mulh` (R169). -/
def execSMulh (t : BitVec 4) (d a b : BitVec 5) (s : State) : Host.Outcome State Fault Refusal :=
  s.runAlu (.sMulh t d a b) t 0 [a, b] d fun p => mulHigh (p.reg a) (p.reg b)

/-- `s.mulhu` (R169). -/
def execSMulhu (t : BitVec 4) (d a b : BitVec 5) (s : State) : Host.Outcome State Fault Refusal :=
  s.runAlu (.sMulhu t d a b) t 0 [a, b] d fun p => mulHighU (p.reg a) (p.reg b)

/-- `s.div` (R169). -/
def execSDiv (t : BitVec 4) (d a b : BitVec 5) (s : State) : Host.Outcome State Fault Refusal :=
  s.runAlu (.sDiv t d a b) t 0 [a, b] d fun p => divS (p.reg a) (p.reg b)

/-- `s.divu` (R169). -/
def execSDivu (t : BitVec 4) (d a b : BitVec 5) (s : State) : Host.Outcome State Fault Refusal :=
  s.runAlu (.sDivu t d a b) t 0 [a, b] d fun p => divU (p.reg a) (p.reg b)

/-- `s.rem` (R169). -/
def execSRem (t : BitVec 4) (d a b : BitVec 5) (s : State) : Host.Outcome State Fault Refusal :=
  s.runAlu (.sRem t d a b) t 0 [a, b] d fun p => remS (p.reg a) (p.reg b)

/-- `s.remu` (R169). -/
def execSRemu (t : BitVec 4) (d a b : BitVec 5) (s : State) : Host.Outcome State Fault Refusal :=
  s.runAlu (.sRemu t d a b) t 0 [a, b] d fun p => remU (p.reg a) (p.reg b)

/-- `s.min` (R169). -/
def execSMin (t : BitVec 4) (d a b : BitVec 5) (s : State) : Host.Outcome State Fault Refusal :=
  s.runAlu (.sMin t d a b) t 0 [a, b] d fun p => if (p.reg a).slt (p.reg b) then p.reg a else p.reg b

/-- `s.max` (R169). -/
def execSMax (t : BitVec 4) (d a b : BitVec 5) (s : State) : Host.Outcome State Fault Refusal :=
  s.runAlu (.sMax t d a b) t 0 [a, b] d fun p => if (p.reg a).slt (p.reg b) then p.reg b else p.reg a

/-- `s.minu` (R169). -/
def execSMinu (t : BitVec 4) (d a b : BitVec 5) (s : State) : Host.Outcome State Fault Refusal :=
  s.runAlu (.sMinu t d a b) t 0 [a, b] d fun p => if (p.reg a).ult (p.reg b) then p.reg a else p.reg b

/-- `s.maxu` (R169). -/
def execSMaxu (t : BitVec 4) (d a b : BitVec 5) (s : State) : Host.Outcome State Fault Refusal :=
  s.runAlu (.sMaxu t d a b) t 0 [a, b] d fun p => if (p.reg a).ult (p.reg b) then p.reg b else p.reg a

/-- `s.slt` (R169). -/
def execSSlt (t : BitVec 4) (d a b : BitVec 5) (s : State) : Host.Outcome State Fault Refusal :=
  s.runAlu (.sSlt t d a b) t 0 [a, b] d fun p => flag64 ((p.reg a).slt (p.reg b))

/-- `s.sltu` (R169). -/
def execSSltu (t : BitVec 4) (d a b : BitVec 5) (s : State) : Host.Outcome State Fault Refusal :=
  s.runAlu (.sSltu t d a b) t 0 [a, b] d fun p => flag64 ((p.reg a).ult (p.reg b))

/-- `s.seq` (R169). -/
def execSSeq (t : BitVec 4) (d a b : BitVec 5) (s : State) : Host.Outcome State Fault Refusal :=
  s.runAlu (.sSeq t d a b) t 0 [a, b] d fun p => flag64 (p.reg a == p.reg b)

/-- `s.sne` (R169). -/
def execSSne (t : BitVec 4) (d a b : BitVec 5) (s : State) : Host.Outcome State Fault Refusal :=
  s.runAlu (.sSne t d a b) t 0 [a, b] d fun p => flag64 (p.reg a != p.reg b)

/-- `s.clz` (R170). -/
def execSClz (t : BitVec 4) (d a : BitVec 5) (s : State) : Host.Outcome State Fault Refusal :=
  s.runAlu (.sClz t d a) t 0 [a] d fun p => BitVec.ofNat 64 (clz64 (p.reg a))

/-- `s.ctz` (R170). -/
def execSCtz (t : BitVec 4) (d a : BitVec 5) (s : State) : Host.Outcome State Fault Refusal :=
  s.runAlu (.sCtz t d a) t 0 [a] d fun p => BitVec.ofNat 64 (ctzBits 64 (p.reg a).toNat)

/-- `s.popc` (R170). -/
def execSPopc (t : BitVec 4) (d a : BitVec 5) (s : State) : Host.Outcome State Fault Refusal :=
  s.runAlu (.sPopc t d a) t 0 [a] d fun p => BitVec.ofNat 64 (popCount 64 (p.reg a).toNat)

/-- `s.sext.b` (R170). -/
def execSSextB (t : BitVec 4) (d a : BitVec 5) (s : State) : Host.Outcome State Fault Refusal :=
  s.runAlu (.sSextB t d a) t 0 [a] d fun p => sextW 8 (p.reg a)

/-- `s.sext.h` (R170). -/
def execSSextH (t : BitVec 4) (d a : BitVec 5) (s : State) : Host.Outcome State Fault Refusal :=
  s.runAlu (.sSextH t d a) t 0 [a] d fun p => sextW 16 (p.reg a)

/-- `s.sext.w` (R170). -/
def execSSextW (t : BitVec 4) (d a : BitVec 5) (s : State) : Host.Outcome State Fault Refusal :=
  s.runAlu (.sSextW t d a) t 0 [a] d fun p => sextW 32 (p.reg a)

/-- `s.zext.w` (R170). -/
def execSZextW (t : BitVec 4) (d a : BitVec 5) (s : State) : Host.Outcome State Fault Refusal :=
  s.runAlu (.sZextW t d a) t 0 [a] d fun p => BitVec.ofNat 64 ((p.reg a).toNat % 2 ^ 32)

/-- `s.addi` (R171). -/
def execSAddi (t : BitVec 4) (d a : BitVec 5) (i : BitVec 10) (s : State) : Host.Outcome State Fault Refusal :=
  s.runAlu (.sAddi t d a i) t 1 [a] d fun p => p.reg a + p.simm i

/-- `s.andi` (R171). -/
def execSAndi (t : BitVec 4) (d a : BitVec 5) (i : BitVec 10) (s : State) : Host.Outcome State Fault Refusal :=
  s.runAlu (.sAndi t d a i) t 1 [a] d fun p => p.reg a &&& p.uimm i

/-- `s.ori` (R171). -/
def execSOri (t : BitVec 4) (d a : BitVec 5) (i : BitVec 10) (s : State) : Host.Outcome State Fault Refusal :=
  s.runAlu (.sOri t d a i) t 1 [a] d fun p => p.reg a ||| p.uimm i

/-- `s.xori` (R171). -/
def execSXori (t : BitVec 4) (d a : BitVec 5) (i : BitVec 10) (s : State) : Host.Outcome State Fault Refusal :=
  s.runAlu (.sXori t d a i) t 1 [a] d fun p => p.reg a ^^^ p.uimm i

/-- `s.slti` (R171). -/
def execSSlti (t : BitVec 4) (d a : BitVec 5) (i : BitVec 10) (s : State) : Host.Outcome State Fault Refusal :=
  s.runAlu (.sSlti t d a i) t 1 [a] d fun p => flag64 ((p.reg a).slt (p.simm i))

/-- `s.sltiu` (R171). -/
def execSSltiu (t : BitVec 4) (d a : BitVec 5) (i : BitVec 10) (s : State) : Host.Outcome State Fault Refusal :=
  s.runAlu (.sSltiu t d a i) t 1 [a] d fun p => flag64 ((p.reg a).ult (p.simm i))

/-- `s.slli` (R171). -/
def execSSlli (t : BitVec 4) (d a : BitVec 5) (h : BitVec 6) (s : State) : Host.Outcome State Fault Refusal :=
  s.runAlu (.sSlli t d a h) t 0 [a] d fun p => p.reg a <<< h.toNat

/-- `s.srli` (R171). -/
def execSSrli (t : BitVec 4) (d a : BitVec 5) (h : BitVec 6) (s : State) : Host.Outcome State Fault Refusal :=
  s.runAlu (.sSrli t d a h) t 0 [a] d fun p => p.reg a >>> h.toNat

/-- `s.srai` (R171). -/
def execSSrai (t : BitVec 4) (d a : BitVec 5) (h : BitVec 6) (s : State) : Host.Outcome State Fault Refusal :=
  s.runAlu (.sSrai t d a h) t 0 [a] d fun p => (p.reg a).sshiftRight h.toNat

/-- `s.lui` (R171). -/
def execSLui (t : BitVec 4) (d : BitVec 5) (i : BitVec 10) (s : State) : Host.Outcome State Fault Refusal :=
  s.runAlu (.sLui t d i) t 1 [] d fun p => p.uimm i <<< 30

/-- `s.swz` (R174). -/
def execSSwz (t : BitVec 4) (d a : BitVec 5) (m : BitVec 3) (s : State) : Host.Outcome State Fault Refusal :=
  s.runAlu (.sSwz t d a m) t 0 [a] d fun p => BitVec.ofNat 64 (swizzle m.toNat (p.reg a).toNat)

/-- `s.bfx` (R173); the check of the prefix is that of R149. -/
def execSBfx (t : BitVec 4) (d a : BitVec 5) (p : BitVec 6) (w : BitVec 3) (s : State) : Host.Outcome State Fault Refusal :=
  s.runS (.sBfx t d a p w) t 1 (Piece.fieldPrefix w) [a] fun s =>
    .done (s.modPiece fun q => q.setReg d (bfx (q.reg a) p.toNat (q.fieldWidth w)))

/-- `s.bfi` (R173). -/
def execSBfi (t : BitVec 4) (d a : BitVec 5) (p : BitVec 6) (w : BitVec 3) (s : State) : Host.Outcome State Fault Refusal :=
  s.runS (.sBfi t d a p w) t 1 (Piece.fieldPrefix w) [d, a] fun s =>
    .done (s.modPiece fun q => q.setReg d (bfi (q.reg d) (q.reg a) p.toNat (q.fieldWidth w)))

/-- `s.madd` (R172). -/
def execSMadd (t : BitVec 4) (d a b : BitVec 5) (s : State) : Host.Outcome State Fault Refusal :=
  s.runAlu (.sMadd t d a b) t 0 [d, a, b] d fun p => p.reg d + p.reg a * p.reg b

/-- The prefix `s.imx` (R147): it waits for the next S word. A prefix before it is refused. -/
def execSImx (i : BitVec 20) (s : State) : Host.Outcome State Fault Refusal :=
  if s.piece.live then
    match s.piece.pre with
    | .none => .next (s.modPiece fun p => { p with pre := .imx i p.s.pc, s := { p.s with pc := p.s.pc + 4, word := none } })
    | _ => .next (s.wordTrap 0 0 cILLEGAL (wordOf (.sImx i)) 0)
  else .fault .noPiece

/-- The prefix `s.sem` (R93): it waits for the next S word. A prefix before it is refused. -/
def execSSem (o : BitVec 2) (sc kw kt : BitVec 3) (s : State) : Host.Outcome State Fault Refusal :=
  if s.piece.live then
    match s.piece.pre with
    | .none => .next (s.modPiece fun p => { p with pre := .sem o sc kw kt p.s.pc, s := { p.s with pc := p.s.pc + 4, word := none } })
    | _ => .next (s.wordTrap 0 0 cILLEGAL (wordOf (.sSem o sc kw kt)) 0)
  else .fault .noPiece

end Sys2Proof.Machine
end

