-- ==== Sys2Proof/Machine/MemOps.lean ====
section
/-! DEFINITION. Memory operations in flight (R90 to R109): who sees which write, what each operation must follow, how
they are handed out, and how a write performs scope by scope (log 15, DESIGN CHOICE). -/

namespace Sys2Proof.Machine

/-! ## Agents and instances (R90, R91) -/

/-- The bay instance of an agent, 8 * panel + bay. -/
def State.agentBay (s : State) : Agent → Option Nat
  | .thread p => some (8 * (s.pieceOf p).panel + (s.pieceOf p).bay)
  | .engines p => some (8 * (s.pieceOf p).panel + (s.pieceOf p).bay)
  | .bank panel bay => some (8 * panel + bay)
  | _ => none

/-- The panel instance of an agent. -/
def State.agentPanel (s : State) : Agent → Option Nat
  | .thread p => some (s.pieceOf p).panel
  | .engines p => some (s.pieceOf p).panel
  | .bank panel _ => some panel
  | .memBank panel => some panel
  | _ => none

/-- Whether an agent has the package instance. -/
def Agent.inPkg : Agent → Bool
  | .host _ => false
  | _ => true

/-- Whether an agent is a sidecar core. -/
def Agent.isSide : Agent → Bool
  | .sidecar _ => true
  | _ => false

/-- Whether agent `b` belongs to the instance of scope `sc` of agent `a`; an agent without an instance uses the next
wider one it has (R90). -/
def State.inInst (s : State) (b a : Agent) (sc : Nat) : Bool :=
  match sc with
  | 0 => a == b
  | 1 => match s.agentBay a, s.agentPanel a with
    | some x, _ => s.agentBay b == some x
    | none, some x => s.agentPanel b == some x
    | none, none => if a.inPkg then b.inPkg else true
  | 2 => match s.agentPanel a with
    | some x => s.agentPanel b == some x
    | none => if a.inPkg then b.inPkg else true
  | 3 => if a.inPkg then b.inPkg else true
  | _ => true

/-- Whether an operation has performed at an instance that agent `b` belongs to. -/
def State.seenBy (s : State) (o : MemOp) (b : Agent) : Bool := o.level != 0 && s.inInst b o.agent (o.level - 1)
/-- Whether a write has performed at the whole instance of scope `sc` of agent `b` (R95). -/
def State.doneAt (s : State) (o : MemOp) (b : Agent) (sc : Nat) : Bool := sc + 1 ≤ o.level && s.seenBy o b

/-! ## Orders -/

/-- The operation with a number, while it is in flight. -/
def State.opOf (s : State) (id : Nat) : Option MemOp := s.ops.find? fun o => o.id == id

/-- Whether an operation handed to another list than `ops` is still there. -/
def State.handed (s : State) (id : Nat) : Bool :=
  s.scatters.any (·.id == id) || s.barEvs.any (·.id == id) || s.invokes.any (·.id == id)
    || s.pieces.any fun kv => kv.2.qloads.any (·.id == id)

/-- Whether an operation has performed at a scope of its agent. -/
def State.opDone (s : State) (id sc : Nat) : Bool :=
  match s.opOf id with
  | some o => sc + 1 ≤ o.level
  | none => !s.handed id

/-- Whether the orders of an operation let it perform (R99 to R108). -/
def State.depsMet (s : State) (ds : List Dep) : Bool := ds.all fun d => s.opDone d.op d.scope

/-- The orders still outstanding. -/
def State.prune (s : State) (ds : List Dep) : List Dep := ds.filter fun d => !s.opDone d.op d.scope

/-- Scope of an operation in flight, for a knot (R107). -/
def State.scopeOf (s : State) (id : Nat) : Nat := match s.opOf id with
  | some o => o.scope
  | none => 3

/-- The members of a knot's set that have not performed (R99). -/
def State.knot (s : State) (k : Nat) : List Nat :=
  (SMap.get [] s.piece.knots k).filter fun id => !s.opDone id (s.scopeOf id)

/-- The request an operation belongs to: an S access that is handed out in several units is one (R96, R99). -/
def MemOp.request (o : MemOp) : Nat := o.grp.getD o.id

/-- The 4-byte units of a queue load that are still to be read, by address: each is one read (R94, R99). -/
def QLoad.units (q : QLoad) : List Nat :=
  ((q.lanes.filter fun l => l.got.isNone).map fun l => l.va.toNat / 4).eraseDups

/-- The operations in a knot's set (R99). -/
def State.knotSize (s : State) (k : Nat) : Nat :=
  let m := s.knot k
  let ops := s.ops.filter fun o => m.contains o.id
  let qs := s.piece.qloads.filter fun q => m.contains q.id
  (ops.map MemOp.request).eraseDups.length + qs.foldl (fun n q => n + q.units.length) 0
    + (m.filter fun i => !(ops.any (·.id == i) || qs.any (·.id == i))).length

/-- Whether an operation is the scatter update of a stream or node to another package (R67, R84): its operation is `fn - 16`, its
element `rd`, its sequence number `cmp`. -/
def MemOp.isUpdate (o : MemOp) : Bool := o.kind == .rmw && o.agent == .engines o.piece

/-- The scatter updates of a stream of a piece, or of its nodes, that have still to be applied: number, element, sequence number. -/
def State.updates (s : State) (p : Nat) (slot : Option Nat) : List (Nat × Nat × Nat) :=
  (s.scatters.filter fun w => w.piece == p && w.slot == slot).map (fun w => (w.id, w.elem, w.seq))
    ++ (s.ops.filter fun o => o.isUpdate && o.piece == p && o.slot == slot.getD 64).map fun o => (o.id, o.rd, o.cmp.toNat)

/-- What waiting on a knot orders; k0 names none. -/
def State.knotDeps (s : State) (k : Nat) : List Dep :=
  if k = 0 then [] else (s.knot k).map fun id => { op := id, scope := s.scopeOf id }

/-- Adds an operation to a knot's set. -/
def State.tie (s : State) (k id : Nat) : State :=
  if k = 0 then s
  else
    let l := s.knot k ++ [id]
    s.modPiece fun p => { p with knots := SMap.set [] p.knots k l }

/-- Whether tying `n` more operations would pass the 255 a knot holds (R99). -/
def State.knotFull (s : State) (k n : Nat) : Bool := k != 0 && 255 < s.knotSize k + n

/-- Every operation of the acting piece's thread that is in flight. -/
def State.threadOps (s : State) : List Nat :=
  (s.ops.filter fun o => o.agent == .thread s.focusP).map (·.id)
    ++ ((s.piece.qloads.filter fun q => q.agent == .thread s.focusP).map (·.id))
    ++ ((s.barEvs.filter fun b => b.agent == .thread s.focusP).map (·.id))

/-- Orders after operations at a scope, with the writes that they observe (R108). -/
def cumDeps (sc : Nat) (ids : List Nat) : List Dep := ids.map fun id => { op := id, scope := sc, cum := true }

/-- What an S operation is ordered after (R98 to R104), for its ordering, scope and knot. -/
def State.sOrders (s : State) (os : OrdScope) (kw : Nat) (isWrite : Bool) : List Dep :=
  let p := s.piece
  (p.s.deps ++ p.acqs.map (fun id => { op := id, scope := os.scope }) ++ p.fenceR
    ++ (if isWrite then p.fenceW else []) ++ s.knotDeps kw ++ s.knotDeps os.kw
    ++ (if isWrite && isRel os.ord then cumDeps os.scope (s.threadOps ++ p.seen) else []))

/-- What of it is still outstanding: the operation must follow it. -/
def State.sDeps (s : State) (os : OrdScope) (kw : Nat) (isWrite : Bool) : List Dep := s.prune (s.sOrders os kw isWrite)

/-- Records an S operation in the thread: its knots, and an acquire that later operations follow (R100). -/
def State.sIssue (s : State) (os : OrdScope) (kt id : Nat) (isRead : Bool) : State :=
  let s := (s.tie kt id).tie (if os.kt = kt then 0 else os.kt) id
  if isRead && isAcq os.ord then
    s.modPiece fun p => { p with acqs := (p.acqs.filter fun a => !s.opDone a 4) ++ [id] }
  else s

/-- Orders as a tack hands them over (R104): at panel scope, with the writes observed. -/
def tackDeps (ds : List Dep) : List Dep := cumDeps 2 (ds.map (·.op))

/-- What a tack of an S memory word hands over (R104): all that the word is ordered after. -/
def State.sTack (s : State) (os : OrdScope) (kw : Nat) (isWrite : Bool) : List Dep :=
  s.prune (tackDeps (s.sOrders os kw isWrite))
/-- Puts that beside the word until it retires. -/
def State.sRelease (s : State) (tk : List Dep) : State := s.modPiece fun p => { p with relDeps := tk }

/-- Hands an operation to the memory system. -/
def State.addOp (s : State) (o : MemOp) : State :=
  let n := s.opCount
  { s with ops := s.ops ++ [{ o with id := n, level := if o.scope = 0 && o.kind == .write then 1 else 0 }], opCount := n + 1 }

/-- The piece number of an operation that belongs to no piece. -/
def noPiece : Nat := 2 ^ 64
/-- A blank operation of an agent of the acting piece. -/
def blankOp (p : Nat) (ag : Agent) (kind : OpKind) (v : Bool) (addr : Nat) (va : W64) (size : Nat) : MemOp :=
  { id := 0, piece := p, agent := ag, kind := kind, vault := v, addr := addr, va := va, size := size, data := [], rd := 0,
    sext := false, fn := 0, cmp := 0, ord := 0, scope := 3, deps := [], level := 0, remote := none, lining := none, key := 0 }

/-- The memory pair of a remote physical address, for the acting piece. -/
def State.remotePair (s : State) (v : Bool) (pa : Nat) : Option Nat :=
  if v || pa / 2 ^ 45 = s.hub.pkg.toNat then none else (s.memBinding (pa / 2 ^ 45)).map (·.1)

/-- Hands out a write in its 4-byte units one by one, so that others may see it torn (R96). `n` bounds the units. -/
def State.addUnits (o : MemOp) : Nat → List Byte → Nat → State → State
  | 0, _, _, s => s
  | _, [], _, s => s
  | n + 1, d, off, s =>
    State.addUnits o n (d.drop 4) (off + 4)
      (s.addOp { o with addr := o.addr + off, size := (d.take 4).length, data := d.take 4 })

/-- Hands out a write of one request: whole, or in its 4-byte units, as the next choice says (R96). -/
def State.addWrite (s : State) (o : MemOp) : State :=
  let o := { o with grp := some s.opCount }
  if o.data.length ≤ 4 || o.remote.isSome then s.addOp o
  else
    let (c, s) := s.choose
    if c = 0 then s.addOp o else State.addUnits o (o.data.length / 4 + 1) o.data 0 s

/-! ## What a read returns (R102, R107) -/

/-- Whether an operation writes bytes of a range. -/
def MemOp.writes (o : MemOp) (v : Bool) (a n : Nat) : Bool :=
  o.kind == .write && o.remote.isNone && o.vault == v && overlap o.addr o.data.length a n

/-- The bytes `d` at `a` as changed by a write. -/
def overlayOne (a : Nat) (d : List Byte) (o : MemOp) : List Byte :=
  tab d.length fun i => if o.addr ≤ a + i && a + i < o.addr + o.data.length then nth 0 o.data (a + i - o.addr) else nth 0 d i

/-- The bytes an agent reads at an address: the latest write performed at an instance of its own, in coherence order,
and, with `fwd`, its own writes issued before `id` that have performed nowhere (R102). -/
def State.view (s : State) (ag : Agent) (v : Bool) (a n : Nat) (fwd : Bool) (id : Nat) : ReadRes :=
  let r := s.read v a n
  let d := (s.ops.filter fun o => o.writes v a n && s.seenBy o ag).foldl (overlayOne a) r.data
  let d := if fwd then (s.ops.filter fun o => o.writes v a n && o.agent == ag && o.level == 0 && o.id < id).foldl
      (overlayOne a) d else d
  { r with data := d }

/-- Whether a read of an agent at a scope may perform (R107): the writes of other agents that it would see have performed at
its whole instance of that scope, so that this instance has them in one order. -/
def State.readable (s : State) (ag : Agent) (sc : Nat) (v : Bool) (a n : Nat) : Bool :=
  s.ops.all fun o => !o.writes v a n || o.agent == ag || !s.seenBy o ag || s.doneAt o ag sc

/-- The 4-byte units of a read of `n` bytes that have not been read: offset and size (R96). -/
def unitsLeft (n : Nat) (got : SMap (Option Byte)) : List (Nat × Nat) :=
  ((List.range ((n + 3) / 4)).filter fun i => (SMap.get none got (4 * i)).isNone).map fun i => (4 * i, Nat.min 4 (n - 4 * i))
/-- The units that the next part of a read takes: all for choice 0, else one of them (R96). -/
def pickUnits (c : Nat) (us : List (Nat × Nat)) : List (Nat × Nat) :=
  if c = 0 then us else match us[(c - 1) % us.length]? with
    | some u => [u]
    | none => us
/-- A choice between whole and torn, for an access of more than one unit. -/
def State.chooseTorn (s : State) (n : Nat) : Nat × State := if n ≤ 4 then (0, s) else s.choose
/-- Puts read bytes at an offset. -/
def gotBytes (got : SMap (Option Byte)) : Nat → List Byte → SMap (Option Byte)
  | _, [] => got
  | off, b :: bs => gotBytes (got.insert off (some b)) (off + 1) bs
/-- The bytes of a read that is complete. -/
def gotAll (n : Nat) (got : SMap (Option Byte)) : List Byte := tab n fun i => (SMap.get none got i).getD 0

/-- The writes in flight that an agent observes (R108). -/
def State.observed (s : State) (ag : Agent) : List Nat :=
  (s.ops.filter fun o => o.kind == .write && o.agent != ag && s.seenBy o ag).map (·.id)

/-- What observing writes adds to orders that hold read `id`, cumulatively (R108). -/
def addSeen (id : Nat) (vis : List Nat) (ds : List Dep) : List Dep :=
  ds ++ (ds.filter fun d => d.op == id && d.cum).flatMap fun d => cumDeps d.scope vis

/-- Changes the orders an engine has taken over. -/
def EngSt.mapDeps (f : List Dep → List Dep) (x : EngSt) : EngSt := { x with deps := f x.deps, tdeps := f x.tdeps }
/-- Changes the orders of a sidecar core. -/
def SideCore.mapDeps (f : List Dep → List Dep) (x : SideCore) : SideCore :=
  { x with onR := f x.onR, onW := f x.onW, onI := f x.onI, onO := f x.onO }
/-- Changes every list of orders that a piece holds. -/
def Piece.mapDeps (f : List Dep → List Dep) (p : Piece) : Piece :=
  { p with
    s := p.s.mapDeps f, c := p.c.mapDeps f, m := p.m.mapDeps f, f := p.f.mapDeps f
    fenceR := f p.fenceR, fenceW := f p.fenceW, relDeps := f p.relDeps
    tacks := p.tacks.map fun kv => (kv.1, kv.2.map f)
    qloads := p.qloads.map fun q => { q with deps := f q.deps }
    slots := p.slots.map fun kv => (kv.1, { kv.2 with deps := f kv.2.deps })
    gives := p.gives.map fun g => (g.1, f g.2)
    blk := { p.blk with edges := p.blk.edges.map fun kv =>
      (kv.1, { kv.2 with kset := kv.2.kset.map fun k => k.map fun g => (g.1, f g.2) }) } }
/-- Changes every list of orders. -/
def State.mapDeps (f : List Dep → List Dep) (s : State) : State :=
  { s with
    ops := s.ops.map fun (o : MemOp) => { o with deps := f o.deps }
    barEvs := s.barEvs.map fun (b : BarEvent) => { b with deps := f b.deps }
    side := s.side.map fun kv => (kv.1, kv.2.mapDeps f)
    pieces := s.pieces.map fun kv => (kv.1, kv.2.mapDeps f) }

/-- Writes observed, as the piece of an agent keeps them for its later releases. -/
def Piece.addSeen (ag : Agent) (keep : Nat → Bool) (vis : List Nat) (p : Piece) : Piece :=
  match ag with
  | .thread _ => { p with seen := p.seen.filter keep ++ vis }
  | _ => { p with seenE := p.seenE.filter keep ++ vis }

/-- A read of an agent performs: what it observed is before all that is ordered after the read cumulatively, and before the
agent's later releases and tacks (R104, R108). -/
def State.noteSeen (s : State) (ag : Agent) (id : Nat) : State :=
  let vis := s.observed ag
  if vis.isEmpty then s
  else
    let s := s.mapDeps (addSeen id vis)
    match ag with
    | .sidecar c =>
      let x := SMap.get ({} : SideCore) s.side c
      { s with side := s.side.insert c { x with seen := (x.seen.filter fun w => !s.opDone w 4) ++ vis } }
    | _ =>
      let k := match ag with
        | .thread p => p
        | .engines p => p
        | _ => 2 ^ 64
      { s with pieces := s.pieces.map fun kv =>
          if kv.1 = k then (kv.1, kv.2.addSeen ag (fun w => !s.opDone w 4) vis) else kv }

/-- Takes an operation out of flight. -/
def State.dropOp (s : State) (id : Nat) : State := { s with ops := s.ops.filter fun o => o.id != id }

/-- A read that performs at once, at a word of the acting thread (R108); the word's tack hands the writes observed over (R104). -/
def State.readNow (s : State) : State :=
  let ag := Agent.thread s.focusP
  let vis := s.observed ag
  (s.noteSeen ag s.opCount).modPiece fun p => { p with relDeps := p.relDeps ++ cumDeps 2 vis }

/-- Whether a write in flight that has performed somewhere overlaps a range: a read-modify-write waits for it. -/
def State.contended (s : State) (v : Bool) (a n : Nat) : Bool := s.ops.any fun o => o.writes v a n && o.level != 0

/-! ## How a write performs -/

/-- Whether the writes earlier in coherence order let `o` perform at a scope instance: those that overlap it and have
performed anywhere have performed there (R106). -/
def State.coherent (s : State) (o : MemOp) (sc : Nat) : Bool :=
  (s.ops.takeWhile fun w => o.level == 0 || w.id != o.id).all fun w =>
    w.id == o.id || w.level == 0 || !w.writes o.vault o.addr o.data.length
      || (s.inInst o.agent w.agent (w.level - 1) && (sc + 1 ≤ w.level || w.level == 5))

/-- Whether a request has been sent. -/
def State.wasSent (s : State) (id : Nat) : Bool := s.links.requests.any fun r => r.id == id

/-- The line of an operation. -/
def MemOp.line (o : MemOp) : Nat := lineBase o.vault o.addr

/-- The writes that may go as one with a write: those of the same S word, or of the same stream or drain, to the same line,
with the same key, that nothing holds back and that have not been sent (R287, R290, R368). -/
def State.mates (s : State) (o : MemOp) : List MemOp :=
  s.ops.filter fun w => w.kind == .write && w.remote == o.remote && w.agent == o.agent && w.slot == o.slot
    && (w.word == o.word && (o.word.isSome || o.agent == .engines o.piece) || w.id == o.id)
    && w.key == o.key && w.vault == o.vault && w.line == o.line && w.via.isNone && !s.wasSent w.id && s.depsMet w.deps

/-- The bytes of a line of `n` bytes that writes fill, and which of them. -/
def lineOfWrites (n line : Nat) (os : List MemOp) : List Byte × Nat :=
  (tab n fun i => os.foldl (fun (b : Byte) o =>
      if o.addr ≤ line + i && line + i < o.addr + o.data.length then nth 0 o.data (line + i - o.addr) else b) 0,
   ofBits (tab n fun i => os.any fun o => decide (o.addr ≤ line + i) && decide (line + i < o.addr + o.data.length)))

/-- Whether the stream or drain that writes a line is still writing: it was served in this cycle or the last. -/
def State.filling (s : State) (o : MemOp) : Bool :=
  match o.agent with
  | .engines p =>
    if o.slot < 64 then
      let x := SMap.get ({} : Stream) (s.pieceOf p).slots o.slot
      x.st == .running && (match x.last with
        | some t => decide (s.time ≤ t + 1)
        | none => false)
    else !(s.pieceOf p).mx.drains.isEmpty
  | _ => false

/-- A write reaches memory: the merge at the system instance. A partial write to a PROT line whose tag fails writes
nothing and raises INTEGRITY at the writer (R372). -/
def State.merge (s : State) (o : MemOp) : State :=
  let a := if o.vault then o.addr else o.addr % 2 ^ 45
  let s := if o.data.length = lineSize o.vault then s else s.detect o.vault a o.data.length
  match s.write o.vault a o.data with
  | some t => t
  | none =>
    let unit := match o.agent with
      | .thread _ => 0
      | _ => 5
    let r : TrapRec := { code := cINTEGRITY, unit := unit, async := true, val := o.va,
                         loc := BitVec.ofNat 64 (s.fullPa a + s.protKey a * 2 ^ 56) }
    { s with pieces := s.pieces.map fun kv => if kv.1 = o.piece then (kv.1, kv.2.raise r) else kv }

/-- A write performs at system scope. Where its line is held as ciphertext, or is poisoned, writes that fill the line reach memory
together, as a write of the whole line (R290, R368); one of a stream or drain that goes on filling the line waits. -/
def State.mergeLine (s : State) (o : MemOp) : State :=
  let l := if o.vault then o.line else o.line % 2 ^ 45
  if SMap.get false s.poison (lineKey o.vault l) || (!o.vault && s.prot l) then
    let ms := s.mates o
    let w := lineOfWrites (lineSize o.vault) o.line ms
    if w.2 = 2 ^ lineSize o.vault - 1 && ms.all (fun m => s.coherent m 4) then
      (ms.foldl (fun s m => s.dropOp m.id) s).merge { o with addr := o.line, data := w.1 }
    else if s.filling o then s
    else (s.dropOp o.id).merge o
  else (s.dropOp o.id).merge o

/-- A write performs at the instance of a scope of its agent, and at every instance inside it (R95). The first time,
it takes its place at the end of the coherence order. -/
def State.performWrite (s : State) (o : MemOp) (sc : Nat) : State :=
  if o.level = 5 || sc + 1 ≤ o.level || !s.depsMet o.deps || !s.coherent o sc then s
  else if 4 ≤ sc then s.mergeLine o
  else
    let o' := { o with level := sc + 1 }
    if o.level = 0 then { s with ops := (s.ops.filter fun w => w.id != o.id) ++ [o'] }
    else { s with ops := s.ops.map fun w => if w.id = o.id then o' else w }

end Sys2Proof.Machine
end

