-- ==== Sys2Proof/Machine/SMem.lean ====
section
/-! DEFINITION. The S words that move data through memory: loads and stores (R175), queue loads and stores
(R176 to R178, R359), atomics and compare-and-swap (R184, R185). -/

namespace Sys2Proof.Machine

/-! ## Addresses of S accesses -/

/-- Where an S access goes: a place, with its memory pair where it is remote and, for the face of a turned page, its entry and
the place in the buffer; or what the word comes to instead. -/
inductive SAdr where
  | ok (s : State) (vault : Bool) (addr key : Nat) (pair : Option Nat) (face : Option (Nat × Nat))
  | res (r : Res)

/-- The requests outstanding on a memory pair, sent or not (R286): the writes of one stream to one line are one (R287). -/
def State.outstanding (s : State) (pair : Nat) : Nat :=
  let os := s.ops.filter fun o => o.remote == some pair && o.via.isNone
  let ag := os.filter fun o => o.slot < 64 && o.kind == .write && !s.wasSent o.id
  (os.length - ag.length) + (ag.map fun o => o.line * 64 + o.slot).eraseDups.length
/-- Whether requests on these pairs may be added to those outstanding (R286). -/
def State.roomFor (s : State) (pairs : List Nat) : Bool := pairs.all fun n => s.outstanding n + pairs.count n ≤ 64

/-- The checks of R166 on an S access, the binding of a remote one (R67, R286, R394). -/
def State.sAddr (s : State) (adr : W64) (size : Nat) (a : Acc) : SAdr :=
  match s.checkAddr adr size a with
  | .bad s c l => .res (.trap s c adr l)
  | .held s => .res (.hold s)
  | .place s v pa key _ face =>
    if v then .ok s true pa key none none
    else if pa / 2 ^ 45 = s.hub.pkg.toNat then .ok s false (pa % 2 ^ 45) key none face
    else
      match s.memBinding (pa / 2 ^ 45) with
      | none => .res (.trap s cWALL adr 0)
      | some (pair, lost) =>
        if lost then .res (.trap s cLINK_LOST adr (BitVec.ofNat 64 pair))
        else if 64 ≤ s.outstanding pair then .res (.hold s)
        else .ok s false pa key (some pair) face

/-- The knot an S word ties: its own field or the prefix's (R93). -/
def OrdScope.tied (os : OrdScope) (kt : Nat) : Nat := if kt != 0 then kt else os.kt

/-- Ties every operation handed out since number `n` (R94). -/
def State.sIssueFrom (s : State) (os : OrdScope) (kt n : Nat) (isRead : Bool) : State :=
  (tab (s.opCount - n) (n + ·)).foldl (fun s id => s.sIssue os kt id isRead) s

/-- The trap of a read whose PROT line fails its tag check (R372). -/
def integTrap (s : State) (adr : W64) (l : Nat) : Res := .trap s cINTEGRITY adr (BitVec.ofNat 64 (s.fullPa l + s.protKey l * 2 ^ 56))

/-! ## Loads -/

/-- The value a load writes. -/
def extendLoad (sext : Bool) (d : List Byte) : W64 :=
  if sext then BitVec.ofInt 64 (sgn (8 * d.length) (ofBytes d)) else BitVec.ofNat 64 (ofBytes d)

/-- Whether every remote read S waits for has been answered. -/
def State.answered (s : State) (ids : List Nat) : Bool := ids.all fun id => match s.opOf id with
  | some o => o.level == 5
  | none => true

/-- The first refused read among those S waits for: cause, address, TLOC. -/
def State.refused (s : State) (ids : List Nat) : Option (Nat × W64 × W64) :=
  ids.findSome? fun id => match s.opOf id with
    | some o => o.fail.map fun f => (f.1, o.va, f.2)
    | none => none

/-- Drops answered reads and leaves the wait. -/
def State.dropReads (s : State) (ids : List Nat) : State :=
  (ids.foldl State.dropOp s).modPiece fun p => { p with await := .none }

/-- The bytes of an answered read. -/
def State.readBytes (s : State) (id : Nat) : List Byte := match s.opOf id with
  | some o => o.data
  | none => []

/-- Whether an access to the face of a turned page resolves when its word issues, or only when it performs (R112): not before
its orders are met, and otherwise as the next choice says. -/
def State.chooseFace (s : State) (deps : List Dep) (face : Option (Nat × Nat)) : Option (Nat × Nat) × State :=
  if face.isNone then (none, s)
  else
    let (c, s) := s.choose
    (if s.depsMet deps && c = 0 then none else face, s)

/-- A load is sent (R164, R175). A remote one holds S at its word until its reply (R365), or, where the choice says
so, retires when sent (log 17, DESIGN CHOICE). A load of the hub window is relaxed, at system scope (R68). -/
def State.sendLoad (s : State) (d : BitVec 5) (kw kt : BitVec 3) (adr : W64) (size : Nat) (sext : Bool) (v : Bool)
    (pa key : Nat) (pair : Option Nat) (face : Option (Nat × Nat)) : Res :=
  let os := s.piece.ordScope
  let os := if !v && pair.isNone && inHubWin pa then { os with ord := 0, scope := 4 } else os
  let deps := s.sDeps os kw.toNat false
  let hand := s.sTack os kw.toNat false
  let (turned, s) := s.chooseFace deps face
  let (c, s) := if turned.isNone && pair.isSome then s.choose else (0, s)
  let o := { blankOp s.focusP (.thread s.focusP) .read v pa adr size with
             rd := d.toNat, sext := sext, ord := os.ord, scope := os.scope, key := key, deps := deps
             remote := if turned.isSome then none else pair, turned := turned }
  let id := s.opCount
  let s := ((s.addOp o).sIssue os kt.toNat id true).sRelease hand
  if turned.isNone && pair.isSome && c = 0 then .hold (s.modPiece fun p => { p with await := .load [id] })
  else .done (s.modPiece (·.pendReg d id))

/-- The loads (R175). -/
def State.sLoad (s : State) (d ra : BitVec 5) (kw kt : BitVec 3) (size : Nat) (sext : Bool) : Res :=
  let adr := s.piece.reg ra
  match s.piece.await with
  | .load ids =>
    if !s.answered ids then .hold s
    else match s.refused ids with
      | some (c, a, l) => .trap (s.dropReads ids) c a l
      | none =>
        let v := extendLoad sext ((ids.map s.readBytes).flatten)
        .done ((s.dropReads ids).modPiece (·.setReg d v))
  | _ =>
    if s.knotFull (s.piece.ordScope.tied kt.toNat) 1 then .hold s
    else
      match s.sAddr adr size { write := false, turned := .face, stack := true, hub := size == 8 } with
      | .res r => r
      | .ok s v pa key pair face =>
        match (if pair.isSome then none else (s.read v pa size).integ) with
        | some l => integTrap s adr l
        | none => s.sendLoad d kw kt adr size sext v pa key pair face

/-- The meaning of every load word. -/
def State.runLoad (s : State) (i : Instr) (t : BitVec 4) (d a : BitVec 5) (kw kt : BitVec 3) (size : Nat) (sext : Bool) :
    Host.Outcome State Fault Refusal :=
  s.runS i t 2 (Piece.ktClash kt) [a] fun s => s.sLoad d a kw kt size sext

/-- `s.ld.b` (R175). -/
def execSLdB (t : BitVec 4) (d a : BitVec 5) (kw kt : BitVec 3) (s : State) : Host.Outcome State Fault Refusal :=
  s.runLoad (.sLdB t d a kw kt) t d a kw kt 1 true
/-- `s.ld.h` (R175). -/
def execSLdH (t : BitVec 4) (d a : BitVec 5) (kw kt : BitVec 3) (s : State) : Host.Outcome State Fault Refusal :=
  s.runLoad (.sLdH t d a kw kt) t d a kw kt 2 true
/-- `s.ld.w` (R175). -/
def execSLdW (t : BitVec 4) (d a : BitVec 5) (kw kt : BitVec 3) (s : State) : Host.Outcome State Fault Refusal :=
  s.runLoad (.sLdW t d a kw kt) t d a kw kt 4 true
/-- `s.ld.d` (R175). -/
def execSLdD (t : BitVec 4) (d a : BitVec 5) (kw kt : BitVec 3) (s : State) : Host.Outcome State Fault Refusal :=
  s.runLoad (.sLdD t d a kw kt) t d a kw kt 8 false
/-- `s.ld.bu` (R175). -/
def execSLdBu (t : BitVec 4) (d a : BitVec 5) (kw kt : BitVec 3) (s : State) : Host.Outcome State Fault Refusal :=
  s.runLoad (.sLdBu t d a kw kt) t d a kw kt 1 false
/-- `s.ld.hu` (R175). -/
def execSLdHu (t : BitVec 4) (d a : BitVec 5) (kw kt : BitVec 3) (s : State) : Host.Outcome State Fault Refusal :=
  s.runLoad (.sLdHu t d a kw kt) t d a kw kt 2 false
/-- `s.ld.wu` (R175). -/
def execSLdWu (t : BitVec 4) (d a : BitVec 5) (kw kt : BitVec 3) (s : State) : Host.Outcome State Fault Refusal :=
  s.runLoad (.sLdWu t d a kw kt) t d a kw kt 4 false

/-! ## Stores -/

/-- A write of the hub window is handed to the hub: relaxed at system scope (R68), but a write of a notify register is a
release at system scope (R113). -/
def State.hubStore (s : State) (os : OrdScope) (kw kt : Nat) (adr : W64) (pa : Nat) (v : W64) : Res :=
  let off := pa - 2 ^ 42
  if !s.threadMayWrite off then .trap s cWALL adr 0
  else
    let os' := if isNotifyOff off then { os with ord := 2, scope := 4 } else { os with ord := 0, scope := 4 }
    let deps := s.sDeps os' kw true
    let hand := s.sTack os' kw true
    let id := s.opCount
    let s := s.addOp { blankOp s.focusP (.thread s.focusP) .notify false pa adr 8 with
                       data := bytesOf 8 v.toNat, ord := os'.ord, scope := 4, deps := deps }
    .done ((s.sIssue os' kt id false).sRelease hand)

/-- The stores (R175). -/
def State.sStore (s : State) (d ra : BitVec 5) (kw kt : BitVec 3) (size : Nat) : Res :=
  let adr := s.piece.reg ra
  let v := s.piece.reg d
  let os := s.piece.ordScope
  if s.knotFull (os.tied kt.toNat) 1 then .hold s
  else
    match s.sAddr adr size { write := true, stack := true, hub := size == 8 } with
    | .res r => r
    | .ok s vt pa key pair _ =>
      if !vt && pair.isNone && inHubWin pa then s.hubStore os kw.toNat kt.toNat adr pa v
      else
        let deps := s.sDeps os kw.toNat true
        let hand := s.sTack os kw.toNat true
        let n := s.opCount
        let s := s.addWrite { blankOp s.focusP (.thread s.focusP) .write vt pa adr size with
                              data := bytesOf size v.toNat, ord := os.ord, scope := os.scope, deps := deps, remote := pair
                              key := key }
        .done ((s.sIssueFrom os kt.toNat n false).sRelease hand)

/-- The meaning of every store word. -/
def State.runStore (s : State) (i : Instr) (t : BitVec 4) (d a : BitVec 5) (kw kt : BitVec 3) (size : Nat) :
    Host.Outcome State Fault Refusal :=
  s.runS i t 2 (Piece.ktClash kt) [a, d] fun s => s.sStore d a kw kt size

/-- `s.st.b` (R175). -/
def execSStB (t : BitVec 4) (d a : BitVec 5) (kw kt : BitVec 3) (s : State) : Host.Outcome State Fault Refusal :=
  s.runStore (.sStB t d a kw kt) t d a kw kt 1
/-- `s.st.h` (R175). -/
def execSStH (t : BitVec 4) (d a : BitVec 5) (kw kt : BitVec 3) (s : State) : Host.Outcome State Fault Refusal :=
  s.runStore (.sStH t d a kw kt) t d a kw kt 2
/-- `s.st.w` (R175). -/
def execSStW (t : BitVec 4) (d a : BitVec 5) (kw kt : BitVec 3) (s : State) : Host.Outcome State Fault Refusal :=
  s.runStore (.sStW t d a kw kt) t d a kw kt 4
/-- `s.st.d` (R175). -/
def execSStD (t : BitVec 4) (d a : BitVec 5) (kw kt : BitVec 3) (s : State) : Host.Outcome State Fault Refusal :=
  s.runStore (.sStD t d a kw kt) t d a kw kt 8

/-! ## Queue words: the queue named -/

/-- TVAL of a queue trap (R409): queue number, class (0 q, 1 y, 2 bq), and the element's x and y. -/
def queueVal (cls n x y : Nat) : W64 := BitVec.ofNat 64 (n % 256 + cls * 256 + x * 2 ^ 16 + y * 2 ^ 20)

/-- A q queue's occupancy counts reserved entries; it holds 16 (R27, R28). -/
def Piece.qFull (p : Piece) (n : Nat) : Bool := 16 ≤ (p.qOf n).length
/-- A y queue is full at 16 tokens. -/
def Piece.yFull (p : Piece) (n : Nat) : Bool := 16 ≤ (p.yOf n).length

/-- The wait of an S word at a full q queue, or its trap (R29, R30, R180, R201). -/
def State.qFullWait (s : State) (q : Nat) : Res :=
  if bitAt s.piece.sys.qtrap.toNat q then .trap s cQUEUE_FULL (queueVal 0 q 0 0) 0
  else .wait (s.modPiece fun p => (p.lodOnce .full).count 8 1)

/-- The wait of an S word at an empty y queue, or its trap. -/
def State.yEmptyWait (s : State) (y : Nat) : Res :=
  if bitAt s.piece.sys.qtrap.toNat (32 + y) then .trap s cQUEUE_EMPTY (queueVal 1 y 0 0) 0
  else .wait (s.modPiece fun p =>
    let p := (p.lodOnce .pop).count 9 1
    { p with s := { p.s with waitQ := true } })

/-! ## Queue loads -/

/-- The control word of a queue load or store (R176): STRIDE, FMT, SWZ. -/
structure QCtl where
  stride : Int
  fmt    : Nat
  swz    : Nat
deriving DecidableEq, Repr

/-- Reads a control word. -/
def qctl (v : W64) : QCtl := { stride := sgn 32 v.toNat, fmt := bits v.toNat 32 4, swz := bits v.toNat 36 3 }

/-- Whether a queue word refuses a format (R125, R176): no format, ec8, or 4 bits where single elements are named. -/
def QCtl.bad (c : QCtl) (single : Bool) : Bool := !(c.fmt < 10) || (single && fmtBits c.fmt == 4)

/-- Bytes a single element occupies, at least one. -/
def elemBytes (fmt : Nat) : Nat := Nat.max 1 (fmtBits fmt / 8)

/-- An address offset by a signed number of bytes. -/
def addrPlus (a : W64) (d : Int) : W64 := a + BitVec.ofInt 64 d

/-- The lanes of `s.qld`, from one checked address (R177): lane, address formed, offset in bytes, high half. -/
def qldLanes (a : W64) (fmt : Nat) : List QLane :=
  tab 16 fun i => { lane := i, vault := false, addr := i * fmtBits fmt / 8, hi := fmtBits fmt == 4 && i % 2 == 1
                    va := a + BitVec.ofNat 64 (i * fmtBits fmt / 8) }

/-- A place after the swizzle: only vault addresses take it (R176). -/
def swzPlace (v : Bool) (swz a : Nat) : Nat := if v then swizzle swz a else a

/-- What checking the lanes of a queue load comes to: the lanes with their places, and of each remote read its pair, physical
address, key and address formed. -/
inductive QAdr where
  | ok (s : State) (lanes : List QLane) (rem : List (Nat × Nat × Nat × W64))
  | res (r : Res)

/-- Checks the lanes of a queue load in lane order (R177); the remote ones are marked with a read. -/
def State.qCheck (size swz : Nat) : List QLane → State → QAdr
  | [], s => .ok s [] []
  | l :: ls, s =>
    match s.sAddr l.va size { write := false, turned := .face } with
    | .res r => .res r
    | .ok s v pa key pair face =>
      match (if pair.isSome then none else (s.read v (swzPlace v swz pa) size).integ) with
      | some x => .res (integTrap s l.va x)
      | none =>
        match State.qCheck size swz ls s with
        | .res r => .res r
        | .ok s out rem =>
          match pair with
          | none => .ok s ({ l with vault := v, addr := swzPlace v swz pa, turned := face, key := key } :: out) rem
          | some n => .ok s ({ l with addr := 0, op := some 0, turned := face, key := key } :: out) ((n, pa, key, l.va) :: rem)

/-- The lanes of `s.qld` after the check of the whole block (R177), which `x` gives: a local block is read through its swizzle, a
remote one in one read. The place of a lane is its offset before. -/
def spreadLanes (swz : Nat) (x : QLane) (ls : List QLane) : List QLane :=
  ls.map fun l => { l with
    vault := x.vault, addr := if x.op.isSome then l.addr else swzPlace x.vault swz (x.addr + l.addr), op := x.op
    key := x.key, turned := x.turned.map fun f => (f.1, f.2 + l.addr) }

/-- Gives the lanes marked as remote the numbers of their reads, from `n` on; `one` where a single read serves all. -/
def numberLanes (one : Bool) : Nat → List QLane → List QLane
  | _, [] => []
  | n, l :: ls => if l.op.isSome then { l with op := some n } :: numberLanes one (if one then n else n + 1) ls
                  else l :: numberLanes one n ls

/-- Sends remote reads of a word of the acting thread. -/
def State.sendReads (s : State) (os : OrdScope) (size : Nat) (deps : List Dep) (rem : List (Nat × Nat × Nat × W64)) : State :=
  rem.foldl (fun s r =>
    s.addOp { blankOp s.focusP (.thread s.focusP) .read false r.2.1 r.2.2.2 size with
              ord := os.ord, scope := os.scope, key := r.2.2.1, remote := some r.1, deps := deps }) s

/-- The load enters its queue: one entry is reserved (R28), and its remote reads are sent. S goes on, or, where a read is remote,
waits for the replies, as the next choice says (log 17, DESIGN CHOICE). -/
def State.qReserve (s : State) (q : Nat) (fmt size : Nat) (lanes : List QLane) (rem : List (Nat × Nat × Nat × W64)) (one : Bool)
    (os : OrdScope) : Res :=
  let deps := s.sDeps os 0 false
  let hand := s.sTack os 0 false
  let (keep, s) := s.chooseFace deps (lanes.findSome? (·.turned))
  let late := keep.isSome
  let n := s.opCount
  let s := if late then s else s.sendReads os size deps rem
  let lanes := lanes.map fun l => if l.turned.isNone then l else if late then { l with op := none } else { l with turned := none }
  let lanes := numberLanes one n lanes
  let id := s.opCount
  let s := { s with opCount := id + 1 }
  let s := s.modPiece fun p =>
    let p := p.setQ q (p.qOf q ++ [{ rid := id }])
    Piece.count { p with qloads := p.qloads ++ [{ id := id, q := q, fmt := fmt, lanes := lanes, deps := deps
                                                  agent := .thread s.focusP, scope := os.scope }] } 11 1
  let s := (s.sIssue os 0 id true).sRelease hand
  if late || rem.isEmpty then .done s
  else
    let (c, s) := s.choose
    if c = 0 then .hold (s.modPiece fun p => { p with await := .qload id }) else .done s

/-- Sends the remote reads of a word and waits for them. -/
def State.qSend (s : State) (os : OrdScope) (size : Nat) (rem : List (Nat × Nat × Nat × W64)) : Res :=
  let n := s.opCount
  let s := s.sendReads os size (s.sDeps os 0 false) rem
  .hold (s.modPiece fun p => { p with await := .load (tab rem.length (n + ·)) })

/-- S waits at a queue load for its remote reads (R365): one that was refused makes the word trap, with no entry taken. -/
def State.qAwait (s : State) (id : Nat) : Res :=
  match s.piece.qloads.find? fun q => q.id == id with
  | none => .done (s.modPiece fun p => { p with await := .none })
  | some q =>
    let ids := q.lanes.filterMap (·.op)
    if !s.answered ids then .hold s
    else match s.refused ids with
      | some (c, a, l) => .trap ((s.dropReads ids).modPiece (·.dropQload id)) c a l
      | none => .done (s.modPiece fun p => { p with await := .none })

/-- The queue loads once the queue has room (R177). `lanes` are the lanes with the addresses formed, `block` the size of
the one check of `s.qld`. -/
def State.qLoadAt (s : State) (q : Nat) (c : QCtl) (lanes : List QLane) (block : Option (W64 × Nat)) : Res :=
  let os := s.piece.ordScope
  let size := elemBytes c.fmt
  if s.knotFull os.kt (lanes.map fun l => l.va.toNat / 4).eraseDups.length then .hold s
  else
    match block with
    | some (a, n) =>
      match State.qCheck n 0 [{ lane := 0, vault := false, addr := 0, hi := false, va := a }] s with
      | .res r => r
      | .ok s l rem =>
        match l with
        | x :: _ => s.qReserve q c.fmt n (spreadLanes c.swz x lanes) rem true os
        | [] => .wait s
    | none =>
      match State.qCheck size c.swz lanes s with
      | .res r => r
      | .ok s l rem => if s.roomFor (rem.map (·.1)) then s.qReserve q c.fmt size l rem false os else .hold s

/-- The meaning of every queue load word (R176, R177). -/
def State.runQLoad (s : State) (i : Instr) (t : BitVec 4) (q : BitVec 5) (a b : BitVec 5) (single : Bool)
    (lanes : W64 → QCtl → List QLane) (block : W64 → QCtl → Option (W64 × Nat)) : Host.Outcome State Fault Refusal :=
  s.step5 0 i t (s.qfmt q.toNat == 0) <|
  s.runS i t 2 anyLevel [a, b] fun s =>
    let c := qctl (s.piece.reg b)
    let n := q.toNat
    match s.piece.await with
    | .qload id => s.qAwait id
    | _ =>
      if c.bad single || s.qfmt n = 2 then .trap s cFORMAT (wordOf i) 0
      else if s.piece.qFull n then s.qFullWait n
      else s.qLoadAt n c (lanes (s.piece.reg a) c) (block (s.piece.reg a) c)

/-- `s.qld` (R177): 16 consecutive elements, aligned to their whole size. -/
def execSQld (t : BitVec 4) (q : BitVec 5) (a b : BitVec 5) (s : State) : Host.Outcome State Fault Refusal :=
  s.runQLoad (.sQld t q a b) t q a b false (fun r c => qldLanes r c.fmt) fun r c => some (r, 2 * fmtBits c.fmt)

/-- `s.qld1` (R177): one element in lane 0. -/
def execSQld1 (t : BitVec 4) (q : BitVec 5) (a b : BitVec 5) (s : State) : Host.Outcome State Fault Refusal :=
  s.runQLoad (.sQld1 t q a b) t q a b true
    (fun r _ => [{ lane := 0, vault := false, addr := 0, hi := false, va := r }]) fun _ _ => none

/-- `s.qlds` (R177): 16 elements at a stride. -/
def execSQlds (t : BitVec 4) (q : BitVec 5) (a b : BitVec 5) (s : State) : Host.Outcome State Fault Refusal :=
  s.runQLoad (.sQlds t q a b) t q a b true
    (fun r c => tab 16 fun i => { lane := i, vault := false, addr := 0, hi := false, va := addrPlus r (i * c.stride) })
    fun _ _ => none

/-- The storage element in the bytes read for a lane. -/
def laneElem (fmt : Nat) (hi : Bool) (d : List Byte) : Nat :=
  if fmtBits fmt = 4 then (if hi then ofBytes d / 16 else ofBytes d) % 16 else ofBytes d

/-- The token a queue load delivers. -/
def qloadToken (vals : List (Nat × Lane)) : Token :=
  { kind := .data, lanes := tab 16 fun i => match vals.find? fun x => x.1 == i with
      | some x => { valid := true, val := x.2 }
      | none => {} }

/-- Fills the reserved entry of a queue load (R28); an entry that `s.qdisc` has removed stays removed (R181). -/
def Piece.fillEntry (p : Piece) (q id : Nat) (t : Token) (pois : Bool) : Piece :=
  { p.setQ q ((p.qOf q).map fun e => if e.rid = id && e.tok.isNone then { rid := 0, tok := some t, pois := pois } else e)
    with moved := true }

/-! ## Queue stores -/

/-- A byte with one half replaced. -/
def setNibble (hi : Bool) (old v : Nat) : Nat := if hi then old % 16 + v % 16 * 16 else old / 16 * 16 + v % 16

/-- What a queue store writes at an address: an element, two 4-bit elements that share a byte, or (`half`) one of them. -/
structure StLane where
  va   : W64
  v    : Nat
  hi   : Bool := false
  half : Bool := false
deriving DecidableEq, Repr

/-- The writes of the first `n` lanes of a token that are valid, in lane order (R127, R178). -/
def stLanes (a : W64) (fmt : Nat) (tk : Token) (n : Nat) : List StLane :=
  let el (i : Nat) : Nat := (narrow fmt (tk.lane i).val).1
  if fmtBits fmt = 4 then
    (List.range (n / 2)).filterMap fun j =>
      let va := a + BitVec.ofNat 64 j
      match (tk.lane (2 * j)).valid, (tk.lane (2 * j + 1)).valid with
      | true, true => some { va := va, v := el (2 * j) % 16 + el (2 * j + 1) % 16 * 16 }
      | true, false => some { va := va, v := el (2 * j), half := true }
      | false, true => some { va := va, v := el (2 * j + 1), hi := true, half := true }
      | false, false => none
  else
    (List.range n).filterMap fun i =>
      if (tk.lane i).valid then some { va := a + BitVec.ofNat 64 (i * fmtBits fmt / 8), v := el i } else none

/-- The flags of a queue store. -/
def stFlags (fmt : Nat) (tk : Token) (n : Nat) : FFlags :=
  (List.range n).foldl (fun f i => if (tk.lane i).valid then f ||| (narrow fmt (tk.lane i).val).2 else f) 0

/-- A write of a queue store with its place: the space, address, key and pair. -/
abbrev StPlace := StLane × Bool × Nat × Nat × Option Nat

/-- Places of lanes to store. -/
inductive StAdr where
  | ok (s : State) (out : List StPlace)
  | res (r : Res)

/-- Checks the lanes of a queue store in lane order. -/
def State.stCheck (size swz : Nat) : List StLane → State → StAdr
  | [], s => .ok s []
  | l :: ls, s =>
    match s.sAddr l.va size { write := true } with
    | .res r => .res r
    | .ok s v pa key pair _ =>
      match State.stCheck size swz ls s with
      | .res r => .res r
      | .ok s out => .ok s ((l, v, swzPlace v swz pa, key, pair) :: out)

/-- Hands out the writes of a queue store, `word` being its first; half a byte is merged with the byte present, which a remote
read has brought for those in `olds` (log 18, DEDUCED). -/
def State.stWrites (os : OrdScope) (size : Nat) (deps : List Dep) (word : Nat) : List StPlace → List Nat → State → State
  | [], _, s => s
  | (l, v, pa, key, pair) :: ls, olds, s =>
    let far := l.half && pair.isSome
    let old := if far then olds.headD 0 else ofBytes (s.view (.thread s.focusP) v pa 1 true s.opCount).data
    let bytes := if l.half then bytesOf 1 (setNibble l.hi old l.v) else bytesOf size l.v
    State.stWrites os size deps word ls (if far then olds.drop 1 else olds) (s.addWrite
      { blankOp s.focusP (.thread s.focusP) .write v pa l.va size with
        data := bytes, ord := os.ord, scope := os.scope, deps := deps, remote := pair, key := key, word := some word })

/-- A queue store takes effect: its writes are handed out, and the token is popped. `olds` holds the bytes that remote halves
are merged with. -/
def State.stDone (s : State) (y fmt : Nat) (tk : Token) (n : Nat) (out : List StPlace) (olds : List Nat) : Res :=
  let os := s.piece.ordScope
  let deps := s.sDeps os 0 true
  let hand := s.sTack os 0 true
  let k := s.opCount
  let s := State.stWrites os (elemBytes fmt) deps k out olds s
  let s := (s.sIssueFrom os 0 k false).sRelease hand
  let writes := tk.isData || tk.kind == .control
  let lanes := if writes then ((List.range n).filter fun i => (tk.lane i).valid).length else 0
  .done (s.modPiece fun p =>
    Piece.flag (Piece.count { p.setY y ((p.yOf y).drop 1) with moved := true } 13 (lanes * fmtBits fmt / 8))
      .convert (if writes then stFlags fmt tk n else 0))

/-- A queue store with the places of its lanes: a half byte in another package is read first (log 18, DEDUCED). -/
def State.stAt (s : State) (y fmt : Nat) (tk : Token) (n : Nat) (out : List StPlace) : Res :=
  let far := out.filter fun x => x.1.half && x.2.2.2.2.isSome
  match s.piece.await with
  | .load ids =>
    if !s.answered ids then .hold s
    else match s.refused ids with
      | some (c, a, l) => .trap (s.dropReads ids) c a l
      | none => (s.dropReads ids).stDone y fmt tk n out (ids.map fun i => ofBytes (s.readBytes i))
  | _ =>
    if !s.roomFor (out.filterMap (·.2.2.2.2)) then .hold s
    else if far.isEmpty then s.stDone y fmt tk n out []
    else s.qSend s.piece.ordScope 1 (far.map fun x => (x.2.2.2.2.getD 0, x.2.2.1, x.2.2.2.1, x.1.va))

/-- The meaning of every queue store word (R176, R178): `n` lanes of the head token of a y queue. -/
def State.runQStore (s : State) (i : Instr) (t : BitVec 4) (y : BitVec 5) (a b : BitVec 5) (single : Bool) :
    Host.Outcome State Fault Refusal :=
  s.runS i t 2 anyLevel [a, b] fun s =>
    let c := qctl (s.piece.reg b)
    let adr := s.piece.reg a
    let n := if single then 1 else 16
    if c.bad single then .trap s cFORMAT (wordOf i) 0
    else match s.piece.yOf y.toNat with
      | [] => s.yEmptyWait y.toNat
      | tk :: _ =>
        let align := if single then elemBytes c.fmt else 2 * fmtBits c.fmt
        if tk.kind == .sparse && fmtBits c.fmt == 4 then .trap s cFORMAT (wordOf i) 0
        else if adr.toNat % align != 0 then .trap s cMISALIGN adr 0
        else
          let ls := if tk.isData || tk.kind == .control then stLanes adr c.fmt tk n else []
          if s.knotFull s.piece.ordScope.kt ls.length then .hold s
          else match State.stCheck (elemBytes c.fmt) c.swz ls s with
            | .res r => r
            | .ok s out => s.stAt y.toNat c.fmt tk n out

/-- `s.qst` (R178). -/
def execSQst (t : BitVec 4) (y : BitVec 5) (a b : BitVec 5) (s : State) : Host.Outcome State Fault Refusal :=
  s.runQStore (.sQst t y a b) t y a b false
/-- `s.qst1` (R178). -/
def execSQst1 (t : BitVec 4) (y : BitVec 5) (a b : BitVec 5) (s : State) : Host.Outcome State Fault Refusal :=
  s.runQStore (.sQst1 t y a b) t y a b true

/-! ## Atomics -/

/-- The new value of an atomic (R184) by its operation code, on `n` bits. -/
def amoNew (op n old v : Nat) : Nat :=
  match op with
  | 0 => (old + v) % 2 ^ n
  | 1 => old &&& v
  | 2 => old ||| v
  | 3 => old ^^^ v
  | 4 => if sgn n old ≤ sgn n v then old else v
  | 5 => if sgn n v ≤ sgn n old then old else v
  | 6 => Nat.min old v
  | 7 => Nat.max old v
  | 8 => v
  | _ =>
    if n = 32 then (storageFadd 0 old (widen 0 v)).1
    else (List.range 4).foldl (fun r i =>
      r + (storageFadd 2 (bits old (16 * i) 16) (widen 2 (bits v (16 * i) 16))).1 * 2 ^ (16 * i)) 0

/-- The stored value after a read-modify-write, or none where it writes nothing: code 10 is compare-and-swap (R185). -/
def rmwNew (fn n old v : Nat) (cmp : W64) : Option Nat :=
  if fn = 10 then (if old = cmp.toNat % 2 ^ n then some v else none) else some (amoNew fn n old v)

/-- An atomic word (R164, R184, R185): its request is handed over, its register written when it performs. -/
def State.sAtomic (s : State) (d ra b : BitVec 5) (dbl : Bool) (fn : Nat) : Res :=
  let adr := s.piece.reg ra
  let os := s.piece.ordScope
  let size := if dbl then 8 else 4
  if s.knotFull os.kt 1 then .hold s
  else
    match s.sAddr adr size { write := true, host := false, stack := true } with
    | .res r => r
    | .ok s v pa key pair _ =>
      match (if pair.isSome then none else (s.read v pa size).integ) with
      | some l => integTrap s adr l
      | none =>
        let deps := s.sDeps os 0 true
        let hand := s.sTack os 0 true
        let id := s.opCount
        let s := s.addOp { blankOp s.focusP (.thread s.focusP) .rmw v pa adr size with
                           data := bytesOf size (s.piece.reg b).toNat, rd := d.toNat, sext := !dbl, fn := fn
                           cmp := s.piece.reg d, ord := os.ord, scope := os.scope, deps := deps, remote := pair, key := key }
        .done (((s.sIssue os 0 id true).sRelease hand).modPiece (·.pendReg d id))

/-- The meaning of every atomic word. -/
def State.runAmo (s : State) (i : Instr) (t : BitVec 4) (d a b : BitVec 5) (z : BitVec 1) (fn : Nat) :
    Host.Outcome State Fault Refusal :=
  s.runS i t 2 anyLevel (if fn = 10 then [a, b, d] else [a, b]) fun s => s.sAtomic d a b (z = 1) fn

/-- `s.amo.add` (R184). -/
def execSAmoAdd (t : BitVec 4) (d a b : BitVec 5) (w : BitVec 1) (s : State) : Host.Outcome State Fault Refusal :=
  s.runAmo (.sAmoAdd t d a b w) t d a b w 0
/-- `s.amo.and` (R184). -/
def execSAmoAnd (t : BitVec 4) (d a b : BitVec 5) (w : BitVec 1) (s : State) : Host.Outcome State Fault Refusal :=
  s.runAmo (.sAmoAnd t d a b w) t d a b w 1
/-- `s.amo.or` (R184). -/
def execSAmoOr (t : BitVec 4) (d a b : BitVec 5) (w : BitVec 1) (s : State) : Host.Outcome State Fault Refusal :=
  s.runAmo (.sAmoOr t d a b w) t d a b w 2
/-- `s.amo.xor` (R184). -/
def execSAmoXor (t : BitVec 4) (d a b : BitVec 5) (w : BitVec 1) (s : State) : Host.Outcome State Fault Refusal :=
  s.runAmo (.sAmoXor t d a b w) t d a b w 3
/-- `s.amo.min` (R184). -/
def execSAmoMin (t : BitVec 4) (d a b : BitVec 5) (w : BitVec 1) (s : State) : Host.Outcome State Fault Refusal :=
  s.runAmo (.sAmoMin t d a b w) t d a b w 4
/-- `s.amo.max` (R184). -/
def execSAmoMax (t : BitVec 4) (d a b : BitVec 5) (w : BitVec 1) (s : State) : Host.Outcome State Fault Refusal :=
  s.runAmo (.sAmoMax t d a b w) t d a b w 5
/-- `s.amo.minu` (R184). -/
def execSAmoMinu (t : BitVec 4) (d a b : BitVec 5) (w : BitVec 1) (s : State) : Host.Outcome State Fault Refusal :=
  s.runAmo (.sAmoMinu t d a b w) t d a b w 6
/-- `s.amo.maxu` (R184). -/
def execSAmoMaxu (t : BitVec 4) (d a b : BitVec 5) (w : BitVec 1) (s : State) : Host.Outcome State Fault Refusal :=
  s.runAmo (.sAmoMaxu t d a b w) t d a b w 7
/-- `s.amo.swap` (R184). -/
def execSAmoSwap (t : BitVec 4) (d a b : BitVec 5) (w : BitVec 1) (s : State) : Host.Outcome State Fault Refusal :=
  s.runAmo (.sAmoSwap t d a b w) t d a b w 8
/-- `s.amo.fadd` (R184). -/
def execSAmoFadd (t : BitVec 4) (d a b : BitVec 5) (w : BitVec 1) (s : State) : Host.Outcome State Fault Refusal :=
  s.runAmo (.sAmoFadd t d a b w) t d a b w 9
/-- `s.cas` (R185). -/
def execSCas (t : BitVec 4) (d a b : BitVec 5) (w : BitVec 1) (s : State) : Host.Outcome State Fault Refusal :=
  s.runAmo (.sCas t d a b w) t d a b w 10

end Sys2Proof.Machine
end

