-- ==== Sys2Proof/Machine/SQueue.lean ====
section
/-! DEFINITION. The S words that read and change queues directly (R179 to R181). -/

namespace Sys2Proof.Machine

/-- A queue word that names a queue the record declares unused is refused (R176). -/
def State.unusedQ (s : State) (q : Nat) : Bool := s.qfmt q == 0

/-- `s.qpop` and `s.qpeek` (R179, R180). -/
def State.qTake (s : State) (y : Nat) (a b : BitVec 5) (pop : Bool) : Res :=
  let sel := s.piece.reg b
  let f := bits sel.toNat 0 6
  if 32 < f then refuse s sel
  else match s.piece.yOf y with
    | [] => s.yEmptyWait y
    | tk :: rest =>
      .done (s.modPiece fun p =>
        let p := if pop then { p.setY y rest with moved := true } else p
        p.setReg a (tk.field f))

/-- `s.qpop` (R179). -/
def execSQpop (t : BitVec 4) (q a b : BitVec 5) (s : State) : Host.Outcome State Fault Refusal :=
  s.runS (.sQpop t q a b) t 0 anyLevel [b] fun s => s.qTake q.toNat a b true
/-- `s.qpeek` (R179). -/
def execSQpeek (t : BitVec 4) (q a b : BitVec 5) (s : State) : Host.Outcome State Fault Refusal :=
  s.runS (.sQpeek t q a b) t 0 anyLevel [b] fun s => s.qTake q.toNat a b false

/-- A push of a whole token into a q queue by S (R179, R180). -/
def State.qPut (s : State) (q : Nat) (tk : Token) : Res :=
  if s.piece.qFull q then s.qFullWait q
  else .done (s.modPiece fun p => p.pushQ q tk s.time)

/-- `s.qpsh` (R179): lane 0 alone. -/
def execSQpsh (t : BitVec 4) (q a : BitVec 5) (s : State) : Host.Outcome State Fault Refusal :=
  s.step5 0 (.sQpsh t q a) t (s.unusedQ q.toNat) <|
  s.runS (.sQpsh t q a) t 0 anyLevel [a] fun s =>
    s.qPut q.toNat (lane0Tok .data (regLane (s.piece.reg a)))
/-- `s.qhem` (R179). -/
def execSQhem (t : BitVec 4) (q l : BitVec 5) (s : State) : Host.Outcome State Fault Refusal :=
  s.step5 0 (.sQhem t q l) t (s.unusedQ q.toNat) <|
  s.runS (.sQhem t q l) t 0 anyLevel [] fun s => s.qPut q.toNat (hemTok l.toNat)

/-- The occupancy of a queue by its class: 0 q, 1 y, 2 bq. -/
def Piece.occupancy (p : Piece) (cls n : Nat) : Nat :=
  match cls with
  | 0 => (p.qOf n).length
  | 1 => (p.yOf n).length
  | _ => p.bq.length

/-- `s.qcnt` (R179). -/
def execSQcnt (t : BitVec 4) (q a c : BitVec 5) (s : State) : Host.Outcome State Fault Refusal :=
  s.step5 0 (.sQcnt t q a c) t (c == 0 && s.unusedQ q.toNat) <|
  s.runS (.sQcnt t q a c) t 0 anyLevel [] fun s => .done (s.modPiece fun p => p.setReg a (BitVec.ofNat 64 (p.occupancy c.toNat q.toNat)))

/-- The entries of a q that a discard leaves: those that streams have reserved, and tokens pushed in this cycle, which land after it
(R181). -/
def discQ (x : List QEntry) (time : Nat) : List QEntry := x.filter fun e => if e.tok.isNone then e.strm else e.at_ == time + 1
/-- The tokens of a y queue that a discard leaves. -/
def discY (x : List Token) (pushed : Nat) : List Token := x.drop (x.length - pushed)

/-- `s.qdisc` (R181): every token and every entry that a queue load has reserved, but for those pushed in this cycle. -/
def execSQdisc (t : BitVec 4) (q a c : BitVec 5) (s : State) : Host.Outcome State Fault Refusal :=
  s.step5 0 (.sQdisc t q a c) t (c == 0 && s.unusedQ q.toNat) <|
  s.runS (.sQdisc t q a c) t 0 anyLevel [] fun s => .done (s.modPiece fun p =>
      let k := p.occupancy c.toNat q.toNat
      let p := if c = 0 then p.setQ q.toNat (discQ (p.qOf q.toNat) s.time)
        else p.setY q.toNat (discY (p.yOf q.toNat) (p.pushesOf q.toNat))
      let n := k - p.occupancy c.toNat q.toNat
      (p.setReg a (BitVec.ofNat 64 n)).count 19 n)

end Sys2Proof.Machine
end

