-- ==== Sys2Proof/Machine/SObj.lean ====
section
/-! DEFINITION. The S words on shared objects: versioned cells (R182, R183, R111), fences and knots (R99, R101, R186),
remote invocation (R187), barriers (R195), notify registers (R196), launches (R197), turns (R200). -/

namespace Sys2Proof.Machine

/-! ## Versioned cells -/

/-- A cell (R86). -/
structure Cell where
  v0     : W64
  s0     : Word32
  v1     : W64
  s1     : Word32
  newest : Word32
  mark   : Word32
deriving DecidableEq, Repr

/-- The cell in 32 bytes. -/
def cellOf (b : List Byte) : Cell :=
  { v0 := BitVec.ofNat 64 (ofBytes (b.take 8)), s0 := BitVec.ofNat 32 (ofBytes ((b.drop 8).take 4))
    v1 := BitVec.ofNat 64 (ofBytes ((b.drop 12).take 8)), s1 := BitVec.ofNat 32 (ofBytes ((b.drop 20).take 4))
    newest := BitVec.ofNat 32 (ofBytes ((b.drop 24).take 4)), mark := BitVec.ofNat 32 (ofBytes ((b.drop 28).take 4)) }

/-- The 32 bytes of a cell. -/
def Cell.bytes (c : Cell) : List Byte :=
  bytesOf 8 c.v0.toNat ++ bytesOf 4 c.s0.toNat ++ bytesOf 8 c.v1.toNat ++ bytesOf 4 c.s1.toNat ++ bytesOf 4 c.newest.toNat
    ++ bytesOf 4 c.mark.toNat

/-- D(a, b): the signed 32-bit difference of two stamps. -/
def verD (a b : Word32) : Int := (a - b).toInt
/-- Whether a version exists (R182). -/
def Cell.has (c : Cell) (v : Word32) : Bool :=
  verD v c.newest == 0 || (verD v c.newest == -1 && decide (0 < verD v c.mark) && c.newest != 0)
/-- Whether a version is future (R182). -/
def Cell.future (c : Cell) (v : Word32) : Bool := decide (0 < verD v c.newest)
/-- The slot that holds the newest version: slot 0 in a zeroed cell. -/
def Cell.newSlot (c : Cell) : Bool := c.s0 != c.newest
/-- The value of an existing version. -/
def Cell.value (c : Cell) (v : Word32) : W64 :=
  if v = c.newest then (if c.newSlot then c.v1 else c.v0) else (if c.newSlot then c.v0 else c.v1)
/-- A store of a version that the newest one precedes: into the slot not holding the newest (R183). -/
def Cell.store (c : Cell) (v : Word32) (x : W64) : Cell :=
  if c.newSlot then { c with v0 := x, s0 := v, newest := v } else { c with v1 := x, s1 := v, newest := v }
/-- Whether a store must wait for a reclaim of the older version (R183). -/
def Cell.blocked (c : Cell) : Bool := c.newest != 0 && decide (0 < verD (c.newest - 1) c.mark)
/-- A reclaim (R183). -/
def Cell.reclaim (c : Cell) (v : Word32) : Cell := if 0 < verD v c.mark then { c with mark := v } else c

/-- The cell at a local physical address. -/
def State.cell (s : State) (pa : Nat) : Cell := cellOf (s.read false pa 32).data
/-- TLOC of VER_SKEW and VER_GONE (R367). -/
def Cell.loc (c : Cell) : W64 := BitVec.ofNat 64 (c.newest.toNat + c.mark.toNat * 2 ^ 32)

/-- The bank element that owns a local physical address (R84): 16 * stack + PA[11:8]. A cell in LPDDR6 uses the wait list of a bank
numbered in the same way beyond those of the stacks, since the manual gives LPDDR6 none (log 68, DESIGN CHOICE). -/
def memBank (pa : Nat) : Nat := pa / 2 ^ 37 * 16 + bits pa 8 4

/-- A word's own versioned operations on a cell that have not been applied: later ones of the thread wait (R111). -/
def State.cellBusy (s : State) (pa : Nat) : Bool :=
  s.ops.any fun o => o.kind == .vstore && o.addr == pa && o.agent == .thread s.focusP

/-- The pieces parked at a bank. -/
def State.parkedAt (s : State) (bank : Nat) : Nat :=
  (s.pieces.filter fun kv => match kv.2.await with
    | .vld _ a _ => memBank a == bank
    | _ => false).length

/-- The checks of a versioned word (R166, R183, R369, R372) and its cell. A remote cell is refused: no unit of R287
carries a versioned word (log 19, DEDUCED). -/
def State.withCell (s : State) (ra : BitVec 5) (write : Bool) (body : State → Nat → Cell → Res) : Res :=
  let adr := s.piece.reg ra
  match s.sAddr adr 32 { write := write, ver := true } with
  | .res r => r
  | .ok s _ pa _ pair _ =>
    if pair.isSome then .trap s cWALL adr 0
    else
      let s := s.detect false pa 32
      let r := s.read false pa 32
      match r.integ with
      | some l => integTrap s adr l
      | none => if r.pois then .trap s cPOISON adr 0 else body s pa (cellOf r.data)

/-- The ordering of a versioned word (R100, R111): given by the word, at the scope of SEM or the prefix. -/
def Piece.ordAs (p : Piece) (ord : Nat) : OrdScope := { p.ordScope with ord := ord }

/-- The answer S waited for. -/
def Piece.answer (p : Piece) : Option W64 :=
  match p.await with
  | .result v => some v
  | _ => none
/-- Leaves the wait. -/
def State.unwait (s : State) : State := s.modPiece fun p => { p with await := .none }

/-- `s.vld` (R183). -/
def execSVld (t : BitVec 4) (d a b : BitVec 5) (s : State) : Host.Outcome State Fault Refusal :=
  s.runS (.sVld t d a b) t 2 anyLevel [a, b] fun s =>
    match s.piece.answer with
    | some v => .done (s.unwait.readNow.modPiece (·.setReg d v))
    | none =>
      let ver : Word32 := BitVec.ofNat 32 (s.piece.reg b).toNat
      s.withCell a false fun s pa c =>
        if s.cellBusy pa || !s.depsMet (s.sDeps (s.piece.ordAs 1) 0 false) then .hold s
        else if c.has ver then .done (s.unwait.readNow.modPiece (·.setReg d (c.value ver)))
        else if c.future ver then
          match s.piece.await with
          | .vld _ _ _ => .hold s
          | _ =>
            if 64 ≤ s.parkedAt (memBank pa) then .hold s
            else .hold (s.modPiece fun p => Piece.count { p with await := .vld false pa ver } 20 1)
        else .trap s cVER_GONE (s.piece.reg a) c.loc

/-- Hands a versioned store or reclaim to its bank element: `fn` 0 store, 1 reclaim. -/
def State.handCell (s : State) (a : BitVec 5) (pa fn ord : Nat) (ver : Word32) (x : W64) : Res :=
  let os := s.piece.ordAs ord
  if s.knotFull os.kt 1 then .hold s
  else
    let deps := s.sDeps os 0 true
    let hand := s.sTack os 0 true
    let id := s.opCount
    let s := s.addOp { blankOp s.focusP (.thread s.focusP) .vstore false pa (s.piece.reg a) 32 with
                       fn := fn, cmp := BitVec.ofNat 64 ver.toNat, data := bytesOf 8 x.toNat, ord := ord
                       scope := os.scope, deps := deps }
    .done ((s.sIssue os 0 id false).sRelease hand)

/-- A parked load whose version a store has created wakes with its value (R183). -/
def Piece.seeCell (p : Piece) (pa : Nat) (ver : Word32) (x : W64) : Piece :=
  match p.await with
  | .vld _ a v => if a = pa && v = ver then { p with await := .result x } else p
  | _ => p

/-- A store of a version into its cell: the loads parked for it wake (R183). -/
def State.storeCell (s : State) (pa : Nat) (c : Cell) (ver : Word32) (x : W64) : State :=
  let s := (s.write false pa (c.store ver x).bytes).getD s
  { s with pieces := s.pieces.map fun kv => (kv.1, kv.2.seeCell pa ver x) }

/-- `s.vst` (R183): once all that it releases has performed, the bank element checks the version and stores in one step; where the
older version has still to be reclaimed, the store waits there. -/
def execSVst (t : BitVec 4) (d a b : BitVec 5) (s : State) : Host.Outcome State Fault Refusal :=
  s.runS (.sVst t d a b) t 2 anyLevel [a, d, b] fun s =>
    let ver : Word32 := BitVec.ofNat 32 (s.piece.reg d).toNat
    s.withCell a true fun s pa c =>
      let deps := s.sDeps (s.piece.ordAs 2) 0 true
      let hand := s.sTack (s.piece.ordAs 2) 0 true
      if s.cellBusy pa || !s.depsMet deps then .hold s
      else if ver != c.newest + 1 then .trap s cVER_SKEW (s.piece.reg a) c.loc
      else if c.blocked then s.handCell a pa 0 2 ver (s.piece.reg b)
      else .done ((s.storeCell pa c ver (s.piece.reg b)).sRelease hand)

/-- `s.vrc` (R183). -/
def execSVrc (t : BitVec 4) (a b : BitVec 5) (s : State) : Host.Outcome State Fault Refusal :=
  s.runS (.sVrc t a b) t 2 anyLevel [a, b] fun s =>
    let ver : Word32 := BitVec.ofNat 32 (s.piece.reg b).toNat
    s.withCell a true fun s pa c =>
      if s.cellBusy pa then .hold s
      else if 0 ≤ verD ver c.newest then .trap s cVER_SKEW (s.piece.reg a) c.loc
      else s.handCell a pa 1 0 ver 0

/-- A versioned store or reclaim is applied to its cell, as one step (R183). -/
def State.applyCell (s : State) (o : MemOp) : State :=
  let c := s.cell o.addr
  let ver : Word32 := BitVec.ofNat 32 o.cmp.toNat
  if o.fn = 0 then
    if c.blocked then s
    else
      let x := BitVec.ofNat 64 (ofBytes o.data)
      (s.dropOp o.id).storeCell o.addr c ver x
  else
    let s := s.dropOp o.id
    (s.write false o.addr (c.reclaim ver).bytes).getD s

/-! ## Fences and knots -/

/-- Reads and read-modify-writes of the thread in flight. -/
def State.threadReads (s : State) : List Nat :=
  (s.ops.filter fun o => o.agent == .thread s.focusP && (o.kind == .read || o.kind == .rmw)).map (·.id)
    ++ ((s.piece.qloads.filter fun q => q.agent == .thread s.focusP).map (·.id))
    ++ ((s.barEvs.filter fun b => b.agent == .thread s.focusP).map (·.id))

/-- `s.fence` (R101); `rlx` is refused at decoding. Orders of an acquire fence are not cumulative: scope code 7 marks
them as met only by the operation itself. -/
def execSFence (t : BitVec 4) (o : BitVec 2) (sc : BitVec 3) (s : State) : Host.Outcome State Fault Refusal :=
  s.runS (.sFence t o sc) t 0 anyLevel [] fun s =>
    let p := s.piece
    let all : List Dep := s.prune (p.s.deps ++ p.fenceR ++ p.fenceW ++ cumDeps sc.toNat (s.threadOps ++ p.seen))
    match o.toNat with
    | 1 => .done (s.modPiece fun p => { p with
        fenceR := s.prune p.fenceR ++ s.threadReads.map fun id => { op := id, scope := 7 } })
    | 2 => .done (s.modPiece fun p => { p with fenceW := s.prune p.fenceW ++ all, relDeps := tackDeps all })
    | 3 => .done (s.modPiece fun p => { p with fenceR := s.prune p.fenceR ++ all, relDeps := tackDeps all })
    | _ => illegal s (.sFence t o sc)

/-- `s.kwait` (R99, R186). -/
def execSKwait (t : BitVec 4) (k : BitVec 5) (s : State) : Host.Outcome State Fault Refusal :=
  s.runS (.sKwait t k) t 0 anyLevel [] fun s => if (s.knot k.toNat).isEmpty then .done s else .hold s
/-- `s.kclr` (R99, R186). -/
def execSKclr (t : BitVec 4) (k : BitVec 5) (s : State) : Host.Outcome State Fault Refusal :=
  s.runS (.sKclr t k) t 0 anyLevel [] fun s => .done (s.modPiece fun p => { p with knots := p.knots.erase k.toNat })

/-! ## Remote invocation -/

/-- `s.rinv` (R187): S waits for the result. An owner in LPDDR6 does not exist: WALL. -/
def execSRinv (t : BitVec 4) (d a b i : BitVec 5) (s : State) : Host.Outcome State Fault Refusal :=
  s.runS (.sRinv t d a b i) t 2 anyLevel [a, b] fun s =>
    let adr := s.piece.reg a
    let os := s.piece.ordScope
    match s.piece.await with
    | .result v => .done (s.unwait.readNow.modPiece (·.setReg d v))
    | .failed c l => .trap s.unwait c adr l
    | .invoke _ => .hold s
    | _ =>
      match s.sAddr adr 8 { write := true, host := false } with
      | .res r => r
      | .ok s v pa key pair _ =>
        if !v && 2 ^ 40 ≤ pa % 2 ^ 45 then .trap s cWALL adr 0
        else
          let deps := s.sDeps os 0 true
          let hand := s.sTack os 0 true
          if !s.depsMet deps then .hold s
          else
            let id := s.opCount
            let s := s.sRelease hand
            let s := match pair with
              | some _ => s.addOp { blankOp s.focusP (.thread s.focusP) .rmw v pa adr 8 with
                  data := bytesOf 8 (s.piece.reg b).toNat, fn := 32 + i.toNat, ord := os.ord, scope := 4, remote := pair
                  key := key }
              | none => { s with opCount := id + 1, invokes := s.invokes ++
                  [({ id := id, piece := s.focusP, pair := none, vault := v, addr := pa, operand := s.piece.reg b
                      fn := i.toNat, va := adr } : Invoke)] }
            .hold (s.modPiece fun p => { p with await := .invoke id })

/-! ## Barriers -/

/-- The checks of a barrier word (R166, R195, R369): the vault address of the barrier. -/
def State.withBarrier (s : State) (ra : BitVec 5) (write : Bool) (body : State → Nat → Res) : Res :=
  let adr := s.piece.reg ra
  if adr.toNat % 16 != 0 then .trap s cMISALIGN adr 0
  else if !isVaultAddr adr then .trap s cVAULT_BOUND adr 0
  else
    match s.sAddr adr 16 { write := write } with
    | .res r => r
    | .ok s _ v _ _ _ =>
      let s := s.detect true v 16
      if s.poisoned true v 16 then .trap s cPOISON adr 0 else body s v

/-- Word `i` of a barrier: TARGET, COUNT, PEND, PHASE. -/
def State.barWord (s : State) (v i : Nat) : Nat := ofBytes (s.bytes true (v + 4 * i) 4)

/-- Hands an event to the bank element of a barrier. -/
def State.handBar (s : State) (v what bytes rd ord : Nat) : State × Nat :=
  let os : OrdScope := { ord := ord, scope := 3 }
  let deps := s.sDeps os 0 true
  let hand := s.sTack os 0 true
  let id := s.opCount
  let s := { s with opCount := id + 1, barEvs := s.barEvs ++
    [({ id := id, addr := v, what := what, bytes := bytes, src := s.focusP, agent := .thread s.focusP
        deps := deps, rd := rd } : BarEvent)] }
  (s.sRelease hand, id)

/-- `s.bar.init` (R195). -/
def execSBarInit (t : BitVec 4) (a b : BitVec 5) (s : State) : Host.Outcome State Fault Refusal :=
  s.runS (.sBarInit t a b) t 0 anyLevel [a, b] fun s =>
    s.withBarrier a true fun s v => .done (s.handBar v 3 (bits (s.piece.reg b).toNat 0 32) 0 0).1
/-- `s.bar.arv` (R195): a release at package scope (R110). -/
def execSBarArv (t : BitVec 4) (d a : BitVec 5) (s : State) : Host.Outcome State Fault Refusal :=
  s.runS (.sBarArv t d a) t 0 anyLevel [a] fun s =>
    s.withBarrier a true fun s v =>
      let r := s.handBar v 0 0 d.toNat 2
      .done (r.1.modPiece (·.pendReg d r.2))
/-- `s.bar.wait` (R195): an acquire at package scope (R110). -/
def execSBarWait (t : BitVec 4) (a b : BitVec 5) (s : State) : Host.Outcome State Fault Refusal :=
  s.runS (.sBarWait t a b) t 0 anyLevel [a, b] fun s =>
    s.withBarrier a false fun s v =>
      if s.depsMet (s.sDeps { ord := 1, scope := 3 } 0 false)
          && decide (0 ≤ verD (BitVec.ofNat 32 (s.barWord v 3)) (BitVec.ofNat 32 (s.piece.reg b).toNat)) then .done s.readNow
      else .hold s
/-- `s.bar.addb` (R195). -/
def execSBarAddb (t : BitVec 4) (a b : BitVec 5) (s : State) : Host.Outcome State Fault Refusal :=
  s.runS (.sBarAddb t a b) t 0 anyLevel [a, b] fun s =>
    s.withBarrier a true fun s v => .done (s.handBar v 1 (bits (s.piece.reg b).toNat 0 32) 0 0).1

/-! ## Notify registers -/

/-- `s.wfn` (R196): an acquire at system scope (R113). -/
def execSWfn (t : BitVec 4) (d a b : BitVec 5) (s : State) : Host.Outcome State Fault Refusal :=
  s.runS (.sWfn t d a b) t 0 anyLevel [a, b] fun s =>
    let n := bits (s.piece.reg a).toNat 0 8
    let m := s.piece.reg b
    match s.piece.await with
    | .result v => .done (s.unwait.readNow.modPiece (·.setReg d v))
    | .wfn _ _ => .hold s
    | _ =>
      if !s.depsMet (s.sDeps { ord := 1, scope := 4 } 0 false) then .hold s
      else if s.notifyVal n &&& (if m = 0 then -1 else m) != 0 then .done (s.readNow.modPiece (·.setReg d (s.notifyVal n)))
      else .hold (s.modPiece fun p => { p with await := .wfn n m })

/-- `s.nsig` and `s.nclr` (R196): a release at system scope (R113). `fn` 1 sets bits, 2 clears them. -/
def State.sNotify (s : State) (a b : BitVec 5) (fn : Nat) : Res :=
  let n := bits (s.piece.reg a).toNat 0 8
  if !s.threadNotify n then .trap s cWALL (BitVec.ofNat 64 n) 0
  else
    let os : OrdScope := { ord := 2, scope := 4 }
    let deps := s.sDeps os 0 true
    let hand := s.sTack os 0 true
    let s := s.addOp { blankOp s.focusP (.thread s.focusP) .notify false n (BitVec.ofNat 64 n) 8 with
                       data := bytesOf 8 (s.piece.reg b).toNat, fn := fn, ord := 2, scope := 4, deps := deps }
    .done (s.sRelease hand)

/-- `s.nsig` (R196). -/
def execSNsig (t : BitVec 4) (a b : BitVec 5) (s : State) : Host.Outcome State Fault Refusal :=
  s.runS (.sNsig t a b) t 0 anyLevel [a, b] fun s => s.sNotify a b 1
/-- `s.nclr` (R196). -/
def execSNclr (t : BitVec 4) (a b : BitVec 5) (s : State) : Host.Outcome State Fault Refusal :=
  s.runS (.sNclr t a b) t 0 anyLevel [a, b] fun s => s.sNotify a b 2

/-- A notify write of a thread performs: a store to the hub window (`fn` 0), `s.nsig`, `s.nclr`. -/
def State.applyNotify (s : State) (o : MemOp) : State :=
  let v := BitVec.ofNat 64 (ofBytes o.data)
  let s := s.dropOp o.id
  let back := s.focusP
  let s := s.at o.piece
  let s := match o.fn with
    | 0 => s.threadHubWrite (o.addr - 2 ^ 42) v
    | 1 => s.notifyByThread o.addr (s.notifyVal o.addr ||| v)
    | _ => s.notifyByThread o.addr (s.notifyVal o.addr &&& ~~~v)
  s.at back

/-! ## Launches -/

/-- Records in a launch ring (R41). -/
def LQueue.occupancy (q : LQueue) : Nat := (q.tail - q.head).toNat
/-- The address of record `i` of a launch ring (R41). -/
def LQueue.entry (q : LQueue) (i : BitVec 16) : Nat := q.base.toNat + 128 * (i.toNat % 2 ^ q.size)

/-- The hub posts a record for `s.lnch` (R43, R197): the answer of R197 and the state. The checks are made in the order
2, 3, 1 (log 20, DEDUCED). Answer 2 sets SRCERR and writes no error record (log 68, DEDUCED). -/
def State.lnchPost (s : State) (n : Nat) (rec : List Byte) : W64 × State :=
  let q := s.lqOf n
  if !q.en || q.src != 3 || q.rootq then (2, s.setLq n { q with srcerr := true })
  else if bits (dword rec 10) 0 4 != s.domain then (3, s)
  else if 2 ^ q.size ≤ q.occupancy then (1, s)
  else
    let s := s.hubWrite (q.entry q.tail) rec
    (0, s.setLq n { q with tail := q.tail + 1
                           clamp := q.clamp.insert q.tail.toNat ((s.launch s.piece.launch).prio + 1) })

/-- `s.lnch` (R197): a release at system scope (R113). -/
def execSLnch (t : BitVec 4) (d a b : BitVec 5) (s : State) : Host.Outcome State Fault Refusal :=
  s.runS (.sLnch t d a b) t 0 anyLevel [a, b] fun s =>
    let adr := s.piece.reg a
    let n := bits (s.piece.reg b).toNat 0 6
    let post (s : State) (rec : List Byte) : Res :=
      let r := s.lnchPost n rec
      .done (r.2.modPiece (·.setReg d r.1))
    match s.piece.await with
    | .load ids =>
      if !s.answered ids then .hold s
      else match s.refused ids with
        | some (c, v, l) => .trap (s.dropReads ids) c v l
        | none => post (s.dropReads ids) ((ids.map s.readBytes).flatten)
    | _ =>
      match s.sAddr adr 128 { write := false, turned := .face } with
      | .res r => r
      | .ok s v pa key pair _ =>
        if !s.depsMet (s.sDeps { ord := 2, scope := 4 } 0 true) then .hold s
        else if pair.isSome then s.qSend { ord := 0, scope := 4 } 128 [(pair.getD 0, pa, key, adr)]
        else
          let s := s.detect v pa 128
          match (s.read v pa 128).integ with
          | some l => integTrap s adr l
          | none =>
            if (s.read v pa 128).pois then .trap s cPOISON adr 0
            else post s (s.view (.thread s.focusP) v pa 128 true s.opCount).data

/-! ## Turns -/

/-- The writes to an entry's lining that have not performed at system scope (R112). -/
def State.liningWrites (s : State) (n : Nat) : List Dep :=
  ((s.ops.filter fun o => o.lining == some n).map fun o => { op := o.id, scope := 4 })
    ++ ((s.scatters.filter fun x => x.lining == some n).map fun x => { op := x.id, scope := 4 })

/-- `s.turn` (R112, R200). -/
def execSTurn (t : BitVec 4) (d a : BitVec 5) (s : State) : Host.Outcome State Fault Refusal :=
  s.runS (.sTurn t d a) t 2 anyLevel [a] fun s =>
    let v := s.piece.reg a
    match s.piece.await with
    | .result r => .done (s.unwait.readNow.modPiece (·.setReg d r))
    | .turn _ => .wait s
    | _ =>
      if 1023 < v.toNat then refuse s v
      else
        let e := s.turnEnt v.toNat
        let os := s.piece.ordAs 2
        if !e.v then .trap s cPAGE_PROT (wordOf (.sTurn t d a)) 0
        else if e.dom != s.domain then .trap s cWALL (wordOf (.sTurn t d a)) 0
        else if !s.depsMet (s.sDeps os 0 true) then .hold s
        else
          let s := s.sRelease (s.sTack os 0 true)
          let s := s.setTurnEnt v.toNat { e with wait := e.wait ++ [(s.focusP, s.liningWrites v.toNat)] }
          .wait (s.modPiece fun p => { p with await := .turn v.toNat })

/-- The hub makes the oldest turn of an entry once the lining writes it waits for have performed (R112): SEL and TURNS
change in one step, and the waiting S is answered. -/
def execHubTurn (n : Nat) (s : State) : Host.Outcome State Fault Refusal :=
  let e := s.turnEnt n
  match e.wait with
  | [] => .next s
  | (p, deps) :: rest =>
    if !s.depsMet deps then .next s
    else
      let e := { e with sel := !e.sel, turns := e.turns + 1, wait := rest }
      let s := s.setTurnEnt n e
      .next { s with pieces := s.pieces.map fun kv =>
        (kv.1, if kv.1 = p && kv.2.await = .turn n then { kv.2 with await := .result (BitVec.ofNat 64 e.turns.toNat) }
               else kv.2) }

end Sys2Proof.Machine
end

