-- ==== Sys2Proof/Machine/SCtl.lean ====
section
/-! DEFINITION. The S words of control: branches and jumps (R19 to R21, R188, R189), the thread's control words (R193),
trap return (R344), descriptor, table and control-network writes (R190 to R192). -/

namespace Sys2Proof.Machine

/-! ## Spans (R20) -/

/-- What scanning a span comes to: clear, a C, M or F word at an address, or a word that cannot be fetched. -/
inductive SpanRes where
  | clear (s : State)
  | engine (s : State) (adr : W64)
  | bad (s : State) (code : Nat) (adr tloc : W64)

/-- Scans `n` words from an address upward. -/
def State.scan : Nat → W64 → State → SpanRes
  | 0, _, s => .clear s
  | n + 1, a, s =>
    match s.fetch a with
    | .bad s c l => .bad s c a l
    | .word s w => if w / 2 ^ 30 = 0 then State.scan n (a + 4) s else .engine s a

/-- CheckSpan for a transfer at `pc` to `target`. A target in a vault is left to its fetch (R17). -/
def State.checkSpan (s : State) (pc target : W64) : SpanRes :=
  if isVaultAddr target then .clear s
  else if pc.toNat < target.toNat then s.scan ((target.toNat - pc.toNat) / 4 - 1) (pc + 4)
  else s.scan ((pc.toNat - target.toNat) / 4) target

/-- An unfanned transfer: the span is checked, then S goes on at the target. `t` is the state with the word's effect on
registers. -/
def State.transfer (s : State) (target : W64) (t : State → State) : Res :=
  match s.checkSpan s.piece.s.pc target with
  | .clear s => .jump (t s) target
  | .engine s a => .trap s cILLEGAL a 0
  | .bad s c a l => .trap s c a l

/-! ## Branches -/

/-- Whether a branch condition holds (R188). -/
def branchCond (c : Nat) (v : W64) : Bool :=
  match c with
  | 0 => true
  | 1 => v == 0
  | 2 => v != 0
  | 3 => v.toInt < 0
  | 4 => 0 ≤ v.toInt
  | 5 => 0 < v.toInt
  | _ => v.toInt ≤ 0

/-- The target of a displacement in words. -/
def dispTarget (pc : W64) (n d : Nat) : W64 := pc + BitVec.ofInt 64 (4 * sgn n d)

/-- A fanned branch with its value (R19, R21): it waits at the slip bound, then pushes the outcome. -/
def State.fanned (s : State) (taken : Bool) (target : W64) : Res :=
  if s.piece.sys.slip.toNat ≤ s.piece.slip then .wait (s.modPiece (·.slipOnce))
  else
    let s := s.modPiece fun p => { p.pushSteer taken with popped := p.popped.filter fun x => x.1 != p.s.pc, moved := true }
    if taken then .jump s target else .done s

/-- The branches of major 0x20. -/
def State.runBranch (s : State) (i : Instr) (t : BitVec 4) (f : BitVec 1) (a : BitVec 5) (c : Nat) (d : BitVec 11) :
    Host.Outcome State Fault Refusal :=
  s.runS i t 0 anyLevel (if c = 0 then [] else [a]) fun s =>
    let taken := branchCond c (s.piece.reg a)
    let target := dispTarget s.piece.s.pc 11 d.toNat
    if f = 1 then s.fanned taken target
    else if taken then s.transfer target id
    else .done s

/-- The branches of major 0x21: bq is popped before any wait for slip, and the popped value is kept (R188). -/
def State.runBqb (s : State) (i : Instr) (t : BitVec 4) (f : BitVec 1) (a : BitVec 5) (c : Nat) (d : BitVec 11) :
    Host.Outcome State Fault Refusal :=
  s.runS i t 0 anyLevel [] fun s =>
    let target := dispTarget s.piece.s.pc 11 d.toNat
    match s.piece.popped.find? fun x => x.1 == s.piece.s.pc with
    | some v => s.fanned (branchCond c v.2) target
    | none =>
      match s.piece.bq with
      | [] => .wait (s.modPiece fun p =>
          let p := (p.lodOnce .pop).count 9 1
          { p with s := { p.s with waitQ := true } })
      | v :: rest =>
        let taken := branchCond c v
        let take (s : State) : State := s.modPiece fun p => { p.setReg a v with bq := rest, moved := true }
        if f = 1 then State.fanned ((take s).modPiece fun p => { p with popped := p.popped ++ [(p.s.pc, v)] }) taken target
        else if taken then s.transfer target take
        else .done (take s)

/-- `s.b` (R188). -/
def execSB (t : BitVec 4) (f : BitVec 1) (d : BitVec 11) (s : State) : Host.Outcome State Fault Refusal :=
  s.runBranch (.sB t f d) t f 0 0 d
/-- `s.beqz` (R188). -/
def execSBeqz (t : BitVec 4) (f : BitVec 1) (a : BitVec 5) (d : BitVec 11) (s : State) : Host.Outcome State Fault Refusal :=
  s.runBranch (.sBeqz t f a d) t f a 1 d
/-- `s.bnez` (R188). -/
def execSBnez (t : BitVec 4) (f : BitVec 1) (a : BitVec 5) (d : BitVec 11) (s : State) : Host.Outcome State Fault Refusal :=
  s.runBranch (.sBnez t f a d) t f a 2 d
/-- `s.bltz` (R188). -/
def execSBltz (t : BitVec 4) (f : BitVec 1) (a : BitVec 5) (d : BitVec 11) (s : State) : Host.Outcome State Fault Refusal :=
  s.runBranch (.sBltz t f a d) t f a 3 d
/-- `s.bgez` (R188). -/
def execSBgez (t : BitVec 4) (f : BitVec 1) (a : BitVec 5) (d : BitVec 11) (s : State) : Host.Outcome State Fault Refusal :=
  s.runBranch (.sBgez t f a d) t f a 4 d
/-- `s.bgtz` (R188). -/
def execSBgtz (t : BitVec 4) (f : BitVec 1) (a : BitVec 5) (d : BitVec 11) (s : State) : Host.Outcome State Fault Refusal :=
  s.runBranch (.sBgtz t f a d) t f a 5 d
/-- `s.blez` (R188). -/
def execSBlez (t : BitVec 4) (f : BitVec 1) (a : BitVec 5) (d : BitVec 11) (s : State) : Host.Outcome State Fault Refusal :=
  s.runBranch (.sBlez t f a d) t f a 6 d
/-- `s.bqb` (R188). -/
def execSBqb (t : BitVec 4) (f : BitVec 1) (a : BitVec 5) (d : BitVec 11) (s : State) : Host.Outcome State Fault Refusal :=
  s.runBqb (.sBqb t f a d) t f a 0 d
/-- `s.bqb.eqz` (R188). -/
def execSBqbEqz (t : BitVec 4) (f : BitVec 1) (a : BitVec 5) (d : BitVec 11) (s : State) : Host.Outcome State Fault Refusal :=
  s.runBqb (.sBqbEqz t f a d) t f a 1 d
/-- `s.bqb.nez` (R188). -/
def execSBqbNez (t : BitVec 4) (f : BitVec 1) (a : BitVec 5) (d : BitVec 11) (s : State) : Host.Outcome State Fault Refusal :=
  s.runBqb (.sBqbNez t f a d) t f a 2 d
/-- `s.bqb.ltz` (R188). -/
def execSBqbLtz (t : BitVec 4) (f : BitVec 1) (a : BitVec 5) (d : BitVec 11) (s : State) : Host.Outcome State Fault Refusal :=
  s.runBqb (.sBqbLtz t f a d) t f a 3 d
/-- `s.bqb.gez` (R188). -/
def execSBqbGez (t : BitVec 4) (f : BitVec 1) (a : BitVec 5) (d : BitVec 11) (s : State) : Host.Outcome State Fault Refusal :=
  s.runBqb (.sBqbGez t f a d) t f a 4 d
/-- `s.bqb.gtz` (R188). -/
def execSBqbGtz (t : BitVec 4) (f : BitVec 1) (a : BitVec 5) (d : BitVec 11) (s : State) : Host.Outcome State Fault Refusal :=
  s.runBqb (.sBqbGtz t f a d) t f a 5 d
/-- `s.bqb.lez` (R188). -/
def execSBqbLez (t : BitVec 4) (f : BitVec 1) (a : BitVec 5) (d : BitVec 11) (s : State) : Host.Outcome State Fault Refusal :=
  s.runBqb (.sBqbLez t f a d) t f a 6 d

/-- `s.jal` (R189). -/
def execSJal (t : BitVec 4) (d : BitVec 5) (i : BitVec 15) (s : State) : Host.Outcome State Fault Refusal :=
  s.runS (.sJal t d i) t 0 anyLevel [] fun s =>
    let pc := s.piece.s.pc
    s.transfer (dispTarget pc 15 i.toNat) fun s => s.modPiece (·.setReg d (pc + 4))

/-- `s.jalr` (R189): ra is read before rd is written. -/
def execSJalr (t : BitVec 4) (d a : BitVec 5) (i : BitVec 10) (s : State) : Host.Outcome State Fault Refusal :=
  s.runS (.sJalr t d a i) t 1 anyLevel [a] fun s =>
    let pc := s.piece.s.pc
    let target := s.piece.reg a + s.piece.simm i
    if target.toNat % 4 != 0 then .trap s cMISALIGN target 0
    else s.transfer target fun s => s.modPiece (·.setReg d (pc + 4))

/-! ## Descriptor, table and control writes -/

/-- Widths of the descriptor fields 0 to 23 in order (R202). -/
def sdwWidths : List Nat := [3, 3, 4, 1, 1, 2, 1, 1, 4, 3, 1, 6, 1, 4, 8, 4, 8, 4, 64, 64, 32, 32, 20, 31]

/-- The value a descriptor field stores, or none where it is refused (R203). -/
def sdwValue (f : Nat) (v : W64) : Option W64 :=
  if f < 24 then (if v.toNat < 2 ^ nth 0 sdwWidths f then some v else none)
  else if f = 24 then (if 1 ≤ v.toNat && v.toNat ≤ 65536 then some (v - 1) else none)
  else if f < 31 then (if 1 ≤ v.toNat && v.toNat ≤ 2 ^ 20 then some (v - 1) else none)
  else if f < 37 then
    (if -(2 ^ 31 : Int) ≤ v.toInt && v.toInt < 2 ^ 31 then some (BitVec.ofNat 64 (v.toNat % 2 ^ 32)) else none)
  else none

/-- `s.sdw` (R190). -/
def execSSdw (t : BitVec 4) (n : BitVec 4) (f : BitVec 6) (a : BitVec 5) (s : State) : Host.Outcome State Fault Refusal :=
  s.runS (.sSdw t n f a) t 0 anyLevel [a] fun s =>
    let v := s.piece.reg a
    match sdwValue f.toNat v with
    | none => refuse s v
    | some x => .done (s.modPiece fun p =>
        { p with sd := SMap.set [] p.sd n.toNat (SMap.set 0 (SMap.get [] p.sd n.toNat) f.toNat x) })

/-- `s.mtw` (R191): the lining of the loop-nest table. -/
def execSMtw (t : BitVec 4) (l f : BitVec 3) (a : BitVec 5) (s : State) : Host.Outcome State Fault Refusal :=
  s.runS (.sMtw t l f a) t 0 anyLevel [a] fun s =>
    let v := s.piece.reg a
    match (SMap.get {} s.piece.mx.mtLin l.toNat).put f.toNat v with
    | none => refuse s v
    | some x => .done (s.modPiece fun p => { p with mx := { p.mx with
        mtLin := SMap.set {} p.mx.mtLin l.toNat x, mtwLast := some (l.toNat, f.toNat, v, SMap.get {} p.mx.mtLin l.toNat) } })

/-- Element index in a block of a side: row by row. -/
def elemIdx (x y : Nat) : Nat := 16 * y + x

/-- Tokens on their way to or buffered at a control port (R192). -/
def Block.ctlCount (b : Block) (e port : Nat) : Nat :=
  (SMap.get [] (SMap.get {} b.elems e).ctlb port).length + (b.ctlNet.filter fun x => x.1 == e && x.2.1 == port).length

/-- Whether a port takes control tokens: `ctl` and `a0` to `a3`. -/
def isCtlPort (p : Nat) : Bool := p == 8 || (18 ≤ p && p ≤ 21)

/-- `s.inj` (R192). -/
def execSInj (t : BitVec 4) (a : BitVec 5) (x y : BitVec 4) (p : BitVec 6) (s : State) : Host.Outcome State Fault Refusal :=
  s.step5 0 (.sInj t a x y p) t (s.piece.blk.side ≤ x.toNat || s.piece.blk.side ≤ y.toNat || !isCtlPort p.toNat) <|
  s.runS (.sInj t a x y p) t 0 anyLevel [a] fun s =>
    let b := s.piece.blk
    let e := elemIdx x.toNat y.toNat
    if 4 ≤ b.ctlCount e p.toNat then .wait s
    else .done (s.modPiece fun q =>
      { q with blk := { b with ctlNet := b.ctlNet ++ [(e, p.toNat, lane0Tok .control (regLane (q.reg a)))] } })

/-! ## Control words -/

/-- `s.ecall` (R193). -/
def execSEcall (t : BitVec 4) (s : State) : Host.Outcome State Fault Refusal :=
  s.runS (.sEcall t) t 0 anyLevel [] fun s => .call s cECALL (wordOf (.sEcall t))
/-- `s.break` (R193). -/
def execSBreak (t : BitVec 4) (s : State) : Host.Outcome State Fault Refusal :=
  s.runS (.sBreak t) t 0 anyLevel [] fun s => .call s cBREAK (wordOf (.sBreak t))
/-- `s.nop` (R193). -/
def execSNop (t : BitVec 4) (s : State) : Host.Outcome State Fault Refusal :=
  s.runS (.sNop t) t 0 anyLevel [] fun s => .done s
/-- `s.yield` (R193): no state changes; the round gives every other thread its turn before the next word. -/
def execSYield (t : BitVec 4) (s : State) : Host.Outcome State Fault Refusal :=
  s.runS (.sYield t) t 0 anyLevel [] fun s => .done s

/-- `s.park` (R193): an event after its issue ends it. -/
def execSPark (t : BitVec 4) (s : State) : Host.Outcome State Fault Refusal :=
  s.runS (.sPark t) t 0 anyLevel [] fun s =>
    let p := s.piece
    if !p.parked then .hold (s.setPiece { p with parked := true, parkEv := false })
    else if p.parkEv then .done (s.setPiece { p with parked := false, parkEv := false })
    else .hold s

/-- `s.end` (R18, R193): S stops at it once it has retired. -/
def execSEnd (t : BitVec 4) (s : State) : Host.Outcome State Fault Refusal :=
  s.runS (.sEnd t) t 0 (fun p => if p.level = 0 then none else some cILLEGAL) [] fun s =>
    .jump (s.modPiece fun p => { p with s := { p.s with ending := true } }) s.piece.s.pc

/-! ## Return from a trap (R344) -/

/-- Causes that ACT 0 and ACT 1 do not resume (R345). -/
def notResumable (c : Nat) : Bool := c == cJOURNAL_FULL || c == cRESTORE_FAIL || c == cKEY_REVOKED

/-- The unit that raised a trap goes on (R344): an engine, an element, or a held stream. F then follows what S has ordered with its
fences before `s.eret` (R377). -/
def Piece.restart (p : Piece) (r : TrapRec) : Piece :=
  match r.unit with
  | 1 => { p with c := { p.c with stopped := p.traps.any fun x => x.unit == 5 && x.slot < 64 } }
  | 2 => { p with m := { p.m with stopped := false } }
  | 3 => { p with f := { p.f with stopped := false, deps := p.f.deps ++ (p.fenceW ++ p.fenceR).filter fun d => d.scope ≠ 7 } }
  | 4 => { p with blk := { p.blk with elems := p.blk.elems.map fun kv =>
      (kv.1, if kv.1 = r.elem then { kv.2 with stopped := false } else kv.2) } }
  | 5 => { p with
      c := { p.c with stopped := p.traps.any fun x => x.unit == 1 || (x.unit == 5 && x.slot < 64) }
      slots := p.slots.map fun kv =>
        (kv.1, if kv.1 = r.slot && kv.2.st == .held then { kv.2 with st := .running } else kv.2)
      qloads := if r.slot < 64 then p.qloads else p.qloads.map fun q => { q with failed := false } }
  | _ => p

/-- TSTAT without ACTIVE; PLEVEL and ACT stay. -/
def Piece.endActive (p : Piece) : Piece :=
  { p with sys := { p.sys with tstat := BitVec.ofNat 64 (p.sys.tstat.toNat % 4 + bits p.sys.tstat.toNat 3 2 * 8) } }
/-- The thread leaves its handler. -/
def Piece.leaveHandler (p : Piece) : Piece :=
  { p.endActive with sys := { p.endActive.sys with priv := BitVec.ofNat 64 (p.sys.tstat.toNat % 4) }, cur := none }

/-- ACT 0: resume. A return to the `s.end` at which the trap found S stops there: that word has retired. After WATCHDOG the
count restarts; after UNPICKED the piece is switched out at its seam (R389). -/
def Piece.resume (p : Piece) : Piece :=
  match p.cur with
  | none => p.leaveHandler
  | some r =>
    let p := (p.leaveHandler).restart r
    let p := { p with s := { p.s with ending := p.s.ended == some p.sys.tpcs, ended := none } }
    if r.code = cWATCHDOG then { p with stall := 0 }
    else if r.code = cUNPICKED then { p with leave := true, s := { p.s with ending := true } }
    else p

/-- The action of `s.eret`: ACT, or 2 where the cause cannot be resumed and ACT is 0 or 1. KEY_REVOKED ends the launch
(R400). -/
def Piece.eretAct (p : Piece) : Nat :=
  let act := bits p.sys.tstat.toNat 3 2
  let c := p.sys.tcause.toNat % 256
  if notResumable c && act < 2 then 2 else act

/-- `s.eret` (R193, R344): after ACT 0 a held trap is delivered before any other word issues (R343). -/
def execSEret (t : BitVec 4) (s : State) : Host.Outcome State Fault Refusal :=
  let was := s.piece.active
  match s.runS (.sEret t) t 0 superLevel [] fun s =>
      let p := s.piece
      if !p.active then illegal s (.sEret t)
      else match p.eretAct with
        | 0 => .jump (s.setPiece p.resume) p.sys.tpcs
        | a => .jump (s.setPiece { p.endActive with abort := some a }) p.s.pc with
  | .next u => .next (if was && !u.piece.active && u.piece.s.done.isNone && u.piece.abort.isNone then u.modPiece Piece.deliver
                      else u)
  | r => r

end Sys2Proof.Machine
end

