-- ==== Sys2Proof/Machine/SReg.lean ====
section
/-! DEFINITION. System registers (R150) read and written by S (R194), the event counters (R201), the shape words (R198)
and the invalidation of translation caches (R199). -/

namespace Sys2Proof.Machine

/-! ## Shapes -/

/-- The code of an element block side (R44). -/
def ebCode (side : Nat) : Nat := if side = 4 then 1 else if side = 8 then 2 else if side = 16 then 3 else 0

/-- Bits [15:0] of PIECE and of the shape word (R61, R198). -/
def Piece.shape (p : Piece) : Nat :=
  p.row0 + p.col0 * 8 + p.hLog * 128 + p.wLog * 512 + p.eb * 4096 + p.panel * 2 ^ 14

/-- PIECE (R61). -/
def Piece.pieceReg (p : Piece) : Nat := p.shape + p.thread * 2 ^ 16 + p.bay * 2 ^ 20

/-- VSHARE (R69). -/
def Piece.vshareReg (p : Piece) : Nat := p.vbase / 65536 * 65536 + p.vunits * 2 ^ 31

/-- A pocket map entry as a register (R81). -/
def Pocket.reg (x : Pocket) : Nat :=
  (if x.v then 1 else 0) + x.kind * 2 + x.unit * 4 + x.column * 64 + x.launch * 2 ^ 13 + x.seq * 2 ^ 21

/-- SNKn (R255): the status word of the element mapped, with MAPPED. -/
def Block.snkReg (b : Block) (n : Nat) : Nat :=
  match SMap.get none b.snk n with
  | none => 0
  | some e => (SMap.get {} b.elems e).status.toNat % 2 ^ 53 + 2 ^ 53

/-- TSTAT as it reads (R339): PENDING shows a held trap. -/
def Piece.tstatReg (p : Piece) : Nat :=
  p.sys.tstat.toNat % 32 + (if p.active && !p.traps.isEmpty then 32 else 0)

/-! ## Levels -/

/-- Registers that a TASK thread may not read (R72, R69, R81, R339). -/
def superRead (r : Nat) : Bool :=
  r == 0x20 || (0x22 ≤ r && r ≤ 0x25) || (0x30 ≤ r && r ≤ 0x38) || (0x100 ≤ r && r ≤ 0x13F)
/-- Registers that a TASK thread may not write (R22, R29, R31, R69, R72, R79, R81, R201, R273, R339). -/
def superWrite (r : Nat) : Bool :=
  (0x10 ≤ r && r ≤ 0x14) || r == 0x20 || (0x22 ≤ r && r ≤ 0x26) || (0x30 ≤ r && r ≤ 0x38) || r == 0x40
    || (0x100 ≤ r && r ≤ 0x13F) || (0x180 ≤ r && r ≤ 0x1BF)

/-! ## Reading -/

/-- The 64 bits of a system register. -/
def State.sysRead (s : State) (r : Nat) : W64 :=
  let p := s.piece
  let y := p.sys
  if 0x100 ≤ r && r ≤ 0x13F then
    BitVec.ofNat 64 (SMap.get ({} : Pocket) s.hub.pockets (64 * (8 * p.panel + p.bay) + (r - 0x100))).reg
  else if 0x180 ≤ r && r ≤ 0x1BF then SMap.get 0 y.cnt (r - 0x180)
  else if 0x200 ≤ r && r ≤ 0x23F then BitVec.ofNat 64 (p.blk.snkReg (r - 0x200))
  else match r with
    | 0x00 => s.hub.ident
    | 0x10 => y.slip
    | 0x11 => y.qtrap
    | 0x12 => y.lodc
    | 0x13 => y.lodlim
    | 0x14 => y.lodev
    | 0x15 => BitVec.ofNat 64 p.level
    | 0x16 => y.sem
    | 0x17 => y.fpflags
    | 0x20 => y.troot
    | 0x21 => BitVec.ofNat 64 p.vshareReg
    | 0x22 => SMap.get 0 y.vwin 0
    | 0x23 => SMap.get 0 y.vwin 1
    | 0x24 => SMap.get 0 y.vwin 2
    | 0x25 => SMap.get 0 y.vwin 3
    | 0x26 => y.stack
    | 0x30 => y.tcause
    | 0x31 => y.tpcs
    | 0x32 => y.tpcc
    | 0x33 => y.tpcm
    | 0x34 => y.tpcf
    | 0x35 => y.tval
    | 0x36 => y.tvec
    | 0x37 => y.tloc
    | 0x38 => BitVec.ofNat 64 p.tstatReg
    | 0x40 => y.wdog
    | 0x41 => BitVec.ofNat 64 s.hub.svc.toNat
    | 0x42 => BitVec.ofNat 64 p.pieceReg
    | _ => 0

/-- `s.mvfs` (R194). -/
def execSMvfs (t : BitVec 4) (d : BitVec 5) (r : BitVec 10) (s : State) : Host.Outcome State Fault Refusal :=
  s.runS (.sMvfs t d r) t 0 (fun p => if p.level = 0 && superRead r.toNat then some cPRIV else none) [] fun s =>
    .done (s.modPiece (·.setReg d (s.sysRead r.toNat)))

/-! ## Writing -/

/-- What writing a system register comes to: the registers written, a refused value (R168), a trap with the word. -/
inductive SysW where
  | ok (p : Piece)
  | refused
  | trap (code : Nat)

/-- Whether a window register's range stays in its bay (R69). -/
def winFits (v : W64) : Bool := bits v.toNat 16 10 + bits v.toNat 31 11 ≤ 1024

/-- Writes a system register, field by field (R3, R22, R29, R31, R69, R72, R79, R91, R92, R122, R201, R273, R339,
R340). -/
def Piece.sysWrite (p : Piece) (r : Nat) (v : W64) : SysW :=
  let y := p.sys
  let n := v.toNat
  let put (y : SysRegs) : SysW := .ok { p with sys := y }
  if 0x180 ≤ r && r ≤ 0x1BF then put { y with cnt := SMap.set 0 y.cnt (r - 0x180) v }
  else if 0x22 ≤ r && r ≤ 0x25 then
    let w : W64 := BitVec.ofNat 64 (bits n 0 2 + bits n 16 26 * 65536)
    if winFits w then put { y with vwin := SMap.set 0 y.vwin (r - 0x22) w } else .refused
  else match r with
    | 0x10 => if 1 ≤ n % 128 && n % 128 ≤ 64 then put { y with slip := BitVec.ofNat 64 (n % 128) } else .refused
    | 0x11 => put { y with qtrap := BitVec.ofNat 64 (n % 2 ^ 52) }
    | 0x12 => put { y with lodc := BitVec.ofNat 64 (n % 2 ^ 32), lodDone := false }
    | 0x13 => put { y with lodlim := BitVec.ofNat 64 (n % 2 ^ 32), lodDone := false }
    | 0x14 => put { y with lodev := v }
    | 0x16 => if 4 < bits n 2 3 then .refused else put { y with sem := BitVec.ofNat 64 (n % 32) }
    | 0x17 => put { y with fpflags := y.fpflags &&& ~~~(BitVec.ofNat 64 (n % 4096)) ||| y.flagsNow }
    | 0x20 => put { y with troot := BitVec.ofNat 64 (n % 65536 + bits n 21 35 * 2 ^ 21) }
    | 0x26 => if p.vunits * 16 < n % 65536 then .refused else put { y with stack := BitVec.ofNat 64 (n % 65536) }
    | 0x31 => put { y with tpcs := v }
    | 0x36 => if n % 4 != 0 then .refused else put { y with tvec := v }
    | 0x38 =>
      if n % 4 = 3 then .refused
      else if n % 4 = 2 && p.level = 1 then .trap cPRIV
      else put { y with tstat := BitVec.ofNat 64 (n % 4 + (if p.active then 4 else 0) + bits n 3 2 * 8) }
    | 0x40 =>
      let l := n % 2 ^ 40
      if 1 ≤ l && l ≤ 1023 then .refused else put { y with wdog := BitVec.ofNat 64 l }
    | _ => if 0x30 ≤ r && r ≤ 0x38 then .trap cILLEGAL else .ok p

/-- TROOT of the acting piece's thread is kept beside the thread (R413, log 21, DEDUCED). -/
def State.keepTroot (s : State) : State :=
  { s with hub := { s.hub with troots := SMap.set 0 s.hub.troots (16 * s.bayKey + s.piece.thread) s.piece.sys.troot } }

/-- `s.mvts` (R194). -/
def execSMvts (t : BitVec 4) (a : BitVec 5) (r : BitVec 10) (s : State) : Host.Outcome State Fault Refusal :=
  s.runS (.sMvts t a r) t 0 (fun p => if p.level = 0 && superWrite r.toNat then some cPRIV else none) [a] fun s =>
    let v := s.piece.reg a
    match s.piece.sysWrite r.toNat v with
    | .ok p => .done (if r = 0x20 then (s.setPiece p).keepTroot else s.setPiece p)
    | .refused => refuse s v
    | .trap c => .trap s c (wordOf (.sMvts t a r)) 0

/-! ## Counters -/

/-- `s.cnt` (R201). -/
def execSCnt (t : BitVec 4) (a b : BitVec 5) (s : State) : Host.Outcome State Fault Refusal :=
  s.runS (.sCnt t a b) t 0 anyLevel [a, b] fun s =>
    let i := s.piece.reg a
    let e := s.piece.reg b
    if 63 < i.toNat then refuse s i
    else if 21 < e.toNat then refuse s e
    else .done (s.modPiece fun p => { p with sys := { p.sys with
      cnt := p.sys.cnt.erase i.toNat, cntEv := SMap.set 0 p.sys.cntEv i.toNat e.toNat } })

/-! ## Shapes -/

/-- `s.pcut` (R198): recorded when it retires, checked at the seam. -/
def execSPcut (t : BitVec 4) (a : BitVec 5) (s : State) : Host.Outcome State Fault Refusal :=
  s.runS (.sPcut t a) t 0 anyLevel [a] fun s =>
    .done (s.modPiece fun p => { p with reshape := some (false, p.reg a), result := 14 })
/-- `s.pjoin` (R198). -/
def execSPjoin (t : BitVec 4) (a : BitVec 5) (s : State) : Host.Outcome State Fault Refusal :=
  s.runS (.sPjoin t a) t 0 anyLevel [a] fun s =>
    .done (s.modPiece fun p => { p with reshape := some (true, p.reg a), result := 14 })
/-- `s.pqry` (R198). -/
def execSPqry (t : BitVec 4) (d : BitVec 5) (s : State) : Host.Outcome State Fault Refusal :=
  s.runS (.sPqry t d) t 0 anyLevel [] fun s =>
    .done (s.modPiece fun p => p.setReg d (BitVec.ofNat 64 (p.shape + p.result * 2 ^ 16)))

/-! ## Invalidation (R199) -/

/-- ASID of a piece. -/
def Piece.asid (p : Piece) : Nat := p.sys.troot.toNat % 65536

/-- Whether an access through the device address space used one of the entries removed. -/
def State.usedEntry (s : State) (gone : List TlbEntry) (piece : Nat) (va : W64) : Bool :=
  gone.any fun e => e.hits (s.pieceOf piece).asid va.toNat

/-- The accesses an invalidation waits for: those that used a removed entry, and the thread's own earlier ones. -/
def State.tlbiWaits (s : State) (gone : List TlbEntry) : List Nat :=
  s.threadOps ++ ((s.ops.filter fun o => !o.vault && s.usedEntry gone o.piece o.va).map (·.id))
    ++ ((s.scatters.filter fun o => !o.vault && s.usedEntry gone o.piece o.va).map (·.id))
    ++ ((s.invokes.filter fun o => !o.vault && o.pair.isNone && s.usedEntry gone o.piece o.va).map (·.id))
    ++ ((s.pieces.map fun kv => (kv.2.qloads.filter fun q => q.lanes.any fun l =>
        !l.vault && s.usedEntry gone kv.1 l.va).map (·.id)).flatten)

/-- An invalidation of the entries that a test selects, in every cache of the package. -/
def State.tlbi (s : State) (sel : TlbEntry → Bool) : Res :=
  match s.piece.await with
  | .drain ids => if ids.all (fun id => s.opDone id 3) then .done s.unwait else .hold s
  | _ =>
    let gone := ((s.hub.tlbs ++ s.hub.gtlbs).map fun kv => kv.2.filter sel).flatten
    let ids := s.tlbiWaits gone
    let drop (m : SMap (List TlbEntry)) : SMap (List TlbEntry) := m.map fun kv => (kv.1, kv.2.filter fun e => !sel e)
    let s := { s with hub := { s.hub with tlbs := drop s.hub.tlbs, gtlbs := drop s.hub.gtlbs } }
    if ids.all (fun id => s.opDone id 3) then .done s
    else .hold (s.modPiece fun p => { p with await := .drain ids })

/-- `s.tlbi.va` (R199). -/
def execSTlbiVa (t : BitVec 4) (a b : BitVec 5) (s : State) : Host.Outcome State Fault Refusal :=
  s.runS (.sTlbiVa t a b) t 0 superLevel [a, b] fun s =>
    s.tlbi fun e => e.hits ((s.piece.reg b).toNat % 65536) (s.piece.reg a).toNat
/-- `s.tlbi.asid` (R199). -/
def execSTlbiAsid (t : BitVec 4) (b : BitVec 5) (s : State) : Host.Outcome State Fault Refusal :=
  s.runS (.sTlbiAsid t b) t 0 superLevel [b] fun s => s.tlbi fun e => e.asid == (s.piece.reg b).toNat % 65536
/-- `s.tlbi.all` (R199). -/
def execSTlbiAll (t : BitVec 4) (s : State) : Host.Outcome State Fault Refusal :=
  s.runS (.sTlbiAll t) t 0 superLevel [] fun s => s.tlbi fun _ => true

end Sys2Proof.Machine
end

