-- ==== Sys2Proof/Machine/AgMem.lean ====
section
/-! DEFINITION. Memory accesses of the address generators and element nodes (R94, R206, R209), and the link queues of a
piece (R281, R282, R394). -/

namespace Sys2Proof.Machine

/-! ## Link queues -/

/-- The key of a live link queue that the acting piece's sequence pushes into or pops from. -/
def State.linkKey (s : State) (lq : Nat) (out : Bool) : Option Nat :=
  (s.links.queues.find? fun kv => kv.2.live && kv.2.launch == s.piece.launch && kv.2.lq == lq
    && (if out then kv.2.seqOut else kv.2.seqIn) == some s.piece.seqPos).map (·.1)
/-- A link queue. -/
def State.linkQ (s : State) (k : Nat) : LinkQ := SMap.get {} s.links.queues k
/-- Replaces a link queue. -/
def State.setLinkQ (s : State) (k : Nat) (x : LinkQ) : State :=
  { s with links := { s.links with queues := s.links.queues.insert k x } }
/-- The pair a link queue travels on, for the LINK_LOST record. -/
def LinkQ.pairNo (x : LinkQ) : Nat := x.pair.getD 0

/-- What a push or a pop comes to. -/
inductive LinkRes where
  | pushed (s : State)
  | popped (s : State) (t : Token)
  | waits
  | lost (pair : Nat)

/-- A token as it enters a link queue (R234, R282): a control token becomes data; turn and kset tokens never enter. -/
def linkTok (t : Token) : Token := if t.kind = .control then { t with kind := .data } else t

/-- Pushes a token into an outgoing link queue. -/
def State.pushLink (s : State) (lq : Nat) (t : Token) : LinkRes :=
  match s.linkKey lq true with
  | none => .waits
  | some k =>
    let q := s.linkQ k
    if q.lost then .lost q.pairNo
    else if 16 ≤ q.send.length then .waits
    else .pushed ((s.setLinkQ k { q with send := q.send ++ [linkTok t] }).modPiece fun p => { p with moved := true })

/-- The head token of an incoming link queue. -/
def State.headLink (s : State) (lq : Nat) : Option Token :=
  match s.linkKey lq false with
  | none => none
  | some k => (s.linkQ k).recv.head?

/-- Pops the head token of an incoming link queue; a slot of the receive buffer is freed (R284). -/
def State.popLink (s : State) (lq : Nat) : LinkRes :=
  match s.linkKey lq false with
  | none => .waits
  | some k =>
    let q := s.linkQ k
    match q.recv with
    | [] => if q.lost then .lost q.pairNo else .waits
    | t :: rest =>
      let s := s.setLinkQ k { q with recv := rest }
      let s := match q.pair with
        | some n => s.setPair n { s.pairOf n with freed := (s.pairOf n).freed + 1 }
        | none => s
      .popped (s.modPiece fun p => { p with moved := true }) t

/-! ## Accesses of an address generator -/

/-- One access: where it goes. -/
structure Place where
  vault  : Bool
  addr   : Nat
  n      : Nat
  va     : W64
  key    : Nat
  pair   : Option Nat
  lining : Option Nat
deriving DecidableEq, Repr

/-- What checking an access comes to. A trap carries a TLOC only where its rule gives one of its own (R360, R372). -/
inductive AgAdr where
  | ok (s : State) (ps : List Place)
  | wait (s : State)
  | bad (s : State) (code : Nat) (adr : W64) (tloc : Option W64)

/-- TLOC of a check, where the rule of the check gives one. -/
def ownLoc (code : Nat) (l : W64) : Option W64 := if code = cPOISON || code = cINTEGRITY then some l else none

/-- Checks one aligned access of an address generator. -/
def State.agPlace (s : State) (adr : W64) (n swz : Nat) (a : Acc) : AgAdr :=
  match s.checkAddr adr n { a with ag := true } with
  | .bad s c l => .bad s c adr (ownLoc c l)
  | .held s => .wait s
  | .place s v pa key lin _ =>
    if v then .ok s [{ vault := true, addr := swizzle swz pa, n := n, va := adr, key := key, pair := none, lining := lin }]
    else if pa / 2 ^ 45 = s.hub.pkg.toNat then
      .ok s [{ vault := false, addr := pa % 2 ^ 45, n := n, va := adr, key := key, pair := none, lining := lin }]
    else match s.memBinding (pa / 2 ^ 45) with
      | none => .bad s cWALL adr none
      | some (pair, lost) =>
        if lost then .bad s cLINK_LOST adr none
        else if 64 ≤ s.outstanding pair then .wait s
        else .ok s [{ vault := false, addr := pa, n := n, va := adr, key := key, pair := some pair, lining := lin }]

/-- Checks `k` accesses of `n` bytes one after the other. -/
def State.agSplit (n swz : Nat) (a : Acc) : Nat → W64 → State → AgAdr
  | 0, _, s => .ok s []
  | k + 1, adr, s =>
    match s.agPlace adr n swz a with
    | .ok s ps =>
      match State.agSplit n swz a k (adr + BitVec.ofNat 64 n) s with
      | .ok s qs => .ok s (ps ++ qs)
      | r => r
    | r => r

/-- The parts in which an access of `n` bytes is checked: whole where it is aligned to its size, else in 4-byte units or bytes,
each with its own translation (log 22, DEDUCED). -/
def agUnit (adr : W64) (n : Nat) : Nat := if adr.toNat % n = 0 then n else if adr.toNat % 4 = 0 && n % 4 = 0 then 4 else 1

/-- Checks an access of `n` bytes at any address; its requests to one pair must find room together (R286). -/
def State.agPlaces (s : State) (adr : W64) (n swz : Nat) (a : Acc) : AgAdr :=
  match State.agSplit (agUnit adr n) swz a (n / agUnit adr n) adr s with
  | .ok s ps => if s.roomFor (ps.filterMap (·.pair)) then .ok s ps else .wait s
  | r => r

/-- What a read of an address generator comes to. -/
inductive AgData where
  | ok (s : State) (d : List Byte)
  /-- Remote reads have been sent: their numbers. -/
  | sent (s : State) (ids : List Nat)
  | bad (s : State) (code : Nat) (adr : W64) (tloc : Option W64)

/-- Reads local places as the agent sees them (R102, R369, R372). -/
def State.agLocal (ag : Agent) (fwd : Bool) : List Place → State → AgData
  | [], s => .ok s []
  | p :: ps, s =>
    let s := s.detect p.vault p.addr p.n
    let r := s.view ag p.vault p.addr p.n fwd s.opCount
    match r.integ with
    | some l => .bad s cINTEGRITY p.va (some (BitVec.ofNat 64 (s.fullPa l + s.protKey l * 2 ^ 56)))
    | none =>
      if r.pois then .bad s cPOISON p.va none
      else match State.agLocal ag fwd ps s with
        | .ok s d => .ok s (r.data ++ d)
        | x => x

/-- Whether the writes that a read of local places would see have performed in the whole package (R107). -/
def State.agReadable (s : State) (ag : Agent) (ps : List Place) : Bool :=
  ps.all fun p => p.pair.isSome || s.readable ag 3 p.vault p.addr p.n

/-- The 4-byte units of places, each with its offset in the read (R96). -/
def placeUnits : Nat → List Place → List (Nat × Place)
  | _, [] => []
  | off, p :: ps =>
    (tab ((p.n + 3) / 4) fun i =>
      (off + 4 * i, { p with addr := p.addr + 4 * i, n := Nat.min 4 (p.n - 4 * i), va := p.va + BitVec.ofNat 64 (4 * i) }))
      ++ placeUnits (off + p.n) ps

/-- Puts the data of units where they stand in the read. -/
def putUnits : List (Nat × Place) → List Byte → SMap (Option Byte) → SMap (Option Byte)
  | [], _, got => got
  | u :: us, d, got => putUnits us (d.drop u.2.n) (gotBytes got u.1 (d.take u.2.n))

/-- Reads the local units that have still to be read, or one of them, with or without the agent's own writes that have performed
nowhere, as choice `c` says (R96, R102): what it comes to, and the units read so far. -/
def State.agUnits (s : State) (ag : Agent) (c : Nat) (got : SMap (Option Byte)) (ps : List Place) : AgData × SMap (Option Byte) :=
  let left := (placeUnits 0 ps).filter fun u => (SMap.get none got u.1).isNone
  let us := if c / 2 = 0 then left else (left[(c / 2 - 1) % left.length]?).toList
  match State.agLocal ag (c % 2 == 0) (us.map (·.2)) s with
  | .ok s d => (.ok s d, putUnits us d got)
  | r => (r, got)

/-- The data of answered remote reads, or the first that was refused. -/
def State.agAnswers (s : State) (ids : List Nat) : AgData :=
  match s.refused ids with
  | some (c, va, l) => .bad (ids.foldl State.dropOp s) c va (ownLoc c l)
  | none => .ok (ids.foldl State.dropOp s) ((ids.map s.readBytes).flatten)

/-- Sends a remote read of an agent. -/
def State.agSend (s : State) (ag : Agent) (key : Nat) (deps : List Dep) (p : Place) : State :=
  s.addOp { blankOp s.focusP ag .read false p.addr p.va p.n with key := key, remote := p.pair, deps := deps }

/-- Hands out the writes of a range to its places, each whole or in its 4-byte units (R96). -/
def State.agWrite (ag : Agent) (key : Nat) (deps : List Dep) (slot : Nat) : List Place → List Byte → State → State
  | [], _, s => s
  | p :: ps, d, s =>
    State.agWrite ag key deps slot ps (d.drop p.n) (s.addWrite
      { blankOp s.focusP ag .write p.vault p.addr p.va p.n with
        data := d.take p.n, deps := deps, remote := p.pair, key := key, lining := p.lining, slot := slot })

/-- Sends the scatter update of a stream or node to another package (R67, R84): its operation, element and sequence number. -/
def State.sendUpdate (s : State) (p : Place) (key : Nat) (deps : List Dep) (slot : Option Nat) (sop elem seq : Nat) (v : Lane) : State :=
  s.addOp { blankOp s.focusP (.engines s.focusP) .rmw false p.addr p.va p.n with
            data := bytesOf 8 v.toNat, rd := elem, fn := 16 + sop, cmp := BitVec.ofNat 64 seq, deps := deps, remote := p.pair
            key := key, slot := slot.getD 64 }

end Sys2Proof.Machine
end

