-- ==== Sys2Proof/Machine/CStream.lean ====
section
/-! DEFINITION. Streams (R82, R83, R202 to R209, R212): the descriptor and its checks, what one service of a stream does,
how a stream ends. -/

namespace Sys2Proof.Machine

/-! ## Descriptors (R202) -/

/-- A field by its fld code. -/
def dfld (d : Desc) (n : Nat) : Nat := (SMap.get (0 : W64) d n).toNat
/-- Count of level `k`. -/
def dcount (d : Desc) (k : Nat) : Nat := dfld d (25 + k) + 1
/-- Stride of level `k`. -/
def dstride (d : Desc) (k : Nat) : Int := sgn 32 (dfld d (31 + k))
/-- The product of the counts from level `k` inward. -/
def dinner (d : Desc) (k : Nat) : Nat := (List.range (6 - k)).foldl (fun n i => n * dcount d (k + i)) 1
/-- The number of elements enumerated. -/
def dtotal (d : Desc) : Nat := dinner d 0
/-- The element offset of an index, level 0 outermost (R82). -/
def doff (d : Desc) (idx : Nat) : Int :=
  (List.range 6).foldl (fun (n : Int) k => n + (idx / dinner d (k + 1) % dcount d k : Nat) * dstride d k) 0
/-- The address of element `n` from a base, and whether it is the high half of its byte. -/
def elemAt (base : W64) (fmt : Nat) (n : Int) : W64 × Bool :=
  if fmtBits fmt = 4 then (addrPlus base (n / 2), n % 2 == 1) else (addrPlus base (n * ((fmtBits fmt / 8 : Nat) : Int)), false)
/-- Bytes of the elements below index `n`. -/
def bytesBelow (d : Desc) (n : Nat) : Nat := n * fmtBits (dfld d 2) / 8
/-- The scale in force: 1.0 where SCEN is clear. -/
def dscale (d : Desc) : Word32 := if dfld d 12 = 1 then BitVec.ofNat 32 (dfld d 21) else 0x3F800000
/-- Whether the descriptor packs. -/
def dpack (d : Desc) : Bool := dfld d 3 == 1

/-- Whether MODE, SRCK and DSTK form a row of R204. -/
def rowOk (m s t : Nat) : Bool :=
  match m, s with
  | 0, 0 => t == 1 || t == 3 || t == 0
  | 0, 4 => t == 1 || t == 3
  | 0, 2 => t == 0
  | 0, 3 => t == 0
  | 1, 0 => t == 1 || t == 3
  | 2, 0 => t == 1 || t == 3
  | 3, 2 => t == 0
  | 3, 3 => t == 0
  | _, _ => false

/-- The fields that offend against the table and the conditions of R204, by fld code. -/
def State.descBad (s : State) (d : Desc) : List Nat :=
  let m := dfld d 0
  let sk := dfld d 13
  let dk := dfld d 15
  let fmt := dfld d 2
  (if rowOk m sk dk then [] else [0])
    ++ (if m = 0 && sk = 0 && dk = 0 && !dpack d then [3] else [])
    ++ (if sk = 4 && !dpack d then [3] else [])
    ++ (if sk = 4 && fmt != 9 then [2] else [])
    ++ (if m = 2 && fmt != 0 && fmt != 9 then [2] else [])
    ++ (if fmt = 10 && (m != 0 || (sk = 0 && dk = 0)) then [2] else [])
    ++ (if fmtBits fmt = 4 && (m = 1 || m = 2) then [2] else [])
    ++ (if dfld d 4 = 1 && !(fmt = 10 && dk = 0) then [4] else [])
    ++ (if dfld d 6 = 1 && dk != 0 then [6] else [])
    ++ (if dfld d 7 = 1 && m != 3 then [7] else [])
    ++ (if dfld d 10 = 1 && dk != 1 && dk != 3 then [10] else [])
    ++ (if sk = 2 && 15 < dfld d 14 then [14] else [])
    ++ (if sk = 3 && (s.linkKey (dfld d 14) false).isNone then [14] else [])
    ++ (if dk = 1 && (31 < dfld d 16 || (s.qfmt (dfld d 16) != 1 && s.qfmt (dfld d 16) != 3)) then [16] else [])
    ++ (if dk = 3 && (s.linkKey (dfld d 16) true).isNone then [16] else [])
    ++ (if 2 ^ 31 ≤ dfld d 20 && !(m = 0 && dk = 0 && fmt != 10) then [20] else [])

/-- The trap of a descriptor at `c.go`: cause and TVAL (R204, R205). FORMAT is tested first, then ILLEGAL, then WALL,
then the conditions of ec8 (log 23, DEDUCED). -/
def State.descTrap (s : State) (d : Desc) (word : W64) : Option (Nat × W64) :=
  let fmt := dfld d 2
  if !fmtOk fmt || (fmtInt fmt && dscale d != 0x3F800000) then some (cFORMAT, word)
  else match s.descBad d with
    | x :: xs => some (cILLEGAL, BitVec.ofNat 64 (xs.foldl Nat.min x))
    | [] =>
      if dfld d 8 != 0 && dfld d 8 != s.domain then some (cWALL, 8)
      else if fmt = 10 && dfld d 18 % 64 != 0 then some (cMISALIGN, BitVec.ofNat 64 (dfld d 18))
      else if fmt = 10 && dtotal d % 32 != 0 then some (cFORMAT, 25)
      else none

/-! ## Slots -/

/-- A stream slot. -/
def Piece.slot (p : Piece) (k : Nat) : Stream := SMap.get {} p.slots k
/-- Replaces a stream slot. -/
def Piece.setSlot (p : Piece) (k : Nat) (x : Stream) : Piece :=
  { p with slots := if x.st == .free then p.slots.erase k else p.slots.insert k x }
/-- Changes a slot of the acting piece. -/
def State.modSlot (s : State) (k : Nat) (f : Stream → Stream) : State := s.modPiece fun p => p.setSlot k (f (p.slot k))

/-- Whether the streams an order names have ended and their operations performed at its scope (R213). -/
def State.streamsDone (s : State) (after : List Dep) : Bool :=
  after.all fun d =>
    (s.piece.slots.all fun kv => kv.2.order != d.op || (kv.2.st == .ending && kv.2.ops.all fun id => s.opDone id d.scope))
      && s.piece.cdone.all fun x => x.1 != d.op || s.opDone x.2 d.scope

/-! ## Barriers of streams (R88, R205, R212) -/

/-- Hands an event of the piece's engines to a barrier: 1 start, 2 land. -/
def State.engBar (s : State) (v what n : Nat) (start : Option Nat) (deps : List Dep) : State :=
  { s with opCount := s.opCount + 1, barEvs := s.barEvs ++
    [({ id := s.opCount, addr := v, what := what, bytes := n, start := start, src := s.focusP, agent := .engines s.focusP
        deps := deps } : BarEvent)] }

/-- Bytes of a stream have landed once the writes `ids` have performed at package scope, since a completion is a release there
(R88, R110). -/
def State.landBytes (s : State) (k n : Nat) (ids : List Nat) : State :=
  let x := s.piece.slot k
  let a := dfld x.desc 20
  if a < 2 ^ 31 || n = 0 then s
  else
    let v := a % 2 ^ 31
    (s.engBar v 2 n x.start (ids.map fun id => { op := id, scope := 3 })).modSlot k
      fun x => { x with landed := x.landed + n }

/-- A reserved entry that will never be filled leaves its queue. -/
def Piece.dropEnt (p : Piece) (x : Stream) : Piece :=
  match x.ent with
  | some id => let q := dfld x.desc 16; p.setQ q ((p.qOf q).filter fun e => !(e.strm && e.rid == id && e.tok.isNone))
  | none => p

/-- A stream ends: what it will never write lands (R212), and a stream queued behind it starts. -/
def State.endStream (s : State) (k : Nat) : State :=
  let x := s.piece.slot k
  let s := s.modPiece (·.dropEnt x)
  let s := s.landBytes k (bytesBelow x.desc (dtotal x.desc) - x.landed) []
  let s := s.modSlot k fun x => { x with st := .ending, fill := [], bytes := [], oks := [], elems := [], bits := [], ent := none, got := [] }
  s.modPiece fun p => { p with slots := p.slots.map fun kv =>
    (kv.1, if kv.2.sd = x.sd && kv.2.st == .queued then { kv.2 with st := .running } else kv.2) }

/-! ## Faults -/

/-- TLOC of a stream fault (R209): descriptor and element index, or the lane sequence number of a scatter (R369). -/
def Stream.loc (x : Stream) : W64 :=
  BitVec.ofNat 64 (x.sd + 16 * (if dfld x.desc 0 = 3 then x.seq else x.idx))

/-- A stream faults: it is HELD, C stops before its next word, and the trap is raised (R209). -/
def State.holdStream (s : State) (k code : Nat) (val : W64) (loc : Option W64) : State :=
  let x := s.piece.slot k
  let s := s.modSlot k fun x => { x with st := .held }
  s.modPiece fun p => Piece.raise { p with c := { p.c with stopped := true } }
    { code := code, unit := 5, async := true, val := val, loc := loc.getD x.loc, slot := k }

/-! ## One step of a stream -/

/-- What one step of a stream comes to. -/
inductive Micro where
  /-- An element has been done: go on in this service. -/
  | more (s : State)
  /-- The service is over: a token has been pushed, the stream waits, or it has ended. -/
  | stop (s : State)
  /-- A fault at the element. -/
  | fault (s : State) (code : Nat) (val : W64) (loc : Option W64)

/-- The engines of the acting piece as an agent. -/
def State.engAgent (s : State) : Agent := .engines s.focusP

/-- Bytes moved by the address generators count (R201). -/
def State.countBytes (s : State) (ev n : Nat) : State := s.modPiece (·.count ev n)

/-- What the slot's reads have seen of others belongs to what its end waits for (R108, R213). -/
def State.slotSaw (s : State) (k : Nat) : State :=
  match s.observed s.engAgent with
  | [] => s
  | vis => s.modSlot k fun x => { x with ops := (x.ops.filter fun id => !s.opDone id 4) ++ vis }

/-- A stream into a q queue reserves its entry with the first read it sends for a token (R208); none where the queue is full. -/
def State.reserve (s : State) (k : Nat) : Option State :=
  let x := s.piece.slot k
  let q := dfld x.desc 16
  if dfld x.desc 15 != 1 || x.ent.isSome then some s
  else if s.piece.qFull q then none
  else
    let (id, s) := s.takeOp
    some ((s.modPiece fun p => p.setQ q (p.qOf q ++ [{ rid := id, strm := true }])).modSlot k fun x => { x with ent := some id })

/-- Places without their addresses as formed, and back. -/
def Place.bare (p : Place) : Bool × Nat × Nat := (p.vault, p.addr, p.n)
/-- A local place of a read under way. -/
def barePlace (va : W64) (b : Bool × Nat × Nat) : Place :=
  { vault := b.1, addr := b.2.1, n := b.2.2, va := va, key := 0, pair := none, lining := none }

/-- Reads local places for a stream: all of them, or one 4-byte unit in this cycle, as the next choice says (R96, R107). -/
def State.streamLocal (s : State) (k n : Nat) (ps : List Place) (go : State → List Byte → Micro) : Micro :=
  if !s.agReadable s.engAgent ps then .stop s
  else
    let (c, s) := s.choose
    match s.agUnits s.engAgent c (s.piece.slot k).got ps with
    | (.ok s _, got) =>
      let s := s.slotSaw k
      if (placeUnits 0 ps).all fun u => (SMap.get none got u.1).isSome then
        go ((s.modSlot k fun x => { x with got := [], src := [] }).countBytes 12 n) (gotAll n got)
      else .stop (s.modSlot k fun x => { x with got := got, src := ps.map Place.bare })
    | (.bad s c a l, _) => .fault (s.modSlot k fun x => { x with got := [], src := [] }) c a l
    | (.sent s _, _) => .stop s

/-- Reads for a stream, then goes on with the data; a remote read is sent and waited for. -/
def State.streamRead (s : State) (k : Nat) (adr : W64) (n : Nat) (ver : Bool) (go : State → List Byte → Micro) : Micro :=
  let x := s.piece.slot k
  match x.rem with
  | some id =>
    if !s.answered [id] then .stop s
    else match (s.modSlot k fun x => { x with rem := none }).agAnswers [id] with
      | .ok s d => go (s.countBytes 12 n) d
      | .bad s c a l => .fault s c a l
      | .sent s _ => .stop s
  | none =>
    if !x.src.isEmpty then s.streamLocal k n (x.src.map (barePlace adr)) go
    else match s.agPlaces adr n (dfld x.desc 1) { write := false, turned := .face, ver := ver } with
    | .wait s => .stop s
    | .bad s c a l => .fault s c a l
    | .ok s ps =>
      if ps.any (·.pair.isSome) && 1 < ps.length then .fault s cMISALIGN adr none
      else match s.reserve k with
        | none => .stop s
        | some s =>
          match ps.find? (·.pair.isSome) with
          | none => s.streamLocal k n ps go
          | some p =>
            let id := s.opCount
            .stop ((s.agSend s.engAgent (dfld x.desc 8) x.deps p).modSlot k fun x => { x with rem := some id })

/-- Whether a read of the stream is under way. -/
def Stream.mid (x : Stream) : Bool := x.rem.isSome || !x.src.isEmpty

/-- Writes for a stream: the destination is checked, then the writes are handed out. `land` is the number of bytes that
land with them. -/
def State.streamWrite (s : State) (k : Nat) (adr : W64) (data : State → Place → List Byte) (n land : Nat)
    (go : State → Micro) : Micro :=
  let x := s.piece.slot k
  match s.agPlaces adr n (dfld x.desc 1)
      { write := true, turned := if dfld x.desc 6 = 1 then .liningOnly else .refuse } with
  | .wait s => .stop s
  | .bad s c a l => .fault s c a l
  | .ok s ps =>
    let m := s.opCount
    let d := match ps with
      | p :: _ => data s p
      | [] => []
    let s := State.agWrite s.engAgent (dfld x.desc 8) x.deps k ps d s
    let ids := tab (s.opCount - m) (m + ·)
    let s := s.modSlot k fun x => { x with ops := (x.ops.filter fun id => !s.opDone id 4) ++ ids }
    go ((s.landBytes k land ids).countBytes 13 n)

/-- The bytes a 4-bit element leaves in its byte. -/
def State.nibbleAt (ag : Agent) (hi : Bool) (v : Nat) (s : State) (p : Place) : List Byte :=
  bytesOf 1 (setNibble hi (ofBytes (s.view ag p.vault p.addr 1 true s.opCount).data) v)

/-! ### Tokens into queues -/

/-- A stream fills the entry it has reserved (R208). -/
def Piece.fillStrm (p : Piece) (q id : Nat) (t : Token) (time : Nat) : Piece :=
  { p.setQ q ((p.qOf q).map fun e =>
      if e.strm && e.rid = id && e.tok.isNone then { tok := some t, at_ := time + 1 } else e) with moved := true }

/-- Pushes a token of a stream into its destination; a data token takes a credit (R205). -/
def State.streamPush (s : State) (k : Nat) (t : Token) (go : State → State) : Micro :=
  let x := s.piece.slot k
  let d := x.desc
  if t.isData && dfld d 10 = 1 && x.credit = 0 then .stop s
  else
    let paid (s : State) : State :=
      if t.isData && dfld d 10 = 1 then s.modSlot k fun x => { x with credit := x.credit - 1 } else s
    if dfld d 15 = 1 then
      match (if t.isData then x.ent else none) with
      | some id =>
        .stop (go (paid ((s.modPiece fun p => p.fillStrm (dfld d 16) id t s.time).modSlot k fun x => { x with ent := none })))
      | none =>
        if s.piece.qFull (dfld d 16) then .stop s
        else .stop (go (paid (s.modPiece fun p => p.pushQ (dfld d 16) t s.time)))
    else match s.pushLink (dfld d 16) t with
      | .pushed s => .stop (go (paid s))
      | .lost n => .fault s cLINK_LOST (BitVec.ofNat 64 (dfld d 16)) (some (BitVec.ofNat 64 n ||| x.loc))
      | _ => .stop s

/-- A packed token (R205): 64 stored bytes in 16 lanes. A lane is valid where it holds a stored byte. -/
def packTok (bs : List Byte) (oks : List Bool) : Token :=
  { kind := .data, lanes := tab 16 fun i =>
      { valid := (nth false oks (4 * i)) || nth false oks (4 * i + 1) || nth false oks (4 * i + 2) || nth false oks (4 * i + 3)
        val := BitVec.ofNat 40 (ofBytes (tab 4 fun j => if nth false oks (4 * i + j) then nth 0 bs (4 * i + j) else 0)) } }

/-- The token of the lanes filled so far. -/
def laneTok (ls : List LaneV) : Token := { kind := .data, lanes := tab 16 fun i => nth {} ls i }

/-- Whether a stream holds part of a token. -/
def Stream.part (x : Stream) : Bool := !x.fill.isEmpty || !x.bytes.isEmpty || x.nib.isSome
/-- Whether the token being filled is full. -/
def Stream.full (x : Stream) : Bool := 16 ≤ x.fill.length || 64 ≤ x.bytes.length

/-- The partly filled token. -/
def Stream.token (x : Stream) : Token :=
  if dpack x.desc then
    let b := match x.nib with
      | some v => x.bytes ++ [BitVec.ofNat 8 v]
      | none => x.bytes
    packTok b (match x.nib with
      | some _ => x.oks ++ [true]
      | none => x.oks)
  else laneTok x.fill

/-- Pushes the token being filled. -/
def State.pushFill (s : State) (k : Nat) : Micro :=
  s.streamPush k (s.piece.slot k).token fun s =>
    s.modSlot k fun x => { x with fill := [], bytes := [], oks := [], nib := none, flush := false }

/-- Adds a stored element to the token being filled: a lane, or its bytes. -/
def Stream.take (x : Stream) (ok hi : Bool) (d : List Byte) : Stream × FFlags :=
  let fmt := dfld x.desc 2
  if dpack x.desc then
    if fmtBits fmt = 4 then
      let v := laneElem fmt hi d
      match x.nib with
      | none => ({ x with nib := some v }, 0)
      | some lo => ({ x with nib := none, bytes := x.bytes ++ bytesOf 1 (lo + 16 * v), oks := x.oks ++ [ok] }, 0)
    else ({ x with bytes := x.bytes ++ d, oks := x.oks ++ List.replicate d.length ok }, 0)
  else if !ok then ({ x with fill := x.fill ++ [{}] }, 0)
  else
    let r := scaleIn fmt (laneElem fmt hi d) (dscale x.desc)
    ({ x with fill := x.fill ++ [{ valid := true, val := r.1 }] }, r.2)

/-- Takes an element into the slot, with its flags (R206). -/
def State.takeElem (s : State) (k : Nat) (ok hi : Bool) (d : List Byte) (f : Stream → Stream) : State :=
  let r := (s.piece.slot k).take ok hi d
  s.modPiece fun p => Piece.flag (p.setSlot k (f r.1)) .convert r.2

/-- The hem due after an element (R205): the outermost level whose run completes and whose bit is set. -/
def hemAfter (d : Desc) (idx : Nat) : Option Nat :=
  (List.range 6).find? fun l => bitAt (dfld d 11) l && (idx + 1) % dinner d l == 0

/-- The end of a stream into a queue: the partly filled token, then, after `c.stop`, a hem of level 0 (R212). -/
def State.finishPush (s : State) (k : Nat) : Micro :=
  let x := s.piece.slot k
  if x.part then s.pushFill k
  else if x.stop && !x.stopHem then
    s.streamPush k (hemTok 0) fun s => (s.modSlot k fun x => { x with stopHem := true }).endStream k
  else .stop (s.endStream k)

/-- Whether a stream has no credit for a token it has not begun: it reads nothing for it (R205, log 40, DEDUCED). -/
def Stream.broke (x : Stream) : Bool := dfld x.desc 10 == 1 && x.credit == 0 && !x.part

/-- Memory to a queue, affine, any format but ec8; and versioned cells (R205). -/
def State.affineOut (s : State) (k : Nat) : Micro :=
  let x := s.piece.slot k
  let d := x.desc
  if x.full || (x.flush && x.part) || (x.hem.isSome && x.part) then s.pushFill k
  else match x.hem with
    | some l => s.streamPush k (hemTok l) fun s => s.modSlot k fun x => { x with hem := none }
    | none =>
      if (x.stop && !x.mid) || dtotal d ≤ x.idx then s.finishPush k
      else if x.broke && !x.mid then .stop s
      else if dfld d 13 = 4 then
        s.streamRead k (addrPlus (BitVec.ofNat 64 (dfld d 18)) (32 * doff d x.idx)) 32 true fun s b =>
          let c := cellOf b
          .more (s.takeElem k true false (bytesOf 8 (c.value c.newest).toNat) fun x =>
            { x with idx := x.idx + 1, hem := hemAfter d x.idx })
      else
        let e := elemAt (BitVec.ofNat 64 (dfld d 18)) (dfld d 2) (doff d x.idx)
        s.streamRead k e.1 (elemBytes (dfld d 2)) false fun s b =>
          .more (s.takeElem k true e.2 b fun x => { x with idx := x.idx + 1, hem := hemAfter d x.idx })

/-- Indirect mode (R82): `fill` is built from the index lanes held in `bits`-free form, one index token at a time; the
index token popped and not used stands in `elems` as 4 bytes and a validity byte a lane. -/
def State.indirectOut (s : State) (k : Nat) : Micro :=
  let x := s.piece.slot k
  let d := x.desc
  if x.full || (x.flush && x.part) || (x.hem.isSome && x.part) then s.pushFill k
  else match x.hem with
    | some l => s.streamPush k (hemTok l) fun s => (s.modSlot k fun x => { x with hem := none, stopHem := true }).endStream k
    | none =>
      if x.stop && !x.mid then s.finishPush k
      else if x.broke && !x.mid && !x.elems.isEmpty then .stop s
      else match x.elems with
        | _ :: _ =>
          let ok := (nth 0 x.elems 4) != 0
          let i := sgn 32 (ofBytes (x.elems.take 4))
          let next (x : Stream) : Stream := { x with elems := x.elems.drop 5, idx := x.idx + 1 }
          if !ok then .more (s.takeElem k false false (List.replicate (elemBytes (dfld d 2)) 0) next)
          else
            let e := elemAt (BitVec.ofNat 64 (dfld d 18)) (dfld d 2) (dstride d 0 * i)
            s.streamRead k e.1 (elemBytes (dfld d 2)) false fun s b => .more (s.takeElem k true e.2 b next)
        | [] =>
          let y := dfld d 17
          match s.piece.yOf y with
          | [] => .stop s
          | t :: rest =>
            let s := s.modPiece fun p => { p.setY y rest with moved := true }
            match t.kind with
            | .hem => .more (s.modSlot k fun x => { x with hem := some t.level.toNat })
            | .turn => .more s
            | .kset => .more s
            | _ => .more (s.modSlot k fun x => { x with elems := (t.lanes.map fun l =>
                bytesOf 4 (laneWord l.val) ++ [if l.valid then 1 else 0]).flatten })

/-- Chase mode (R83): a token a node, then a hem of level 0. The link is read at the node's retry-safe point, before the
token is pushed. -/
def State.chaseOut (s : State) (k : Nat) : Micro :=
  let x := s.piece.slot k
  let d := x.desc
  let deliver (s : State) (node : W64) : State :=
    let s := (tab 16 fun i => (x.elems.drop (4 * i)).take 4).foldl (fun s b => s.takeElem k true false b id) s
    s.modSlot k fun x => { x with elems := [], node := node, nodes := x.nodes + 1, idx := x.idx + 1 }
  if x.part then s.pushFill k
  else if (x.stop && !x.mid && x.elems.isEmpty) || x.node = 0 || dcount d 0 ≤ x.nodes then
    s.streamPush k (hemTok 0) fun s => (s.modSlot k fun x => { x with stopHem := true }).endStream k
  else if x.elems.isEmpty && !x.mid && x.broke then .stop s
  else if x.elems.isEmpty then
    s.streamRead k x.node 64 false fun s b => .more (s.modSlot k fun x => { x with elems := b })
  else if x.stop && !x.mid then .more (deliver s 0)
  else
    s.streamRead k (addrPlus x.node (dstride d 0)) 8 false fun s b =>
      let link := ofBytes b
      .more (deliver s (if link = 0 then 0 else addrPlus (BitVec.ofNat 64 link) (dstride d 1)))

/-- The address of the 64-byte unit that holds the header of the next block of an ec8 stream (R376). -/
def Stream.headUnit (x : Stream) : W64 :=
  BitVec.ofNat 64 (dfld x.desc 18) + BitVec.ofNat 64 (64 * ((512 * x.pos - x.bits.length) / 512))

/-- An ec8 stream goes back to the header of the block it has come to, so that its units are read again (R209). -/
def Stream.reread (x : Stream) : Stream :=
  let b := 512 * x.pos - x.bits.length
  { x with pos := b / 512, skip := b % 512, bits := [], again := if dpack x.desc then x.again + (x.pos - b / 512) else 0 }

/-- A unit of an ec8 stream has been read; of a carried stream it is a token, unless it was delivered before. -/
def Stream.takeUnit (x : Stream) (b : List Byte) : Stream :=
  let y := { x with bits := (x.bits ++ bitsOfBytes b).drop x.skip, skip := 0, pos := x.pos + 1 }
  if !dpack x.desc then y
  else if x.again = 0 then { y with bytes := b, oks := List.replicate 64 true }
  else { y with again := x.again - 1 }

/-- A block of a carried ec8 stream has passed; the hems of all its elements follow the token that holds its end (log 24, DEDUCED). -/
def Stream.passBlock (x : Stream) (rest : List Bool) : Stream :=
  let hs := (List.range 32).filterMap fun i => hemAfter x.desc (x.idx + i)
  { x with bits := rest, coded := x.coded + 32, idx := x.idx + 32, hem := hs.head?, hems := hs.tail }

/-- An ec8 stream into a queue: decoded to e4m3 lanes, or carried in 64-byte units (R132, R205). -/
def State.ec8Out (s : State) (k : Nat) : Micro :=
  let x := s.piece.slot k
  let d := x.desc
  let unit (s : State) : Micro :=
    if x.stop && !x.mid then s.finishPush k
    else if x.broke && !x.mid then .stop s
    else s.streamRead k (BitVec.ofNat 64 (dfld d 18 + 64 * x.pos)) 64 false fun s b => .more (s.modSlot k (·.takeUnit b))
  let bad (s : State) : Micro := .fault (s.modSlot k Stream.reread) cFORMAT x.headUnit none
  if x.full || (x.flush && x.part) || (x.hem.isSome && x.part) then s.pushFill k
  else match x.hem with
    | some l => s.streamPush k (hemTok l) fun s => s.modSlot k fun x => { x with hem := x.hems.head?, hems := x.hems.tail }
    | none =>
      if dpack d then
        if dtotal d ≤ x.coded then s.finishPush k
        else if ec8Whole x.bits then
          match ec8Block x.bits with
          | none => bad s
          | some r => .more (s.modSlot k (·.passBlock r.2))
        else unit s
      else if dtotal d ≤ x.idx then s.finishPush k
      else match x.elems with
        | b :: rest =>
          let r := scaleIn 3 b.toNat (dscale d)
          .more (s.modPiece fun p => Piece.flag (p.setSlot k { x with
            elems := rest, fill := x.fill ++ [{ valid := true, val := r.1 }], idx := x.idx + 1, hem := hemAfter d x.idx })
            .convert r.2)
        | [] =>
          if ec8Whole x.bits then
            match ec8Block x.bits with
            | none => bad s
            | some r => .more (s.modSlot k fun x => { x with bits := r.2, elems := r.1 })
          else unit s

/-! ### Tokens into memory -/

/-- What taking the next source token of a stream comes to. -/
inductive SrcTok where
  | tok (s : State) (t : Token)
  | none
  | lost (pair : Nat)

/-- Pops the next token of a y or link source. -/
def State.sourceTok (s : State) (k : Nat) : SrcTok :=
  let d := (s.piece.slot k).desc
  let n := dfld d 14
  if dfld d 13 = 2 then
    match s.piece.yOf n with
    | [] => .none
    | t :: rest => .tok (s.modPiece fun p => { p.setY n rest with moved := true }) t
  else match s.popLink n with
    | .popped s t => .tok s t
    | .lost p => .lost p
    | _ => .none

/-- The 64 bytes of a packed token with the validity of their lanes (R205). -/
def unpackTok (t : Token) : List Byte × List Bool :=
  ((t.lanes.map fun l => bytesOf 4 (laneWord l.val)).flatten, (t.lanes.map fun l => List.replicate 4 l.valid).flatten)

/-- The next token of a stream into memory: data and control tokens are taken, a hem of level 0 ends the stream, the
others are dropped (R205, R234). -/
def State.fetchTok (s : State) (k : Nat) (take : State → Token → Micro) : Micro :=
  let x := s.piece.slot k
  match s.sourceTok k with
  | .none => .stop s
  | .lost n => .fault s cLINK_LOST (BitVec.ofNat 64 (dfld x.desc 14)) (some (BitVec.ofNat 64 n ||| x.loc))
  | .tok s t =>
    match t.kind with
    | .hem => if t.level = 0 then .more (s.modSlot k fun x => { x with stop := true }) else .more s
    | .turn => .more s
    | .kset => .more s
    | _ => take s t

/-- A y or link queue to memory, affine, any format but ec8 (R205): one address a lane position. -/
def State.affineIn (s : State) (k : Nat) : Micro :=
  let x := s.piece.slot k
  let d := x.desc
  let fmt := dfld d 2
  let e := elemAt (BitVec.ofNat 64 (dfld d 18)) fmt (doff d x.idx)
  let n := elemBytes fmt
  let land := bytesBelow d (x.idx + 1) - bytesBelow d x.idx
  if dtotal d ≤ x.idx then .stop (s.endStream k)
  else match x.fill with
    | l :: rest =>
      let next (s : State) : State := s.modSlot k fun x => { x with fill := rest, idx := x.idx + 1 }
      if !l.valid then .more (next s)
      else
        let r := scaleOut fmt l.val (dscale d)
        let data : State → Place → List Byte :=
          if fmtBits fmt = 4 then State.nibbleAt s.engAgent e.2 r.1 else fun _ _ => bytesOf n r.1
        s.streamWrite k e.1 data n land fun s => .more ((next s).modPiece fun p => p.flag .convert r.2)
    | [] =>
      match x.bytes with
      | b :: _ =>
        let half := fmtBits fmt = 4
        let ok := (x.oks.take n).all id
        let v := ofBytes (x.bytes.take n)
        let next (s : State) : State := s.modSlot k fun x =>
          if half && x.nib.isNone then { x with nib := some 0, idx := x.idx + 1 }
          else { x with bytes := x.bytes.drop n, oks := x.oks.drop n, nib := none, idx := x.idx + 1 }
        let el := if half then (if x.nib.isNone then b.toNat % 16 else b.toNat / 16) else v
        let data : State → Place → List Byte :=
          if half then State.nibbleAt s.engAgent e.2 el else fun _ _ => bytesOf n el
        if !ok then .more (next s) else s.streamWrite k e.1 data n land fun s => .more (next s)
      | [] =>
        if x.stop then .stop (s.endStream k)
        else s.fetchTok k fun s t =>
          if dpack d then .more (s.modSlot k fun x => { x with bytes := (unpackTok t).1, oks := (unpackTok t).2 })
          else .more (s.modSlot k fun x => { x with fill := t.lanes })

/-- Memory to memory, packed (R205, R206): one element read and written. -/
def State.affineCopy (s : State) (k : Nat) : Micro :=
  let x := s.piece.slot k
  let d := x.desc
  let fmt := dfld d 2
  let n := elemBytes fmt
  let land := bytesBelow d (x.idx + 1) - bytesBelow d x.idx
  if (x.stop && !x.mid && x.elems.isEmpty) || dtotal d ≤ x.idx then .stop (s.endStream k)
  else
    let a := elemAt (BitVec.ofNat 64 (dfld d 18)) fmt (doff d x.idx)
    let b := elemAt (BitVec.ofNat 64 (dfld d 19)) fmt (doff d x.idx)
    let store (s : State) (v : List Byte) : Micro :=
      let data : State → Place → List Byte :=
        if fmtBits fmt = 4 then State.nibbleAt s.engAgent b.2 (laneElem fmt a.2 v) else fun _ _ => v
      s.streamWrite k b.1 data n land fun s => .more (s.modSlot k fun x => { x with idx := x.idx + 1, elems := [] })
    match x.elems with
    | [] => s.streamRead k a.1 n false fun s v => .more (s.modSlot k fun x => { x with elems := v })
    | v => store s v

/-- A byte the manual does not state: an element of an ec8 block that no valid lane supplied (log 24, DESIGN CHOICE). -/
def State.freeByte (s : State) : Byte × State :=
  let (n, s) := s.takeFresh
  (BitVec.ofNat 8 (Config.undefLane n).toNat, s)

/-- Fills an incomplete ec8 block. -/
def State.fillBlock (k : Nat) : Nat → State → State
  | 0, s => s
  | n + 1, s =>
    let (b, s) := s.freeByte
    State.fillBlock k n (s.modSlot k fun x => { x with elems := x.elems ++ [b] })

/-- A y or link queue to an ec8 stream in memory (R131, R205). A carried stream that ends within a block raises FORMAT (R130); only
zeros behind its last block fill its last unit (log 24, DEDUCED). -/
def State.ec8In (s : State) (k : Nat) : Micro :=
  let x := s.piece.slot k
  let d := x.desc
  let adr := BitVec.ofNat 64 (dfld d 18 + 64 * x.pos)
  let put (s : State) (b : List Byte) (f : Stream → Stream) : Micro :=
    s.streamWrite k adr (fun _ _ => b) 64 0 fun s => .more (s.modSlot k f)
  let ended := x.stop && x.fill.isEmpty && x.bytes.isEmpty
  if dpack d then
    match x.bytes with
    | _ :: _ =>
      if x.bytes.length = 64 && x.oks.all id then put s x.bytes fun x => { x with bytes := [], oks := [], pos := x.pos + 1 }
      else
        let next (s : State) : State := s.modSlot k fun x =>
          { x with bytes := x.bytes.drop 4, oks := x.oks.drop 4, pos := if x.bytes.length ≤ 4 then x.pos + 1 else x.pos }
        if nth false x.oks 0 then
          s.streamWrite k (adr + BitVec.ofNat 64 (64 - x.bytes.length)) (fun _ _ => x.bytes.take 4) 4 0 fun s => .more (next s)
        else .more (next s)
    | [] =>
      if dtotal d ≤ x.coded then .stop (s.endStream k)
      else if ec8Whole x.bits then
        match ec8Block x.bits with
        | none => .fault s cFORMAT x.headUnit none
        | some r => .more (s.modSlot k fun x => { x with bits := r.2, coded := x.coded + 32, idx := x.idx + 32 })
      else if ended then
        if x.bits.any id then .fault s cFORMAT x.headUnit none else .stop (s.endStream k)
      else s.fetchTok k fun s t =>
        .more (s.modSlot k fun x =>
          { x with bytes := (unpackTok t).1, oks := (unpackTok t).2, bits := x.bits ++ bitsOfBytes (unpackTok t).1 })
  else if 512 ≤ x.bits.length then
    put s (bytesOfBits 64 (x.bits.take 512)) fun x => { x with bits := x.bits.drop 512, pos := x.pos + 1 }
  else if 32 ≤ x.elems.length then
    .more (s.modSlot k fun x => { x with bits := x.bits ++ ec8Encode (dfld d 4 == 1) (x.elems.take 32), elems := x.elems.drop 32 })
  else if dtotal d ≤ x.idx || ended then
    if !x.elems.isEmpty then .more (State.fillBlock k (32 - x.elems.length) s)
    else if x.bits.isEmpty then .stop (s.endStream k)
    else put s (bytesOfBits 64 (x.bits ++ List.replicate (512 - x.bits.length) false)) fun x =>
      { x with bits := [], pos := x.pos + 1 }
  else if x.flush && !x.bits.isEmpty then
    put s (bytesOfBits 64 (x.bits ++ List.replicate (512 - x.bits.length) false)) fun x =>
      { x with bits := [], pos := x.pos + 1, flush := false }
  else match x.fill with
    | l :: rest =>
      if l.valid then
        let r := scaleOut 3 l.val (dscale d)
        .more (s.modPiece fun p => Piece.flag (p.setSlot k { x with
          fill := rest, elems := x.elems ++ [BitVec.ofNat 8 r.1], idx := x.idx + 1 }) .convert r.2)
      else
        let (b, s) := s.freeByte
        .more (s.modSlot k fun x => { x with fill := rest, elems := x.elems ++ [b], idx := x.idx + 1 })
    | [] => s.fetchTok k fun s t => .more (s.modSlot k fun x => { x with fill := t.lanes })

/-- A stream hands one update to the bank element of its address, or sends it to another package (R67, R84). -/
def State.handUpdate (s : State) (k : Nat) (e : W64 × Bool) (v : Lane) (ps : List Place) : State :=
  let x := s.piece.slot k
  let d := x.desc
  let id := s.opCount
  let s := match ps with
    | [] => s
    | p :: _ =>
      if p.pair.isSome then s.sendUpdate p (dfld d 8) x.deps (some k) (dfld d 5) 0 x.seq v
      else
        { s with opCount := id + 1, scatters := s.scatters ++
          [({ id := id, piece := s.focusP, slot := some k, elem := 0, vault := p.vault, addr := p.addr, va := e.1
              fmt := dfld d 2, nib := e.2, sop := dfld d 5, val := v, seq := x.seq
              jrnl := if dfld d 7 = 1 then some (dfld d 23, dfld d 24) else none, lining := p.lining, scale := some (dscale d)
              parts := if 1 < ps.length then ps.map fun (p : Place) => (p.addr, p.n) else [] } : Scatter)] }
  s.modSlot k fun x => { x with ops := (x.ops.filter fun i => !s.opDone i 4) ++ [id] }

/-- Scatter (R82, R84, R214, R356): each valid lane of a sparse token sends an update to its bank element. A token that is not sparse
stays where it is (R209). -/
def State.scatterIn (s : State) (k : Nat) : Micro :=
  let x := s.piece.slot k
  let d := x.desc
  let fmt := dfld d 2
  match x.fill with
  | l :: rest =>
    let next (s : State) : State := s.modSlot k fun x => { x with fill := rest, seq := x.seq + 1 }
    if !l.valid || x.seq < x.check || x.used.contains x.seq then .more (next s)
    else
      let e := elemAt (BitVec.ofNat 64 (dfld d 18)) fmt (dstride d 0 * l.coord.toNat)
      match s.agPlaces e.1 (elemBytes fmt) (dfld d 1)
          { write := true, host := false, turned := if dfld d 6 = 1 then .liningOnly else .refuse } with
      | .wait s => .stop s
      | .bad s c a loc => .fault s c a loc
      | .ok t ps =>
        if ps.any (·.pair.isSome) && 1 < ps.length then .fault t cMISALIGN e.1 none
        else .more (next (t.handUpdate k e l.val ps))
  | [] =>
    if x.stop then .stop (s.endStream k)
    else s.fetchTok k fun t tok =>
      if tok.kind == .sparse then .more (t.modSlot k fun x => { x with fill := tok.lanes })
      else
        let (n, s) := s.takeFresh
        .fault s cFORMAT (Config.freeWord n) none

/-- One step of a running stream, by its row of R204. -/
def State.streamMicro (s : State) (k : Nat) : Micro :=
  let d := (s.piece.slot k).desc
  let ec8 := dfld d 2 == 10
  match dfld d 0 with
  | 0 =>
    if dfld d 13 = 0 && dfld d 15 = 0 then s.affineCopy k
    else if dfld d 15 = 0 then (if ec8 then s.ec8In k else s.affineIn k)
    else if ec8 then s.ec8Out k else s.affineOut k
  | 1 => s.indirectOut k
  | 2 => s.chaseOut k
  | _ => s.scatterIn k

/-- Steps of one service, up to a number of them. A faulting step keeps what the steps before it did. -/
def State.serve (k : Nat) : Nat → State → State
  | 0, s => s
  | n + 1, s =>
    match s.streamMicro k with
    | .more s => State.serve k n s
    | .stop s => s
    | .fault s c v l => s.holdStream k c v l

/-- The running streams of the acting piece's bay: piece, slot and stream. -/
def State.bayStreams (s : State) : List (Nat × Nat × Stream) :=
  s.pieces.flatMap fun kv =>
    if kv.2.live && 8 * kv.2.panel + kv.2.bay = s.bayKey then
      (kv.2.slots.filter fun x => x.2.st == .running).map fun x => (kv.1, x.1, x.2)
    else []

/-- Whether a stream of a piece has anything to do: no read of it is unanswered, its queues have room and tokens. -/
def State.canServe (s : State) (p : Nat) (x : Stream) : Bool :=
  let s := s.at p
  let d := x.desc
  s.answered x.rem.toList && s.depsMet x.deps && s.streamsDone x.after
    && (match dfld d 15 with
      | 1 => x.ent.isSome || !s.piece.qFull (dfld d 16)
      | 3 => (s.linkKey (dfld d 16) true).all fun k => (s.linkQ k).lost || (s.linkQ k).send.length < 16
      | _ => true)
    && (!(x.fill.isEmpty && x.bytes.isEmpty && x.elems.isEmpty) || x.stop || x.part ||
      (match dfld d 13 with
        | 2 => !(s.piece.yOf (dfld d 14)).isEmpty
        | 3 => (s.linkKey (dfld d 14) false).all fun k => (s.linkQ k).lost || !(s.linkQ k).recv.isEmpty
        | _ => dfld d 0 != 1 || !(s.piece.yOf (dfld d 17)).isEmpty))

/-- Whether one stream is served before another: by priority, and among equals the one served longer ago (R207). -/
def outranks (a b : Nat × Nat × Stream) : Bool :=
  let age (x : Stream) : Nat := (x.last.map (· + 1)).getD 0
  decide (b.2.2.pri < a.2.2.pri) || (a.2.2.pri == b.2.2.pri
    && (decide (age a.2.2 < age b.2.2) || (age a.2.2 == age b.2.2 && (decide (a.1 < b.1) || (a.1 == b.1 && decide (a.2.1 < b.2.1))))))

/-- Whether one of the bay's 16 address generators is there for a stream in this cycle (R207): those not taken by streams served
already are kept for the streams with something to do that go before it. -/
def State.generatorFor (s : State) (k : Nat) : Bool :=
  let all := s.bayStreams
  if all.length ≤ 16 then true
  else
    let me := (s.focusP, k, s.piece.slot k)
    let served := (all.filter fun y => y.2.2.last == some s.time).length
    let ahead := (all.filter fun y => y.2.2.last != some s.time && outranks y me && s.canServe y.1 y.2.2).length
    decide (served + ahead < 16)

/-- The most steps of one service: what a token, or 64 bytes of memory, takes (R11). -/
def mostSteps (d : Desc) : Nat :=
  if dfld d 2 = 10 then 66
  else if dfld d 0 = 0 && dfld d 13 = 0 && dfld d 15 = 0 then 2 * (64 / elemBytes (dfld d 2))
  else if dpack d then 64 / elemBytes (dfld d 2) + 2
  else 18

/-- An address generator serves a running stream for one fabric cycle (R207): up to a token, or 64 bytes. The choice may
end the service earlier. -/
def execStreamTransfer (p k : Nat) (s : State) : Host.Outcome State Fault Refusal :=
  let back := s.focusP
  let s := s.at p
  let x := s.piece.slot k
  if !s.piece.live || x.st != .running || x.last == some s.time || s.piece.abort.isSome || !s.canServe p x
      || !s.generatorFor k then .next (s.at back)
  else
    let (c, s) := s.choose
    let s := s.modSlot k fun x => { x with last := some s.time }
    let most := mostSteps x.desc
    .next ((State.serve k (if c = 0 || most < c then most else c) s).at back)

/-- A stream whose elements have all been read ends once its writes have performed at package scope (R207). -/
def execStreamEnd (p k : Nat) (s : State) : Host.Outcome State Fault Refusal :=
  let back := s.focusP
  let s := s.at p
  let x := s.piece.slot k
  if !s.piece.live || x.st != .ending || x.mark.isSome || !x.ops.all (fun id => s.opDone id 3) then .next (s.at back)
  else
    let left := (x.ops.filter fun id => !s.opDone id 4).map fun id => (x.order, id)
    .next (((s.modPiece fun p => { p with cdone := (p.cdone.filter fun c => !s.opDone c.2 4) ++ left }).modSlot k fun _ => {}).at back)

end Sys2Proof.Machine
end

