-- ==== Sys2Proof/Machine/ElemBase.lean ====
section
/-! DEFINITION. The elements of a block: the words of a plane (R153, R154, R236, R239), which ports a plane binds (R238),
neighbours and edge ports (R237), registers that hold one token, input buffers (R240), and pleat membership (R256). -/

namespace Sys2Proof.Machine

/-- TLOC of an element (R271): port code and slot concerned, and whether it is a member other than the origin. -/
def elemLoc (e port slot : Nat) (member : Bool) : W64 :=
  BitVec.ofNat 64 (e % 16 + e / 16 % 16 * 16 + port % 64 * 256 + slot % 32 * 2 ^ 14 + (if member then 2 ^ 19 else 0))

/-- An element of a piece. -/
def Piece.elem (p : Piece) (e : Nat) : Elem := SMap.get {} p.blk.elems e
/-- Replaces an element. -/
def Piece.setElem (p : Piece) (e : Nat) (x : Elem) : Piece := { p with blk := { p.blk with elems := p.blk.elems.insert e x } }

/-- The trigger port of family mem (R154). -/
def portMemT : Nat := 57

/-! ## Move words (R153) -/

/-- GUARD. -/
def mvGuard (w : Nat) : Nat := bits w 29 3
/-- SOURCE. -/
def mvSrc (w : Nat) : Nat := bits w 23 6
/-- DEST. -/
def mvDst (w : Nat) : Nat := bits w 17 6
/-- VARIANT. -/
def mvVar (w : Nat) : Nat := bits w 14 3
/-- IMM. -/
def mvImm (w : Nat) : Nat := bits w 0 8

/-- The port code of `isect`. -/
def portIsect : Nat := 39

/-! ## Planes -/

/-- The move word in a slot; 0 is an empty slot. -/
def Plane.slot (p : Plane) (i : Nat) : Nat := (SMap.get (0 : Word32) p.slots i).toNat
/-- A constant. -/
def Plane.const (p : Plane) (i : Nat) : W64 := SMap.get 0 p.consts i
/-- EXIT of an input side: 0 none, 1 to 4 a side plus 1 (R239). -/
def Plane.exit (p : Plane) (d : Nat) : Nat := SMap.get 0 p.route d
/-- Entries an input buffer holds (R240). -/
def Plane.depthOf (p : Plane) (d : Nat) : Nat := if SMap.get 0 p.depth d = 0 then 2 else SMap.get 0 p.depth d
/-- Edge CLASS of a side. -/
def Plane.cls (p : Plane) (d : Nat) : Nat := SMap.get 0 p.edge d / 256
/-- Edge NUM of a side. -/
def Plane.num (p : Plane) (d : Nat) : Nat := SMap.get 0 p.edge d % 256
/-- The slots that hold a move word. -/
def Plane.moves (p : Plane) : List Nat := p.slots.map fun kv => kv.2.toNat

/-- Whether a move reads an input side, the isect configuration apart. -/
def Plane.moveReads (p : Plane) (d : Nat) : Bool := p.moves.any fun w => mvDst w != portIsect && mvSrc w == d
/-- The isect configuration of a plane: its two input sides. -/
def Plane.isectPair (p : Plane) : Option (Nat × Nat) :=
  (p.moves.find? fun w => mvDst w == portIsect).map fun w => (mvSrc w, mvImm w)
/-- Whether the isect configuration reads an input side. -/
def Plane.isectReads (p : Plane) (d : Nat) : Bool :=
  match p.isectPair with
  | some (a, b) => d == a || d == b
  | none => false
/-- Whether an input side is bound (R238). -/
def Plane.inBound (p : Plane) (d : Nat) : Bool := p.moveReads d || p.isectReads d || p.exit d != 0
/-- Whether a move writes an output side. -/
def Plane.moveWrites (p : Plane) (d : Nat) : Bool := p.moves.any fun w => mvDst w == 4 + d
/-- The input side whose bypass ends at an output side. -/
def Plane.bypassTo (p : Plane) (d : Nat) : Option Nat := (List.range 4).find? fun i => p.exit i == d + 1
/-- Whether an output side is bound (R238). -/
def Plane.outBound (p : Plane) (d : Nat) : Bool := p.moveWrites d || (p.bypassTo d).isSome

/-! ## Places in a block (R235, R237) -/

/-- The element across a side of element `e` (n, e, s, w are 0 to 3), in a block of a side length. -/
def neighbour (side e d : Nat) : Option Nat :=
  let x := e % 16
  let y := e / 16
  match d with
  | 0 => if y = 0 then none else some (e - 16)
  | 1 => if side ≤ x + 1 then none else some (e + 1)
  | 2 => if side ≤ y + 1 then none else some (e + 16)
  | _ => if x = 0 then none else some (e - 1)
/-- The side that faces a side. -/
def facing (d : Nat) : Nat := (d + 2) % 4
/-- The element and side of an edge port. -/
def edgeElem (side port : Nat) : Nat × Nat :=
  let k := port % side
  match port / side with
  | 0 => (elemIdx k 0, 0)
  | 1 => (elemIdx (side - 1) k, 1)
  | 2 => (elemIdx k (side - 1), 2)
  | _ => (elemIdx 0 k, 3)
/-- The edge port of a side of an element, if that side is at the block's edge. -/
def edgeOf (side e d : Nat) : Option Nat :=
  if (neighbour side e d).isSome then none
  else some (d * side + (if d % 2 = 0 then e % 16 else e / 16))
/-- The element indices of a block in row-major order. -/
def blockElems (side : Nat) : List Nat := (List.range (side * side)).map fun i => elemIdx (i % side) (i / side)
/-- Whether a block runs in a cycle: `f.arm` starts it, and `f.stop` stops it, in the next one (R247). -/
def Block.runs (b : Block) (time : Nat) : Bool := if b.armed then decide (b.armAt ≤ time) else decide (time < b.stopAt)
/-- Whether an element index lies in a block. -/
def inBlock (side e : Nat) : Bool := decide (e % 16 < side) && decide (e / 16 < side)

/-! ## Pleats (R256) -/

/-- The plane an element runs, face or lining, with its pleat: origin, members, and the element's place in it. -/
structure PleatOf where
  plane  : Plane
  origin : Nat
  count  : Nat
  member : Nat

/-- The face or lining that an element holds itself. -/
def Piece.ownPlane (p : Piece) (e : Nat) (lining : Bool) : Plane := if lining then (p.elem e).lining else (p.elem e).face
/-- The position of an element in row-major order. -/
def rowMajor (side e : Nat) : Nat := e / 16 * side + e % 16

/-- The pleat an element belongs to in its face or lining. -/
def Piece.pleat (p : Piece) (e : Nat) (lining : Bool) : PleatOf :=
  let side := p.blk.side
  let k := rowMajor side e
  match (blockElems side).find? fun o =>
      let q := (p.ownPlane o lining).pleat
      decide (1 < q) && decide (rowMajor side o ≤ k) && decide (k < rowMajor side o + q) with
  | some o => { plane := p.ownPlane o lining, origin := o, count := (p.ownPlane o lining).pleat, member := k - rowMajor side o }
  | none => { plane := p.ownPlane e lining, origin := e, count := 1, member := 0 }

/-- The face by which an element is bound to its neighbours and edge ports: a pleat is bound at its origin alone. -/
def Piece.face (p : Piece) (e : Nat) : Plane :=
  let pl := p.pleat e false
  if pl.member = 0 then pl.plane else {}

/-! ## Registers and buffers -/

/-- A register or port of an element. -/
def Elem.port (x : Elem) (c : Nat) : PReg := SMap.get {} x.ports c
/-- Replaces a register. -/
def Elem.setPort (x : Elem) (c : Nat) (r : PReg) : Elem := { x with ports := SMap.set {} x.ports c r }
/-- The token a register offers in a cycle. -/
def PReg.ready (r : PReg) (time : Nat) : Option Token := if r.avail ≤ time then r.tok else none
/-- Whether a register may be written in a cycle. -/
def PReg.open (r : PReg) (time : Nat) : Bool := r.tok.isNone && decide (r.free ≤ time)
/-- Takes the token of a register: it may be written from the next cycle. -/
def Elem.takePort (x : Elem) (c time : Nat) : Elem := x.setPort c { free := time + 1 }
/-- Writes a token, offered from cycle `avail`. -/
def Elem.putPort (x : Elem) (c : Nat) (t : Token) (avail : Nat) : Elem := x.setPort c { tok := some t, avail := avail }

/-- An input buffer. -/
def Elem.buf (x : Elem) (d : Nat) : List BufTok := SMap.get [] x.inb d
/-- Replaces an input buffer. -/
def Elem.setBuf (x : Elem) (d : Nat) (b : List BufTok) : Elem := { x with inb := SMap.set [] x.inb d b }
/-- Whether an input has room for a token: a bound input by its depth, an unbound one by its stray entry (R240, R378). -/
def Piece.inRoom (p : Piece) (e d : Nat) : Bool :=
  let f := p.face e
  if f.inBound d then decide (((p.elem e).buf d).length < f.depthOf d)
  else (SMap.get none (p.elem e).stray d).isNone
/-- A token has moved in the block. -/
def Piece.blkMoved (p : Piece) (time : Nat) : Piece := { p with moved := true, blk := { p.blk with lastMove := time } }
/-- A token enters an input buffer, to be taken from cycle `avail` on, or a stray entry. -/
def Piece.pushIn (p : Piece) (e d : Nat) (t : Token) (time avail : Nat) : Piece :=
  let x := p.elem e
  let f := p.face e
  let p := p.blkMoved time
  if f.inBound d then p.setElem e (x.setBuf d (x.buf d ++ [{ tok := t, avail := avail }]))
  else p.setElem e { x with stray := SMap.set none x.stray d (some t) }

/-- A sink of the turn in progress is reached; with the last, the turn is over (R250). -/
def Piece.reach (p : Piece) (k : Nat) (edge : Bool) : Piece :=
  let left := p.blk.sinks.filter fun x => x != (k, edge)
  { p with blk := { p.blk with sinks := left, turning := p.blk.turning && !left.isEmpty } }
/-- Whether an edge output can take a turn token: a y queue with room, or a port that absorbs it (R234, R249). -/
def Piece.turnRoom (p : Piece) (port : Nat) : Bool :=
  let (e, d) := edgeElem p.blk.side port
  let f := p.face e
  f.cls d != 2 || !p.yFull (f.num d)
/-- A turn token stands in the register of an edge output, offered from a cycle on; the port still has the binding of the
old face for it (R249). -/
def Piece.turnOut (p : Piece) (port avail : Nat) : Piece :=
  let (e, d) := edgeElem p.blk.side port
  let f := p.face e
  let p := p.setElem e ((p.elem e).putPort (4 + d) { kind := .turn, lanes := noLanes } avail)
  { p with blk := { p.blk with turnBind := p.blk.turnBind.insert port (256 * f.cls d + f.num d + 1) } }
/-- Whether an output of an element is fenced in a cycle: the new face of the element it leads to is not in force yet
(R249). -/
def Elem.fenced (x : Elem) (d time : Nat) : Bool := decide (time < SMap.get 0 x.fence d)
/-- A fence that stands until the receiver has turned. -/
def fenceShut : Nat := 2 ^ 64

/-- Whether a token can enter element `e` at side `d`: into a buffer, or through a bypass into the exit's register
(R239, R240, R332). A gated element takes nothing (R274). -/
def Piece.canEnter (p : Piece) (e d time : Nat) : Bool :=
  let f := p.face e
  let x := p.elem e
  x.gate == 0 && (match f.exit d with
    | 0 => p.inRoom e d
    | o + 1 => (x.port (4 + o)).open time && !x.fenced o time)
/-- A token enters element `e` at side `d`, to be taken from cycle `avail` on, or one cycle later beyond a bypass. A turn
that a bypass has carried fences its exit (R249). -/
def Piece.enterTok (p : Piece) (e d : Nat) (t : Token) (time avail : Nat) : Piece :=
  match (p.face e).exit d with
  | 0 => p.pushIn e d t time avail
  | o + 1 =>
    let x := p.elem e
    let x := if t.kind = .turn then { x with byturn := x.byturn.insert d true } else x
    match edgeOf p.blk.side e o with
    | some port =>
      if t.kind = .turn then ((p.setElem e x).turnOut port (time + 1)).blkMoved time
      else (p.setElem e (x.putPort (4 + o) t (time + 1))).blkMoved time
    | none =>
      let x := if t.kind = .turn then { x with fence := x.fence.insert o fenceShut } else x
      (p.setElem e (x.putPort (4 + o) t (time + 1))).blkMoved time

/-! ## Edge ports (R248, R252, R253) -/

/-- What the F engine has asked of an edge port. -/
def Piece.edge (p : Piece) (port : Nat) : EdgePort := SMap.get {} p.blk.edges port
/-- Replaces it. -/
def Piece.setEdge (p : Piece) (port : Nat) (x : EdgePort) : Piece :=
  { p with blk := { p.blk with edges := SMap.set {} p.blk.edges port x } }

/-- Whether an edge port's next delivery is a turn or a hem that the F engine has asked for. -/
def EdgePort.inserts (x : EdgePort) : Bool := 2 ≤ x.mark || (match x.hem with
  | some (_, 0) => true
  | _ => false)

/-- Counts a token that has passed an edge port toward `f.hem` (R253). -/
def EdgePort.pass (x : EdgePort) (t : Token) : EdgePort :=
  match x.hem with
  | some (l, n) => if t.isData then { x with hem := some (l, n - 1) } else x
  | none => x

/-- Gives the tacks of F that are due, while their FIFOs have room (R24, R309). -/
def Piece.flushGives (p : Piece) : Piece :=
  p.gives.foldl (fun p g =>
    if 15 ≤ (p.tackQ 3 g.1).length then { p with gives := p.gives ++ [g] }
    else { p.setTackQ 3 g.1 (p.tackQ 3 g.1 ++ [g.2]) with parkEv := p.parkEv || g.1 == 0 }) { p with gives := [] }

/-- An input edge port delivers a token into the block: a data token becomes the kset that `f.kset` waits for (R252), and a
hem of level 0 is followed by the turn that `f.turn` waits for (R248). -/
def Piece.deliverEdge (p : Piece) (port : Nat) (t : Token) (time : Nat) : Piece :=
  let (e, d) := edgeElem p.blk.side port
  let x := p.edge port
  let ks := !x.kset.isEmpty && t.kind == .data
  let t' := if ks then { t with kind := .kset, tag := p.blk.ksetN } else t
  let hem0 := t.kind == .hem && t.level == 0
  let x' := { x.pass t with
    lastHem0 := hem0, opened := if ks then x.opened else !hem0, kset := if ks then x.kset.drop 1 else x.kset, mark := if x.mark = 1 && hem0 then 2 else x.mark, trapped := false }
  let p := p.setEdge port x'
  let due := if ks then (x.kset.take 1).filterMap id else []
  let p := if ks then { p with gives := p.gives ++ due, blk := { p.blk with ksetN := p.blk.ksetN + 1 } } else p
  let p := p.flushGives
  p.enterTok e d t' time (time + 1)

/-! ## The matrix engine at an edge port (R237) -/

/-- The token that an edge port of class 4 offers the matrix engine. Hems, turns and ksets are absorbed at such a port
(R234). -/
def Piece.epHead (p : Piece) (port time : Nat) : Option Token :=
  let (e, d) := edgeElem p.blk.side port
  if (p.face e).cls d != 4 then none
  else match ((p.elem e).port (4 + d)).ready time with
    | some t => if t.isData || t.kind == .control then some t else none
    | none => none
/-- Takes it. -/
def Piece.epTake (p : Piece) (port time : Nat) : Piece :=
  let (e, d) := edgeElem p.blk.side port
  { p.setElem e ((p.elem e).takePort (4 + d) time) with moved := true }
/-- Whether a token of the matrix engine can enter at an edge port: nothing that the F engine has asked for goes first. -/
def Piece.epRoom (p : Piece) (port time : Nat) : Bool :=
  let (e, d) := edgeElem p.blk.side port
  (p.face e).cls d == 4 && (p.face e).inBound d && p.canEnter e d time && !(p.edge port).inserts

end Sys2Proof.Machine
end

