-- ==== Sys2Proof/Machine/Sfu.lean ====
section
/-! DEFINITION. The special functions (R142). A value the manual lists as exact is that value; sqrt is correctly rounded;
every other result is the implementation's own (`Config.sfuValue`) wherever that lies inside the bound of the table, and
the nearest wif value otherwise (log 8, DESIGN CHOICE). Reals are enclosed by fixed-point integers with a slack far below the bounds. -/

namespace Sys2Proof.Machine

/-- Fraction bits of the fixed-point work. -/
def sfuBits : Nat := 160

/-- ln 2 with 160 fraction bits. -/
def ln2Fix : Nat := 0xb17217f7d1cf79abc9e3b39803f2f6af40f34326
/-- log2 e with 160 fraction bits. -/
def log2eFix : Nat := 0x171547652b82fe1777d0ffda0d23a7d11d6aef551

/-- 2^f for f in [0, 1) given with 160 fraction bits, with 160 fraction bits. -/
def exp2Frac (f : Nat) : Nat :=
  let t := f * ln2Fix / 2 ^ sfuBits
  let step := fun (st : Nat × Nat) (k : Nat) =>
    let term := st.2 * t / 2 ^ sfuBits / (k + 1)
    (st.1 + term, term)
  ((List.range 48).foldl step (2 ^ sfuBits, 2 ^ sfuBits)).1

/-- A positive dyadic approximation: magnitude and exponent. -/
abbrev Dyad := Nat × Int

/-- Approximates 2^(-z) for a real z that is no integer, given its 160 fraction bits: where none of them is set it lies
just below a power of two (R142). -/
def exp2Neg (z : Nat) : Dyad :=
  let n := z / 2 ^ sfuBits
  let f := z % 2 ^ sfuBits
  if f = 0 then (2 ^ sfuBits - 1, -(sfuBits : Int) - (n : Int))
  else (exp2Frac (2 ^ sfuBits - f), -(sfuBits : Int) - (n : Int) - 1)

/-- A magnitude m * 2^e in fixed point with 160 fraction bits, low bits dropped. -/
def toFix (m : Nat) (e : Int) : Nat := floorShift m (e + sfuBits)

/-- The quotient of two positive dyadics to 200 bits. -/
def divDyad (a b : Dyad) : Dyad :=
  (a.1 * 2 ^ (200 + b.1.log2) / b.1, a.2 - b.2 - 200 - (b.1.log2 : Int))

/-- One plus, or one minus, a dyadic at or below one. -/
def onePlus (a : Dyad) : Dyad :=
  if 0 ≤ a.2 then (1 + a.1 * 2 ^ a.2.toNat, 0) else (2 ^ (-a.2).toNat + a.1, a.2)
/-- One minus a dyadic at or below one. -/
def oneMinus (a : Dyad) : Dyad := (2 ^ (-a.2).toNat - a.1, a.2)

/-- The bits of log2 of a number in [1, 2) with 160 fraction bits, `n` of them, by repeated squaring. -/
def log2Frac : Nat → Nat → Nat → Nat
  | 0, _, acc => acc
  | n + 1, y, acc =>
    let z := y * y / 2 ^ sfuBits
    if z < 2 ^ (sfuBits + 1) then log2Frac n z (2 * acc) else log2Frac n (z / 2) (2 * acc + 1)

/-- log2 of m * 2^e as a signed integer over 2^120. -/
def log2Fix (m : Nat) (e : Int) : Int :=
  let l := m.log2
  let y := m * 2 ^ sfuBits / 2 ^ l
  (e + l) * ((2 ^ 120 : Nat) : Int) + (log2Frac 120 y 0 : Nat)

/-- Whether |(-1)^s v - a| is at most `b`, all of them integers over a common power of two. -/
def closeTo (v a b : Int) : Bool := decide (v - a ≤ b) && decide (a - v ≤ b)

/-- Whether a lane is a written finite wif value within `ulps` ulp of the dyadic value (neg, d), with a slack of
2^-60 of it. -/
def inUlps (ulps : Nat) (neg : Bool) (d : Dyad) (v : Lane) : Bool :=
  match wifVal v with
  | .fin s m e =>
    let g := if e ≤ d.2 - 40 then e else d.2 - 40
    let a := d.1 * 2 ^ (d.2 - g).toNat
    wifCanon v == v && s == neg
      && closeTo ((m * 2 ^ (e - g).toNat : Nat) : Int) (a : Nat) ((ulps * 2 ^ (a.log2 - 26) + a / 2 ^ 60 : Nat) : Int)
  | _ => false

/-- Whether a lane is a written finite value within 2^-27 of the signed value a / 2^120. -/
def inAbs (a : Int) (v : Lane) : Bool :=
  let near := fun (x : Int) => closeTo x a (((2 ^ 93 + 2 ^ 30 : Nat)) : Int)
  wifCanon v == v &&
    (match wifVal v with
     | .zero _ => near 0
     | .fin s m e => near (alignTo s (floorShift m (e + 120)) 0 0)
     | _ => false)

/-- The implementation's value where the test allows it, else the given one; NX is flagged (R142). -/
def sfuFree (fn : Nat) (x : Lane) (ok : Lane → Bool) (near : Lane × FFlags) : Lane × FFlags :=
  let v := Config.sfuValue fn x
  if ok v then (v, flNX) else (near.1, near.2 ||| flNX)

/-- A result within `ulps` ulp of a positive dyadic with a sign. -/
def sfuUlps (fn ulps : Nat) (x : Lane) (neg : Bool) (d : Dyad) : Lane × FFlags :=
  let near := roundMag neg (d.1 * 2 ^ 64) (d.2 - 64) true
  if wifVal near.1 = .inf neg then near else sfuFree fn x (inUlps ulps neg d) near

/-- Whether a magnitude is a power of two. -/
def isPow2 (m : Nat) : Bool := m == 2 ^ m.log2

/-- exp2. -/
def sfuExp2 (x : Lane) : Lane × FFlags :=
  match wifVal x with
  | .nan s => (wifNan s, 0)
  | .zero _ => (wifOne, 0)
  | .inf s => (if s then wifZero false else wifInf false, 0)
  | .fin s m e =>
    if 20 < e + m.log2 then
      if s then (wifZero false, flUF ||| flNX) else (wifInf false, flOF ||| flNX)
    else if 0 ≤ e || m % 2 ^ (-e).toNat == 0 then
      let n : Int := (floorShift m e : Nat)
      roundMag false 1 (if s then -n else n) false
    else
      let z := toFix m e
      let n := z / 2 ^ sfuBits
      let f := z % 2 ^ sfuBits
      let d : Dyad := if s then exp2Neg z else (exp2Frac f, (n : Int) - (sfuBits : Int))
      sfuUlps 0 1 x false d

/-- log2. -/
def sfuLog2 (x : Lane) : Lane × FFlags :=
  match wifVal x with
  | .nan s => (wifNan s, 0)
  | .zero _ => (wifInf true, 0)
  | .inf s => if s then (wifNan false, flNV) else (wifInf false, 0)
  | .fin s m e =>
    if s then (wifNan false, flNV)
    else if isPow2 m then
      let n : Int := e + m.log2
      roundDyadic n 0
    else
      let a := log2Fix m e
      let near := roundDyadic (2 * a + 1) (-121)
      if 2 ^ 120 ≤ a.natAbs then sfuUlps 1 1 x (decide (a < 0)) (a.natAbs, -120)
      else sfuFree 1 x (inAbs a) near

/-- rcp. -/
def sfuRcp (x : Lane) : Lane × FFlags :=
  match wifVal x with
  | .nan s => (wifNan s, 0)
  | .zero s => (wifInf s, 0)
  | .inf s => (wifZero s, 0)
  | .fin s m e =>
    if isPow2 m then roundMag s 1 (-(e + m.log2)) false
    else sfuUlps 2 1 x s (divDyad (1, 0) (m, e))

/-- The square root of m * 2^e to more than 100 bits, and whether it is exact. -/
def rootDyad (m : Nat) (e : Int) : Dyad × Bool :=
  let m2 := if e % 2 = 0 then m else 2 * m
  let e2 := if e % 2 = 0 then e else e - 1
  let v := m2 * 2 ^ 240
  let r := isqrt v
  ((r, e2 / 2 - 120), r * r == v)

/-- rsqrt. -/
def sfuRsqrt (x : Lane) : Lane × FFlags :=
  match wifVal x with
  | .nan s => (wifNan s, 0)
  | .zero s => (wifInf s, 0)
  | .inf s => if s then (wifNan false, flNV) else (wifZero false, 0)
  | .fin s m e =>
    if s then (wifNan false, flNV)
    else if isPow2 m && (e + m.log2) % 2 == 0 then roundMag false 1 (-((e + m.log2) / 2)) false
    else sfuUlps 3 1 x false (divDyad (1, 0) (rootDyad m e).1)

/-- sqrt, correctly rounded. -/
def sfuSqrt (x : Lane) : Lane × FFlags :=
  match wifVal x with
  | .nan s => (wifNan s, 0)
  | .zero s => (wifZero s, 0)
  | .inf s => if s then (wifNan false, flNV) else (wifInf false, 0)
  | .fin s m e =>
    if s then (wifNan false, flNV)
    else
      let r := rootDyad m e
      roundMag false r.1.1 r.1.2 (!r.2)

/-- tanh. -/
def sfuTanh (x : Lane) : Lane × FFlags :=
  match wifVal x with
  | .nan s => (wifNan s, 0)
  | .zero s => (wifZero s, 0)
  | .inf s => (wifCanon (wifPack s 2047 0x4000000), 0)
  | .fin s m e =>
    let top : Int := e + m.log2
    if 4 ≤ top then (wifPack s 2047 0x4000000, 0)
    else if top < -40 then sfuUlps 5 2 x s (m * 2 ^ 100 - 1, e - 100)
    else
      let t := exp2Neg (2 * toFix m e * log2eFix / 2 ^ sfuBits)
      sfuUlps 5 2 x s (divDyad (oneMinus t) (onePlus t))

/-- sigm. -/
def sfuSigm (x : Lane) : Lane × FFlags :=
  match wifVal x with
  | .nan s => (wifNan s, 0)
  | .zero _ => (wifPack false 2046 0x4000000, 0)
  | .inf s => (if s then wifZero false else wifOne, 0)
  | .fin s m e =>
    let top : Int := e + m.log2
    if !s && 5 ≤ top then (wifOne, 0)
    else if 12 ≤ top then (wifZero false, flUF ||| flNX)
    else
      let t := exp2Neg (toFix m e * log2eFix / 2 ^ sfuBits)
      sfuUlps 6 2 x false (if s then divDyad t (onePlus t) else divDyad (1, 0) (onePlus t))

end Sys2Proof.Machine
end

