-- ==== Sys2Proof/Machine/ElemMove.lean ====
section
/-! DEFINITION. The moves of an element (R241 to R244): when a move is ready, what it takes and writes, and how an
operation starts at a trigger port (R155, R257) and delivers its result. -/

namespace Sys2Proof.Machine

/-! ## Move words -/

/-- The fields of a move word (R153). -/
structure Mv where
  g     : Nat
  src   : Nat
  dst   : Nat
  var   : Nat := 0
  lanes : Nat := 15
  tag   : Nat := 0
  imm   : Nat := 0
deriving DecidableEq, Repr

/-- The fields of a word. -/
def mvOf (w : Nat) : Mv :=
  { g := mvGuard w, src := mvSrc w, dst := mvDst w, var := mvVar w, lanes := bits w 10 4, tag := bits w 8 2, imm := mvImm w }

/-- The unit of a family: those that share operand and result ports (R154, R257). -/
def unitOf (fam : Nat) : Nat :=
  match fam with
  | 49 => 48
  | 50 => 48
  | 52 => 51
  | 56 => 55
  | 58 => 55
  | f => f

/-- The operand ports that an operation takes at its start (R154, R156, R266, R269, R270). -/
def opPorts (fam var imm : Nat) : List Nat :=
  match fam with
  | 48 => if imm / 64 = 0 then [24] else []
  | 49 => if var < 7 && imm / 64 = 0 then [24] else []
  | 50 => if var = 0 then [24, 25] else []
  | 51 => if var = 3 || var = 4 then [27, 28] else if var < 7 && imm / 64 = 0 then [27] else []
  | 52 => if imm / 64 = 0 then [27] else []
  | 55 => if var = 5 then [33] else []
  | 56 => if var = 2 && imm % 2 = 1 then [33] else []
  | 57 => if var = 2 then [37] else []
  | _ => []

/-- The result ports of an operation. -/
def resPorts (fam var : Nat) : List Nat :=
  match fam with
  | 51 => [29]
  | 52 => [29]
  | 53 => [30]
  | 54 => [32]
  | 55 => if var = 4 || var = 5 || var = 7 then [35, 36] else [35]
  | 56 => if var = 3 then [] else [35]
  | 57 => [38]
  | _ => [26]

/-- Latencies in fabric cycles (R258 to R270). -/
def opLat (fam var : Nat) : Nat :=
  match fam with
  | 48 => 1
  | 49 => if var = 7 then 2 else 1
  | 50 => if var = 3 || var = 4 then 2 else 1
  | 51 => 4
  | 52 => 4
  | 53 => 8
  | 54 => if var = 3 then 1 else if var = 5 then 2 else if var = 6 then 5 else 4
  | 55 => if var = 4 then 3 else if var = 0 || var = 2 || var = 3 then 2 else 1
  | 56 => if var = 0 then 4 else if var = 1 then 3 else if var = 2 then 18 else 1
  | 57 => if var = 0 then 4 else if var = 1 then 2 else 3
  | _ => 3

/-! ## Sources -/

/-- The record of an element's cycle, cleared as a new cycle begins (R241). -/
def Elem.inCycle (x : Elem) (time : Nat) : Elem :=
  if x.cycle = time then x else { x with cycle := time, fired := 0, nextSlot := 0, usedSrc := [], usedDst := [], started := [] }

/-- A constant as a token: its bits [39:0] in every lane (R243). -/
def constTok (v : W64) : Token := { lanes := List.replicate 16 { valid := true, val := regLane v } }
/-- What a read in place of an accumulator port finds. -/
def PReg.seen (r : PReg) (time : Nat) : Option Token := if r.avail ≤ time then r.tok else r.old
/-- A lane of a tile: undefined contents are the free value of this task (log 14, DESIGN CHOICE). -/
def tileLane (m : SMap (Option Lane)) (epoch e par k : Nat) : Lane :=
  (SMap.get none m k).getD (Config.undefLane (2 ^ 102 + epoch * 2 ^ 24 + (2 * e + par) * 256 + k))
/-- The row of the active tile that a move from `st0` emits. -/
def Piece.st0Tok (p : Piece) (e : Nat) : Token :=
  let x := p.elem e
  dataTok (tab 16 fun l => tileLane x.st0 p.mx.epoch e (if x.stPar then 1 else 0) (16 * x.row0 + l))

/-- The side buffer that a move of a pleat member reads: what has been dealt to it. -/
def PleatOf.inKey (pl : PleatOf) (d : Nat) : Nat := if pl.count = 1 then d else 4 + d
/-- The register that a move of a pleat member writes for an output. -/
def PleatOf.outKey (pl : PleatOf) (d : Nat) : Nat := if pl.count = 1 then 4 + d else 64 + d

/-- The token a source offers in a cycle. -/
def Piece.srcTok (p : Piece) (e : Nat) (pl : PleatOf) (src time : Nat) : Option Token :=
  let x := p.elem e
  let head (b : List BufTok) : Option Token :=
    match b with
    | t :: _ => if t.avail ≤ time then some t.tok else none
    | [] => none
  if src < 4 then head (x.buf (pl.inKey src))
  else if src = 8 then head (SMap.get [] x.ctlb 8)
  else if 10 ≤ src && src ≤ 17 then some (constTok (pl.plane.const (src - 10)))
  else if 18 ≤ src && src ≤ 21 then (x.port src).seen time
  else if src = 22 then some (p.st0Tok e)
  else (x.port src).ready time

/-- Whether a guard admits a token (R242). -/
def Piece.guardOk (p : Piece) (e : Nat) (g : Nat) (t : Token) (time : Nat) : Bool :=
  let x := p.elem e
  let plain := t.isData || t.kind == .control || t.kind == .hem
  let ctl : Option Nat :=
    match SMap.get [] x.ctlb 8 with
    | b :: _ => if b.avail ≤ time && !x.usedSrc.contains 8 then some (laneWord (b.tok.lane 0).val) else none
    | [] => none
  match g with
  | 0 => plain
  | 1 => plain && (ctl.map fun v => v != 0).getD false
  | 2 => plain && (ctl.map fun v => v == 0).getD false
  | 3 => t.kind == .hem
  | 4 => plain && t.kind != .hem
  | 5 => x.faceNew
  | 6 => plain && t.tag == x.tagCtr
  | _ => false

/-- LANES and TAGACT (R243). -/
def Mv.shape (m : Mv) (ctr : BitVec 32) (t : Token) : Token :=
  let t := if m.lanes = 15 then t else { t with lanes := List.replicate 16 (t.lane m.lanes) }
  match m.tag with
  | 1 => { t with tag := 0 }
  | 2 => { t with tag := ctr }
  | _ => t

/-! ## Destinations -/

/-- Whether a unit can start an operation in this cycle, operands apart (R257, R259, R264, R269, R333). -/
def Elem.unitFree (x : Elem) (fam var time : Nat) : Bool :=
  let u := unitOf fam
  let mine := x.flight.filter fun f => unitOf f.fam == u
  let tile := x.flight.any fun f => f.fam == 58
  !x.started.contains u && ((resPorts fam var).all fun c => (x.port c).open time) && decide (mine.length < opLat fam var)
    && (match fam with
      | 51 => !tile
      | 52 => !tile
      | 55 => (match var with
          | 3 => x.part.mg.left.isEmpty && x.part.mg.hemL.isNone
          | 4 => x.part.un.left.isEmpty && x.part.un.hemL.isNone
          | _ => decide (x.part.spaBusy ≤ time))
      | 56 => decide (x.part.spaBusy ≤ time) && (match var with
          | 2 => decide (x.tileBusy ≤ time) && !(x.flight.any fun f => f.fam == 51 || f.fam == 52)
          | 3 => !tile
          | _ => true)
      | _ => true)

/-- Whether a move of the face writes `red.b` (R261). -/
def Plane.writes (f : Plane) (port : Nat) : Bool := f.moves.any fun w => mvDst w == port

/-- Whether the reduction waits for the token at `red.b`: at the start of each fibre, where the face writes that port. -/
def Elem.redOpen (x : Elem) (var : Nat) : Bool :=
  match var with
  | 4 => x.part.accOpen
  | 5 => x.part.accmOpen
  | _ => x.part.scanOpen

/-- The operand ports of an operation on this token: those of its form, the selected one of `mrg`, and `red.b` where a
fibre starts (R261, R266). -/
def Elem.takes (x : Elem) (f : Plane) (m : Mv) (t : Token) : List Nat :=
  if m.dst = 55 && m.var = 6 then
    if t.kind = .hem then [33, 34] else if laneWord (t.lane 0).val = 0 then [33] else [34]
  else if m.dst = 54 && (m.var = 4 || m.var = 5 || m.var = 6) then (if f.writes 31 && !x.redOpen m.var then [31] else [])
  else opPorts m.dst m.var m.imm

/-- Whether a destination accepts a token in this cycle (R241). -/
def Elem.accepts (x : Elem) (f : Plane) (pl : PleatOf) (m : Mv) (t : Token) (time : Nat) : Bool :=
  let d := m.dst
  if 4 ≤ d && d ≤ 7 then (x.port (pl.outKey (d - 4))).open time && !(pl.count = 1 && x.fenced (d - 4) time)
  else if d = 9 || d = 23 || d = 42 || (18 ≤ d && d ≤ 21) then true
  else if 48 ≤ d && d ≤ 57 then x.unitFree d m.var time && (x.takes f m t).all fun c => ((x.port c).ready time).isSome
  else (x.port d).open time

/-- What stands in the way of a move. -/
inductive MoveState where
  | ready (t : Token)
  /-- The guard holds of a token that the destination does not accept (R273). -/
  | held
  | idle
deriving DecidableEq, Repr

/-- Whether the move in a slot can fire in this cycle (R241), or could if its element were not gated: a gated element keeps
waiting for what its moves wait for. -/
def Piece.moveState (p : Piece) (e slot : Nat) (m : Mv) (time : Nat) : MoveState :=
  let x := (p.elem e).inCycle time
  let p := p.setElem e x
  if !p.blk.runs time || x.stopped || decide (time < x.faceAt) || 3 ≤ x.fired || slot < x.nextSlot
      || x.usedSrc.contains m.src || x.usedDst.contains m.dst then .idle
  else
    let pl := p.pleat e false
    match p.srcTok e pl m.src time with
    | none => .idle
    | some t =>
      if !p.guardOk e m.g t time then .idle
      else if x.accepts pl.plane pl m (m.shape x.tagCtr t) time then .ready t else .held

/-! ## Tags (R244) -/

/-- Width of field `k` of a tag layout word. -/
def tagW (lay : W64) (k : Nat) : Nat := bits lay.toNat (5 * k) 5
/-- The lowest bit of field `k`. -/
def tagLo (lay : W64) (k : Nat) : Nat := (List.range 6).foldl (fun n i => if k < i then n + tagW lay i else n) 0
/-- The counter after a hem of level `l`; none on overflow. -/
def tagNext (lay : W64) (ctr : BitVec 32) (l : Nat) : Option (BitVec 32) :=
  if 5 < l then some ctr
  else
    let w := tagW lay l
    let lo := tagLo lay l
    let v := bits ctr.toNat lo w
    if w != 0 && v = 2 ^ w - 1 then none
    else
      let c := if w = 0 then ctr.toNat else ctr.toNat + 2 ^ lo
      some (BitVec.ofNat 32 ((List.range 6).foldl (fun c k => if l < k then putBits c (tagLo lay k) (tagW lay k) 0 else c) c))
/-- The input whose hems advance the counter: the lowest that a move reads. -/
def Plane.tagIn (f : Plane) : Option Nat := (List.range 4).find? f.moveReads

/-! ## Firing -/

/-- The source gives up its token; constants and accumulators are read in place. -/
def Elem.take (x : Elem) (pl : PleatOf) (src time : Nat) : Elem :=
  if src < 4 then x.setBuf (pl.inKey src) ((x.buf (pl.inKey src)).drop 1)
  else if src = 8 then { x with ctlb := SMap.set [] x.ctlb 8 ((SMap.get [] x.ctlb 8).drop 1) }
  else if src = 22 then { x with row0 := (x.row0 + 1) % 16 }
  else if 10 ≤ src && src ≤ 21 then x
  else x.takePort src time

/-- A write in place of an accumulator port: a read in the same cycle finds what was there (R241). -/
def Elem.putAcc (x : Elem) (c : Nat) (t : Token) (time : Nat) : Elem :=
  x.setPort c { tok := some t, avail := time + 1, old := (x.port c).seen time }

/-- `snk` updates the status word (R255). -/
def sinkWord (v : W64) (t : Token) : W64 :=
  let n := putBits v.toNat 32 16 (bits v.toNat 32 16 + 1)
  let n := match t.kind with
    | .hem => putBits (putBits n 48 3 t.level.toNat) 51 1 1
    | .sparse => n
    | _ => putBits n 0 32 (laneWord (t.lane 0).val)
  BitVec.ofNat 64 n

/-- A plain move writes its token. -/
def Elem.put (x : Elem) (pl : PleatOf) (d slot : Nat) (t : Token) (time : Nat) : Elem :=
  if 4 ≤ d && d ≤ 7 then x.setPort (pl.outKey (d - 4)) { tok := some t, avail := time + 1, slot := slot }
  else if d = 9 then { x with status := sinkWord x.status t }
  else if d = 23 then
    { x with st1 := (tab 16 fun l => (16 * x.row1 + l, some (t.lane l).val)).foldl (fun m kv => m.insert kv.1 kv.2) x.st1
             row1 := (x.row1 + 1) % 16 }
  else if 18 ≤ d && d ≤ 21 then x.putAcc d t time
  else if d = 42 then x
  else x.setPort d { tok := some t, avail := time + 1, slot := slot }

/-- The record of a fired move. -/
def Elem.note (x : Elem) (m : Mv) (slot time : Nat) : Elem :=
  { x with
    fired := x.fired + 1, nextSlot := slot + 1
    usedSrc := m.src :: (if m.g = 1 || m.g = 2 then 8 :: x.usedSrc else x.usedSrc)
    usedDst := m.dst :: x.usedDst
    idle := time }

/-- An operation as it starts: the element with its operands still in place, its plane, the first operand, the others by
port, and the state's clock. -/
structure OpIn where
  x    : Elem
  f    : Plane
  tok  : Token
  opnd : Nat → Token
  has  : Nat → Bool
  m    : Mv
  time : Nat
  epoch : Nat
  e    : Nat

/-- What starting an operation comes to: the element's state with the operations in flight, a trap at a port (with its
own TLOC where its rule gives one), or a wait for memory. -/
inductive OpOut where
  | ok (x : Elem) (fl : List Flight)
  | trap (code : Nat) (val : W64) (port : Nat) (loc : Option W64 := none)
  | wait

/-- A KIND/LEVEL pair (R376). -/
def kindLevel (a b : Token) : W64 :=
  BitVec.ofNat 64 (a.kind.code + a.level.toNat * 16 + b.kind.code * 256 + b.level.toNat * 4096)

/-- The hem rule (R257): a hem pairs only with hems of its level. At `red.b` it binds a data token, and two hems; a data or
sparse token there starts the empty fibre that a hem closes (R261, log 65, DEDUCED). -/
def hemClash (a : Token) (bs : List Token) : Option Token :=
  bs.find? fun b => if a.kind = .hem then b.kind != .hem || b.level != a.level else b.kind == .hem

/-- The trap of an element: it stops before the failing step (R271). -/
def State.elemTrap (s : State) (e code : Nat) (val : W64) (port slot : Nat) (loc : Option W64 := none) : State :=
  s.modPiece fun p =>
    let l := loc.getD (elemLoc e port slot ((p.pleat e false).member != 0))
    Piece.raise (p.setElem e { p.elem e with stopped := true })
      { code := code, unit := 4, async := true, val := val, loc := l, elem := e }

/-- An error record of an element (R386). -/
def State.elemErr (s : State) (e code cls port detail : Nat) : State :=
  let p := s.piece
  let unit := 16 * ((p.blk.y0 + e / 16) % 16) + (p.blk.x0 + e % 16) % 16
  s.err { cls := cls, src := 6, code := code, loc := errLoc p.panel p.bay unit port, launch := s.launchWord p.launch
          detail := detail }
/-- A face word that fails its parity check as a move reads it (R383): the word of the slot, or one of the others, which is
named as slot 31. TVAL is the failing word; it is free where the word is no move. -/
def State.planeBad (s : State) (e slot : Nat) : Option State :=
  let f := (s.piece.pleat e false).plane
  if SMap.get false f.bad slot then
    some ((s.elemTrap e cPOISON (BitVec.ofNat 64 (f.slot slot)) 0 slot).elemErr e 4 1 0 slot)
  else if SMap.get false f.bad 32 then
    let (n, s) := s.takeFresh
    some ((s.elemTrap e cPOISON (Config.freeWord n) 0 31).elemErr e 4 1 0 31)
  else none

/-- Fires a ready move whose effect on the element is `eff`; `eff` gets the element and the shaped token (R241). -/
def State.fire (s : State) (m : Mv) (t : Token) (eff : State → Elem → PleatOf → Token → OpOut × State) : State :=
  let p := s.piece
  let e := s.focusE
  let slot := s.focusS
  let x := (p.elem e).inCycle s.time
  let pl := p.pleat e false
  let hem := t.kind == .hem && m.src < 4 && pl.plane.tagIn == some m.src
  let ctr := if hem then tagNext pl.plane.tagLay x.tagCtr t.level.toNat else some x.tagCtr
  match ctr with
  | none => s.elemTrap e cTAG_OVF (BitVec.ofNat 64 x.tagCtr.toNat) m.src slot
  | some c =>
    match eff s x pl (m.shape x.tagCtr t) with
    | (.trap code val port loc, s) => s.elemTrap e code val port slot loc
    | (.wait, s) =>
      -- a memory node that waits keeps its source and its trigger: the moves behind it are considered next
      s.modPiece fun p =>
        let x := (p.elem e).inCycle s.time
        p.setElem e { x with nextSlot := slot + 1, usedSrc := m.src :: x.usedSrc, usedDst := m.dst :: x.usedDst }
    | (.ok x fl, s) =>
      let x := ((x.take pl m.src s.time).note m slot s.time)
      let x := if m.g = 1 || m.g = 2 then { x with ctlb := SMap.set [] x.ctlb 8 ((SMap.get [] x.ctlb 8).drop 1) } else x
      s.modPiece fun p => (p.setElem e { x with tagCtr := c, flight := x.flight ++ fl }).blkMoved s.time

/-- Something is held at an element by a full destination or a missing operand: it counts for the watchdog (R273). -/
def State.holds (s : State) (e : Nat) : State :=
  s.modPiece fun p => { p.setElem e { p.elem e with heldAt := s.time + 1 } with blocked := true }

/-- Runs a move word on the slot in focus: it fires if it is ready; a move that is held counts for the watchdog (R273). -/
def State.runMove (s : State) (m : Mv) (eff : State → Elem → PleatOf → Token → OpOut × State) :
    Host.Outcome State Fault Refusal :=
  if !s.piece.live then .fault .noPiece
  else match s.piece.moveState s.focusE s.focusS m s.time with
    | .ready t =>
      match s.planeBad s.focusE s.focusS with
      | some t => .next t
      | none => .next (if (s.piece.elem s.focusE).gate = 0 then s.fire m t eff else s)
    | .held => .next (s.holds s.focusE)
    | .idle => .next s

/-- Runs an operation word: its operands are checked and consumed, and it starts (R257). `hemOp` says that the operation
handles hems itself. -/
def State.runOp (s : State) (m : Mv) (hemOp : Bool) (start : OpIn → OpOut) : Host.Outcome State Fault Refusal :=
  s.runMove m fun s x pl t =>
    let ports := x.takes pl.plane m t
    let opnd (c : Nat) : Token := ((x.port c).tok).getD {}
    let paired := if m.dst = 55 && m.var = 6 && t.kind != .hem then []
      else ports.filter fun c => c != 31 || t.kind != .hem || (opnd c).kind == .hem
    match hemClash t (paired.map opnd) with
    | some b => (.trap cFORMAT (kindLevel t b) m.dst, s)
    | none =>
      let i : OpIn := { x := x, f := pl.plane, tok := t, opnd := opnd, has := ports.contains, m := m, time := s.time
                        epoch := s.piece.mx.epoch, e := s.focusE }
      let r := if t.kind = .hem && !hemOp then
          OpOut.ok x [{ fam := m.dst, due := s.time + opLat m.dst m.var, outs := (resPorts m.dst m.var).take 1 |>.map (·, t) }]
        else start i
      match r with
      | .trap c v p l => (.trap c v p l, s)
      | .wait => (.wait, s)
      | .ok y fl =>
        let y := ports.foldl (fun y c => y.takePort c s.time) y
        (.ok { y with started := unitOf m.dst :: y.started } fl, s)

end Sys2Proof.Machine
end

