-- ==== Sys2Proof/Machine/ElemAlu.lean ====
section
/-! DEFINITION. The plain move (R241, R243) and the operations of the ALU, FMU, SFU and reduction families (R141, R258 to
R261). -/

namespace Sys2Proof.Machine

/-- The fields of an operation word (R153, R155). -/
def opMv (dst var : Nat) (g : BitVec 3) (s : BitVec 6) (l : BitVec 4) (t : BitVec 2) (imm : Nat) : Mv :=
  { g := g.toNat, src := s.toNat, dst := dst, var := var, lanes := l.toNat, tag := t.toNat, imm := imm }

/-- A move to a port that starts nothing (R241, R243). -/
def execMove (g : BitVec 3) (s : BitVec 6) (d : BitVec 6) (l : BitVec 4) (t : BitVec 2) (st : State) :
    Host.Outcome State Fault Refusal :=
  st.runMove (opMv d.toNat 0 g s l t 0) fun st x pl tok => (.ok (x.put pl d.toNat st.focusS tok st.time) [], st)

/-! ## Lane by lane (R257) -/

/-- A result lane with its flags. -/
abbrev LaneRes := Lane × FFlags

/-- The token of results computed lane by lane, with the flags of its valid lanes: kind, coordinates and tag are those of
the first operand (R257). -/
def mapLanes (t : Token) (ok : Nat → Bool) (f : Nat → LaneRes) : Token × FFlags :=
  ({ t with lanes := tab 16 fun i =>
      if (t.lane i).valid && ok i then { valid := true, val := (f i).1, coord := (t.lane i).coord } else {} },
   (List.range 16).foldl (fun fl i => if (t.lane i).valid && ok i then fl ||| (f i).2 else fl) 0)

/-- An operation whose one result leaves at its result port after its latency. -/
def OpIn.yields (i : OpIn) (r : Token × FFlags) : OpOut :=
  .ok i.x [{ fam := i.m.dst, due := i.time + opLat i.m.dst i.m.var, outs := (resPorts i.m.dst i.m.var).take 1 |>.map (·, r.1)
             fl := r.2 }]

/-- Starts an operation of one operand. -/
def start1 (f : Lane → LaneRes) (i : OpIn) : OpOut :=
  i.yields (mapLanes i.tok (fun _ => true) fun k => f (i.tok.lane k).val)

/-- The second operand by its IMM form (R156): an operand port, an integer (widened to wif where `wif`), or a constant. -/
def OpIn.second (i : OpIn) (port : Nat) (wif : Bool) : Token :=
  match i.m.imm / 64 with
  | 0 => i.opnd port
  | 1 =>
    let v := sgn 6 i.m.imm
    constTok (BitVec.ofNat 64 (if wif then (roundDyadic v 0).1 else intLane v).toNat)
  | _ => constTok (i.f.const (i.m.imm % 8))

/-- Starts an operation of two operands. -/
def start2 (port : Nat) (wif : Bool) (f : Lane → Lane → LaneRes) (i : OpIn) : OpOut :=
  let b := i.second port wif
  i.yields (mapLanes i.tok (fun k => (b.lane k).valid) fun k => f (i.tok.lane k).val (b.lane k).val)

/-- Starts an operation of three operands, the others at `fmu.b` and `fmu.c`. -/
def start3 (f : Lane → Lane → Lane → LaneRes) (i : OpIn) : OpOut :=
  let b := i.opnd 27
  let c := i.opnd 28
  i.yields (mapLanes i.tok (fun k => (b.lane k).valid && (c.lane k).valid)
    fun k => f (i.tok.lane k).val (b.lane k).val (c.lane k).val)

/-! ## ALU (R258) -/

/-- An integer result modulo 2^32. -/
def intRes (v : Int) : LaneRes := (intLane v, 0)
/-- An unsigned word as a result. -/
def natRes (v : Nat) : LaneRes := intRes (v : Int)

/-- Runs a binary ALU word. -/
def State.runAlu2 (st : State) (m : Mv) (f : Lane → Lane → LaneRes) : Host.Outcome State Fault Refusal :=
  st.runOp m false (start2 24 false f)

/-- `add`. -/
def execAdd (g : BitVec 3) (s : BitVec 6) (l : BitVec 4) (t : BitVec 2) (i : BitVec 8) (st : State) :
    Host.Outcome State Fault Refusal :=
  st.runAlu2 (opMv 48 0 g s l t i.toNat) fun a b => intRes (laneInt a + laneInt b)
/-- `sub`. -/
def execSub (g : BitVec 3) (s : BitVec 6) (l : BitVec 4) (t : BitVec 2) (i : BitVec 8) (st : State) :
    Host.Outcome State Fault Refusal :=
  st.runAlu2 (opMv 48 1 g s l t i.toNat) fun a b => intRes (laneInt a - laneInt b)
/-- `and`. -/
def execAnd (g : BitVec 3) (s : BitVec 6) (l : BitVec 4) (t : BitVec 2) (i : BitVec 8) (st : State) :
    Host.Outcome State Fault Refusal :=
  st.runAlu2 (opMv 48 2 g s l t i.toNat) fun a b => natRes (laneWord a &&& laneWord b)
/-- `or`. -/
def execOr (g : BitVec 3) (s : BitVec 6) (l : BitVec 4) (t : BitVec 2) (i : BitVec 8) (st : State) :
    Host.Outcome State Fault Refusal :=
  st.runAlu2 (opMv 48 3 g s l t i.toNat) fun a b => natRes (laneWord a ||| laneWord b)
/-- `xor`. -/
def execXor (g : BitVec 3) (s : BitVec 6) (l : BitVec 4) (t : BitVec 2) (i : BitVec 8) (st : State) :
    Host.Outcome State Fault Refusal :=
  st.runAlu2 (opMv 48 4 g s l t i.toNat) fun a b => natRes (laneWord a ^^^ laneWord b)
/-- `shl`. -/
def execShl (g : BitVec 3) (s : BitVec 6) (l : BitVec 4) (t : BitVec 2) (i : BitVec 8) (st : State) :
    Host.Outcome State Fault Refusal :=
  st.runAlu2 (opMv 48 5 g s l t i.toNat) fun a b => natRes (laneWord a * 2 ^ (laneWord b % 32))
/-- `shr`. -/
def execShr (g : BitVec 3) (s : BitVec 6) (l : BitVec 4) (t : BitVec 2) (i : BitVec 8) (st : State) :
    Host.Outcome State Fault Refusal :=
  st.runAlu2 (opMv 48 6 g s l t i.toNat) fun a b => natRes (laneWord a / 2 ^ (laneWord b % 32))
/-- `sar`. -/
def execSar (g : BitVec 3) (s : BitVec 6) (l : BitVec 4) (t : BitVec 2) (i : BitVec 8) (st : State) :
    Host.Outcome State Fault Refusal :=
  st.runAlu2 (opMv 48 7 g s l t i.toNat) fun a b => intRes (laneInt a / 2 ^ (laneWord b % 32))
/-- `min`. -/
def execMin (g : BitVec 3) (s : BitVec 6) (l : BitVec 4) (t : BitVec 2) (i : BitVec 8) (st : State) :
    Host.Outcome State Fault Refusal :=
  st.runAlu2 (opMv 49 0 g s l t i.toNat) fun a b => intRes (if laneInt a ≤ laneInt b then laneInt a else laneInt b)
/-- `max`. -/
def execMax (g : BitVec 3) (s : BitVec 6) (l : BitVec 4) (t : BitVec 2) (i : BitVec 8) (st : State) :
    Host.Outcome State Fault Refusal :=
  st.runAlu2 (opMv 49 1 g s l t i.toNat) fun a b => intRes (if laneInt a ≤ laneInt b then laneInt b else laneInt a)
/-- `ceq`. -/
def execCeq (g : BitVec 3) (s : BitVec 6) (l : BitVec 4) (t : BitVec 2) (i : BitVec 8) (st : State) :
    Host.Outcome State Fault Refusal :=
  st.runAlu2 (opMv 49 2 g s l t i.toNat) fun a b => intRes (if laneInt a = laneInt b then 1 else 0)
/-- `clt`. -/
def execClt (g : BitVec 3) (s : BitVec 6) (l : BitVec 4) (t : BitVec 2) (i : BitVec 8) (st : State) :
    Host.Outcome State Fault Refusal :=
  st.runAlu2 (opMv 49 3 g s l t i.toNat) fun a b => intRes (if laneInt a < laneInt b then 1 else 0)
/-- `cle`. -/
def execCle (g : BitVec 3) (s : BitVec 6) (l : BitVec 4) (t : BitVec 2) (i : BitVec 8) (st : State) :
    Host.Outcome State Fault Refusal :=
  st.runAlu2 (opMv 49 4 g s l t i.toNat) fun a b => intRes (if laneInt a ≤ laneInt b then 1 else 0)
/-- `adds`. -/
def execAdds (g : BitVec 3) (s : BitVec 6) (l : BitVec 4) (t : BitVec 2) (i : BitVec 8) (st : State) :
    Host.Outcome State Fault Refusal :=
  st.runAlu2 (opMv 49 5 g s l t i.toNat) fun a b => satI32 (laneInt a + laneInt b)
/-- `subs`. -/
def execSubs (g : BitVec 3) (s : BitVec 6) (l : BitVec 4) (t : BitVec 2) (i : BitVec 8) (st : State) :
    Host.Outcome State Fault Refusal :=
  st.runAlu2 (opMv 49 6 g s l t i.toNat) fun a b => satI32 (laneInt a - laneInt b)

/-- SatI32(RshRne(a * c, r)): a rounded result is inexact (R123). -/
def mulShift (a c : Int) (r : Nat) : LaneRes :=
  let q := rshRne (a * c) r
  let x := satI32 q
  (x.1, if q * 2 ^ r = a * c then x.2 else x.2 ||| flNX)
/-- `mulsr`: the multiplier is constant `k`, the shift `r` (R156). -/
def execMulsr (g : BitVec 3) (s : BitVec 6) (l : BitVec 4) (t : BitVec 2) (k : BitVec 3) (r : BitVec 5) (st : State) :
    Host.Outcome State Fault Refusal :=
  st.runOp (opMv 49 7 g s l t (k.toNat * 32 + r.toNat)) false fun i =>
    start1 (fun a => mulShift (laneInt a) (sgn 32 (i.f.const k.toNat).toNat) r.toNat) i

/-- `sel`: the lane of `alu.b` where a is not 0, else that of `alu.c`; the lane not chosen is not read. -/
def startSel (i : OpIn) : OpOut :=
  let pick (k : Nat) : LaneV := ((if laneWord (i.tok.lane k).val = 0 then i.opnd 25 else i.opnd 24)).lane k
  i.yields (mapLanes i.tok (fun k => (pick k).valid) fun k => ((pick k).val, 0))
/-- `sel`. -/
def execSel (g : BitVec 3) (s : BitVec 6) (l : BitVec 4) (t : BitVec 2) (st : State) : Host.Outcome State Fault Refusal :=
  st.runOp (opMv 50 0 g s l t 0) false startSel
/-- `abs`. -/
def execAbs (g : BitVec 3) (s : BitVec 6) (l : BitVec 4) (t : BitVec 2) (st : State) : Host.Outcome State Fault Refusal :=
  st.runOp (opMv 50 1 g s l t 0) false (start1 fun a => satI32 (laneInt a).natAbs)
/-- `neg`. -/
def execNeg (g : BitVec 3) (s : BitVec 6) (l : BitVec 4) (t : BitVec 2) (st : State) : Host.Outcome State Fault Refusal :=
  st.runOp (opMv 50 2 g s l t 0) false (start1 fun a => satI32 (-laneInt a))
/-- `cvt.if`. -/
def execCvtIf (g : BitVec 3) (s : BitVec 6) (l : BitVec 4) (t : BitVec 2) (st : State) : Host.Outcome State Fault Refusal :=
  st.runOp (opMv 50 3 g s l t 0) false (start1 cvtIF)
/-- `cvt.fi`. -/
def execCvtFi (g : BitVec 3) (s : BitVec 6) (l : BitVec 4) (t : BitVec 2) (st : State) : Host.Outcome State Fault Refusal :=
  st.runOp (opMv 50 4 g s l t 0) false (start1 cvtFI)
/-- `pass`: the token unchanged. -/
def execPass (g : BitVec 3) (s : BitVec 6) (l : BitVec 4) (t : BitVec 2) (st : State) : Host.Outcome State Fault Refusal :=
  st.runOp (opMv 50 5 g s l t 0) false fun i => i.yields (i.tok, 0)

/-! ## FMU (R259) -/

/-- Runs a binary FMU word. -/
def State.runFmu2 (st : State) (m : Mv) (f : Lane → Lane → LaneRes) : Host.Outcome State Fault Refusal :=
  st.runOp m false (start2 27 true f)

/-- `fadd`. -/
def execFadd (g : BitVec 3) (s : BitVec 6) (l : BitVec 4) (t : BitVec 2) (i : BitVec 8) (st : State) :
    Host.Outcome State Fault Refusal := st.runFmu2 (opMv 51 0 g s l t i.toNat) wifAdd
/-- `fsub`. -/
def execFsub (g : BitVec 3) (s : BitVec 6) (l : BitVec 4) (t : BitVec 2) (i : BitVec 8) (st : State) :
    Host.Outcome State Fault Refusal := st.runFmu2 (opMv 51 1 g s l t i.toNat) wifSub
/-- `fmul`. -/
def execFmul (g : BitVec 3) (s : BitVec 6) (l : BitVec 4) (t : BitVec 2) (i : BitVec 8) (st : State) :
    Host.Outcome State Fault Refusal := st.runFmu2 (opMv 51 2 g s l t i.toNat) wifMul
/-- `fma`. -/
def execFma (g : BitVec 3) (s : BitVec 6) (l : BitVec 4) (t : BitVec 2) (st : State) : Host.Outcome State Fault Refusal :=
  st.runOp (opMv 51 3 g s l t 0) false (start3 wifFma)
/-- `fnma`. -/
def execFnma (g : BitVec 3) (s : BitVec 6) (l : BitVec 4) (t : BitVec 2) (st : State) : Host.Outcome State Fault Refusal :=
  st.runOp (opMv 51 4 g s l t 0) false (start3 wifFnma)
/-- `fmin`. -/
def execFmin (g : BitVec 3) (s : BitVec 6) (l : BitVec 4) (t : BitVec 2) (i : BitVec 8) (st : State) :
    Host.Outcome State Fault Refusal := st.runFmu2 (opMv 51 5 g s l t i.toNat) fun a b => (wifMin a b, 0)
/-- `fmax`. -/
def execFmax (g : BitVec 3) (s : BitVec 6) (l : BitVec 4) (t : BitVec 2) (i : BitVec 8) (st : State) :
    Host.Outcome State Fault Refusal := st.runFmu2 (opMv 51 6 g s l t i.toNat) fun a b => (wifMax a b, 0)

/-- fmin(fmax(a, lo), hi); a NaN gives the canonical NaN. -/
def clipLane (lo hi a : Lane) : LaneRes :=
  match wifVal a with
  | .nan s => (wifNan s, 0)
  | _ => (wifMin (wifMax a lo) hi, 0)
/-- `fclip`, between constants `lo` and `h`. -/
def execFclip (g : BitVec 3) (s : BitVec 6) (l : BitVec 4) (t : BitVec 2) (h lo : BitVec 3) (st : State) :
    Host.Outcome State Fault Refusal :=
  st.runOp (opMv 51 7 g s l t (h.toNat * 8 + lo.toNat)) false fun i =>
    start1 (clipLane (regLane (i.f.const lo.toNat)) (regLane (i.f.const h.toNat))) i
/-- `fclt`. -/
def execFclt (g : BitVec 3) (s : BitVec 6) (l : BitVec 4) (t : BitVec 2) (i : BitVec 8) (st : State) :
    Host.Outcome State Fault Refusal := st.runFmu2 (opMv 52 0 g s l t i.toNat) fun a b => (wifCmp 0 a b, 0)
/-- `fcle`. -/
def execFcle (g : BitVec 3) (s : BitVec 6) (l : BitVec 4) (t : BitVec 2) (i : BitVec 8) (st : State) :
    Host.Outcome State Fault Refusal := st.runFmu2 (opMv 52 1 g s l t i.toNat) fun a b => (wifCmp 1 a b, 0)
/-- `fceq`. -/
def execFceq (g : BitVec 3) (s : BitVec 6) (l : BitVec 4) (t : BitVec 2) (i : BitVec 8) (st : State) :
    Host.Outcome State Fault Refusal := st.runFmu2 (opMv 52 2 g s l t i.toNat) fun a b => (wifCmp 2 a b, 0)

/-! ## SFU (R142, R260) -/

/-- `exp2`. -/
def execExp2 (g : BitVec 3) (s : BitVec 6) (l : BitVec 4) (t : BitVec 2) (st : State) : Host.Outcome State Fault Refusal :=
  st.runOp (opMv 53 0 g s l t 0) false (start1 sfuExp2)
/-- `log2`. -/
def execLog2 (g : BitVec 3) (s : BitVec 6) (l : BitVec 4) (t : BitVec 2) (st : State) : Host.Outcome State Fault Refusal :=
  st.runOp (opMv 53 1 g s l t 0) false (start1 sfuLog2)
/-- `rcp`. -/
def execRcp (g : BitVec 3) (s : BitVec 6) (l : BitVec 4) (t : BitVec 2) (st : State) : Host.Outcome State Fault Refusal :=
  st.runOp (opMv 53 2 g s l t 0) false (start1 sfuRcp)
/-- `rsqrt`. -/
def execRsqrt (g : BitVec 3) (s : BitVec 6) (l : BitVec 4) (t : BitVec 2) (st : State) : Host.Outcome State Fault Refusal :=
  st.runOp (opMv 53 3 g s l t 0) false (start1 sfuRsqrt)
/-- `sqrt`. -/
def execSqrt (g : BitVec 3) (s : BitVec 6) (l : BitVec 4) (t : BitVec 2) (st : State) : Host.Outcome State Fault Refusal :=
  st.runOp (opMv 53 4 g s l t 0) false (start1 sfuSqrt)
/-- `tanh`. -/
def execTanh (g : BitVec 3) (s : BitVec 6) (l : BitVec 4) (t : BitVec 2) (st : State) : Host.Outcome State Fault Refusal :=
  st.runOp (opMv 53 5 g s l t 0) false (start1 sfuTanh)
/-- `sigm`. -/
def execSigm (g : BitVec 3) (s : BitVec 6) (l : BitVec 4) (t : BitVec 2) (st : State) : Host.Outcome State Fault Refusal :=
  st.runOp (opMv 53 6 g s l t 0) false (start1 sfuSigm)

/-! ## Reductions (R261) -/

/-- The sum of two lanes in a form: int32 where `int`. -/
def redAdd (int : Bool) (a b : Lane) : LaneRes := if int then satI32 (laneInt a + laneInt b) else wifAdd a b
/-- The larger, or the smaller, of two lanes in a form. -/
def redPick (int max : Bool) (a b : Lane) : LaneRes :=
  if int then intRes (if (laneInt a ≤ laneInt b) = max then laneInt b else laneInt a)
  else (if max then wifMax a b else wifMin a b, 0)

/-- Folds the valid lanes in lane order from the first, with the flags. -/
def foldLanes (f : Lane → Lane → LaneRes) (vs : List Lane) : Option LaneRes :=
  match vs with
  | [] => none
  | v :: rest => some (rest.foldl (fun a b => ((f a.1 b).1, a.2 ||| (f a.1 b).2)) (v, 0))
/-- The values of the valid lanes. -/
def Token.vals (t : Token) : List Lane := (t.lanes.filter (·.valid)).map (·.val)
/-- The result of a reduction in lane 0 alone; none makes lane 0 invalid. -/
def OpIn.lane0 (i : OpIn) (r : Option LaneRes) : OpOut :=
  match r with
  | some (v, fl) =>
    i.yields ({ i.tok with lanes := { valid := true, val := v, coord := (i.tok.lane 0).coord } :: List.replicate 15 {} }, fl)
  | none => i.yields ({ i.tok with lanes := noLanes }, 0)
/-- A lane of a reduction in its form: an integer is written in all 40 bits (R121). -/
def redLane (int : Bool) (v : Lane) : Lane := if int then intLane (laneInt v) else v

/-- `lsum`: no valid lane gives +0. -/
def execLsum (g : BitVec 3) (s : BitVec 6) (l : BitVec 4) (t : BitVec 2) (f : BitVec 1) (st : State) :
    Host.Outcome State Fault Refusal :=
  st.runOp (opMv 54 0 g s l t f.toNat) false fun i =>
    i.lane0 (some ((foldLanes (redAdd (f == 1)) (i.tok.vals.map (redLane (f == 1)))).getD (0, 0)))
/-- `lmax`. -/
def execLmax (g : BitVec 3) (s : BitVec 6) (l : BitVec 4) (t : BitVec 2) (f : BitVec 1) (st : State) :
    Host.Outcome State Fault Refusal :=
  st.runOp (opMv 54 1 g s l t f.toNat) false fun i =>
    i.lane0 (foldLanes (redPick (f == 1) true) (i.tok.vals.map (redLane (f == 1))))
/-- `lmin`. -/
def execLmin (g : BitVec 3) (s : BitVec 6) (l : BitVec 4) (t : BitVec 2) (f : BitVec 1) (st : State) :
    Host.Outcome State Fault Refusal :=
  st.runOp (opMv 54 2 g s l t f.toNat) false fun i =>
    i.lane0 (foldLanes (redPick (f == 1) false) (i.tok.vals.map (redLane (f == 1))))
/-- `cnt`. -/
def execCnt (g : BitVec 3) (s : BitVec 6) (l : BitVec 4) (t : BitVec 2) (st : State) : Host.Outcome State Fault Refusal :=
  st.runOp (opMv 54 3 g s l t 0) false fun i => i.lane0 (some (natRes i.tok.vals.length))

/-- The lanes a fibre starts from: those of the `red.b` token, or the default start (R261). -/
def OpIn.fibre (i : OpIn) (start : Lane) : List LaneV :=
  tab 16 fun k =>
    let b := if i.has 31 then (i.opnd 31).lane k else {}
    { valid := b.valid, val := if b.valid then b.val else start }
/-- Adds a token to the lanes of a fibre. -/
def fibreAdd (f : Lane → Lane → LaneRes) (vs : List LaneV) (t : Token) : List LaneV :=
  tab 16 fun k =>
    if (t.lane k).valid then { valid := true, val := (f (nth {} vs k).val (t.lane k).val).1 } else nth {} vs k
/-- The flags of that. -/
def fibreFlags (f : Lane → Lane → LaneRes) (vs : List LaneV) (t : Token) : FFlags :=
  (List.range 16).foldl (fun fl k =>
    if (t.lane k).valid then fl ||| (f (nth {} vs k).val (t.lane k).val).2 else fl) 0
/-- The sum token of a fibre: kind data, tag 0, coordinates zero. -/
def sumTok (vs : List LaneV) : Token := { lanes := vs.map fun v => if v.valid then { valid := true, val := v.val } else {} }
/-- The flights of a closed fibre: its sum token, then its hem. -/
def OpIn.close (i : OpIn) (vs : List LaneV) : List Flight :=
  let due := i.time + opLat i.m.dst i.m.var
  [{ fam := i.m.dst, due := due, outs := [(32, sumTok vs)] }, { fam := i.m.dst, due := due + 1, outs := [(32, i.tok)] }]
/-- A flight that only sets flags, where there are any. -/
def OpIn.flagged (i : OpIn) (fl : FFlags) : List Flight :=
  if fl = 0 then [] else [{ fam := i.m.dst, due := i.time + opLat i.m.dst i.m.var, outs := [], fl := fl }]

/-- Starts `acc`. -/
def startAcc (int : Bool) (i : OpIn) : OpOut :=
  let vs := if i.x.part.accOpen then i.x.part.accLanes else i.fibre 0
  if i.tok.kind = .hem then .ok { i.x with part := { i.x.part with accOpen := false, accLanes := [] } } (i.close vs)
  else .ok { i.x with part := { i.x.part with accOpen := true, accLanes := fibreAdd (redAdd int) vs i.tok } }
    (i.flagged (fibreFlags (redAdd int) vs i.tok))
/-- `acc`. -/
def execAcc (g : BitVec 3) (s : BitVec 6) (l : BitVec 4) (t : BitVec 2) (f : BitVec 1) (st : State) :
    Host.Outcome State Fault Refusal := st.runOp (opMv 54 4 g s l t f.toNat) true (startAcc (f == 1))

/-- Starts `accm`. -/
def startAccm (int : Bool) (i : OpIn) : OpOut :=
  let vs := if i.x.part.accmOpen then i.x.part.accmLanes else i.fibre (if int then intLane (-2147483648) else wifInf true)
  if i.tok.kind = .hem then .ok { i.x with part := { i.x.part with accmOpen := false, accmLanes := [] } } (i.close vs)
  else .ok { i.x with part := { i.x.part with accmOpen := true, accmLanes := fibreAdd (redPick int true) vs i.tok } } []
/-- `accm`. -/
def execAccm (g : BitVec 3) (s : BitVec 6) (l : BitVec 4) (t : BitVec 2) (f : BitVec 1) (st : State) :
    Host.Outcome State Fault Refusal := st.runOp (opMv 54 5 g s l t f.toNat) true (startAccm (f == 1))

/-- The running sums of `scan` through the lanes from lane `k` on: the lanes, the last sum and the flags. -/
def scanLanes (int : Bool) : List LaneV → Lane → FFlags → List LaneV × Lane × FFlags
  | [], a, fl => ([], a, fl)
  | v :: vs, a, fl =>
    if v.valid then
      let r := redAdd int a v.val
      let rest := scanLanes int vs r.1 (fl ||| r.2)
      ({ v with val := r.1 } :: rest.1, rest.2)
    else
      let rest := scanLanes int vs a fl
      ({} :: rest.1, rest.2)
/-- Starts `scan`. -/
def startScan (int : Bool) (i : OpIn) : OpOut :=
  let b : LaneV := if i.has 31 then (i.opnd 31).lane 0 else {}
  let a := if i.x.part.scanOpen then i.x.part.scanSum else if b.valid then b.val else 0
  let out (x : Elem) (r : Token × FFlags) : OpOut := OpIn.yields { i with x := x } r
  if i.tok.kind = .hem then out { i.x with part := { i.x.part with scanOpen := false, scanSum := 0 } } (i.tok, 0)
  else
    let r := scanLanes int i.tok.lanes a 0
    out { i.x with part := { i.x.part with scanOpen := true, scanSum := r.2.1 } } ({ i.tok with lanes := r.1 }, r.2.2)
/-- `scan`. -/
def execScan (g : BitVec 3) (s : BitVec 6) (l : BitVec 4) (t : BitVec 2) (f : BitVec 1) (st : State) :
    Host.Outcome State Fault Refusal := st.runOp (opMv 54 6 g s l t f.toNat) true (startScan (f == 1))

end Sys2Proof.Machine
end

