-- ==== Sys2Proof/Machine/ElemXu.lean ====
section
/-! DEFINITION. The exchange and stationary units of an element: pack and unpk (R262, R320), reord (R263), merge2, union
and the isect pair (R264, R265, R322, R327, R373, R374, R376), the routing operations (R266, R321), topk (R267), spa (R268),
tile and swst (R269). -/

namespace Sys2Proof.Machine

/-- Flights that deliver one after the other, a cycle apart, from cycle `due`. -/
def flightsFrom (fam due : Nat) : List (List (Nat × Token)) → List Flight
  | [] => []
  | o :: os => { fam := fam, due := due, outs := o } :: flightsFrom fam (due + 1) os
/-- Starts an operation that answers with several tokens, each with its ports. -/
def OpIn.answers (i : OpIn) (x : Elem) (outs : List (List (Nat × Token))) : OpOut :=
  .ok x (flightsFrom i.m.dst (i.time + opLat i.m.dst i.m.var) outs)
/-- A token of the given lanes, filled up with invalid ones, with tag 0 (R257). -/
def laneList (k : TokKind) (ls : List LaneV) : Token := { kind := k, lanes := tab 16 fun n => nth {} ls n }
/-- Lists cut into tokens of 16 lanes; `n` bounds the tokens. -/
def laneTokens (k : TokKind) : Nat → List LaneV → List Token
  | 0, _ => []
  | n + 1, ls => if ls.isEmpty then [] else laneList k (ls.take 16) :: laneTokens k n (ls.drop 16)

/-! ## pack and unpk (R262, R320) -/

/-- Takes lanes into a pack: `pos` counts the valid lanes of the fibre. -/
def packLanesIn (coord zero : Bool) : List LaneV → Nat → List LaneV → List LaneV × Nat
  | [], pos, held => (held, pos)
  | v :: vs, pos, held =>
    if !v.valid then packLanesIn coord zero vs pos held
    else if zero && v.val.toNat % 2 ^ 39 = 0 then packLanesIn coord zero vs (pos + 1) held
    else packLanesIn coord zero vs (pos + 1) (held ++ [if coord then { v with coord := BitVec.ofNat 32 pos } else v])
/-- Starts `pack`. -/
def startPack (coord zero : Bool) (i : OpIn) : OpOut :=
  let pt := i.x.part
  if i.tok.kind = .hem then
    let rest := if pt.packLanes.isEmpty then [] else [[(35, laneList pt.packKind pt.packLanes)]]
    i.answers { i.x with part := { pt with packLanes := [], packPos := 0 } } (rest ++ [[(35, i.tok)]])
  else
    let k := if coord then .sparse else i.tok.kind
    let r := packLanesIn coord zero i.tok.lanes pt.packPos pt.packLanes
    let full := decide (16 ≤ r.1.length)
    i.answers { i.x with part := { pt with packLanes := if full then r.1.drop 16 else r.1, packPos := r.2, packKind := k } }
      (if full then [[(35, laneList k (r.1.take 16))]] else [])
/-- `pack`: `z` ZERO, which is IMM[1], and `c` COORD, which is IMM[0] (log 34, DEDUCED). -/
def execPack (g : BitVec 3) (s : BitVec 6) (l : BitVec 4) (t : BitVec 2) (z c : BitVec 1) (st : State) :
    Host.Outcome State Fault Refusal :=
  st.runOp (opMv 55 0 g s l t (c.toNat + 2 * z.toNat)) true (startPack (c == 1) (z == 1))
/-- `unpk`. -/
def execUnpk (g : BitVec 3) (s : BitVec 6) (l : BitVec 4) (t : BitVec 2) (st : State) : Host.Outcome State Fault Refusal :=
  st.runOp (opMv 55 1 g s l t 0) false fun i =>
    i.answers i.x ((i.tok.lanes.filter (·.valid)).map fun v =>
      [(35, { i.tok with lanes := v :: List.replicate 15 {} })])

/-! ## reord (R263) -/

/-- The counts and strides of a reord counter. -/
structure Counter where
  n0 : Nat
  n1 : Nat
  n2 : Nat
  t0 : Nat
  t1 : Nat
  t2 : Nat
/-- Reads a counter constant. -/
def counterOf (c : W64) : Counter :=
  let v := c.toNat
  { n0 := bits v 0 6 + 1, n1 := bits v 6 6 + 1, n2 := bits v 12 6 + 1, t0 := bits v 18 10, t1 := bits v 28 10, t2 := bits v 38 10 }
/-- L. -/
def Counter.size (c : Counter) : Nat := c.n0 * c.n1 * c.n2
/-- The input lane of output lane `j`. -/
def Counter.index (c : Counter) (j : Nat) : Nat :=
  j % c.n0 * c.t0 + j / c.n0 % c.n1 * c.t1 + j / (c.n0 * c.n1) * c.t2
/-- Whether CONFIG is raised. -/
def Counter.bad (c : Counter) (v : W64) : Bool :=
  decide (1024 < c.size) || bits v.toNat 48 16 != 0
    || decide (c.size ≤ (c.n0 - 1) * c.t0 + (c.n1 - 1) * c.t1 + (c.n2 - 1) * c.t2)
/-- The tokens of one batch. -/
def Counter.batch (c : Counter) (k : TokKind) (ls : List LaneV) : List Token :=
  laneTokens k 64 (tab c.size fun j => nth {} ls (c.index j))
/-- Emits the batches that are full; `n` bounds them. -/
def Counter.batches (c : Counter) (k : TokKind) : Nat → List LaneV → List Token × List LaneV
  | 0, ls => ([], ls)
  | n + 1, ls =>
    if ls.length < c.size then ([], ls)
    else
      let r := Counter.batches c k n (ls.drop c.size)
      (c.batch k (ls.take c.size) ++ r.1, r.2)
/-- Starts `reord`. A changed counter may find more lanes held than it counts: full batches leave first. -/
def startReord (k : Nat) (i : OpIn) : OpOut :=
  let v := i.f.const k
  let c := counterOf v
  let pt := i.x.part
  if c.bad v then .trap cCONFIG v 55
  else if i.tok.kind = .hem then
    let r := c.batches pt.reordKind (pt.reord.length + 1) pt.reord
    let pad : List LaneV := List.replicate (c.size - r.2.length) {}
    let rest := if r.2.isEmpty then [] else c.batch pt.reordKind (r.2 ++ pad)
    i.answers { i.x with part := { pt with reord := [] } } ((r.1 ++ rest).map (fun o => [(35, o)]) ++ [[(35, i.tok)]])
  else
    let ls := pt.reord ++ i.tok.lanes
    let r := c.batches i.tok.kind (ls.length + 1) ls
    i.answers { i.x with part := { pt with reord := r.2, reordKind := i.tok.kind } } (r.1.map fun o => [(35, o)])
/-- `reord` by constant `k`. -/
def execReord (g : BitVec 3) (s : BitVec 6) (l : BitVec 4) (t : BitVec 2) (k : BitVec 3) (st : State) :
    Host.Outcome State Fault Refusal :=
  st.runOp (opMv 55 2 g s l t k.toNat) true (startReord k.toNat)

/-! ## merge2, union and the isect pair -/

/-- Which of the three: merge2, union or intersection. -/
inductive MergeMode where
  | merge | union | isect
deriving DecidableEq, Repr

/-- The key of a lane (R264, R327). -/
def mergeKey (m : MergeMode) (k : Option TokKind) (v : LaneV) : BitVec 32 :=
  if m = .merge && k != some .sparse then BitVec.ofNat 32 (bits v.val.toNat 16 16) else v.coord
/-- The key check of a token's valid lanes (R373, R374): the offending pair, or the last key. -/
def keysCheck (strict : Bool) (p : Option (BitVec 32)) : List (BitVec 32) → Except (BitVec 32 × BitVec 32) (Option (BitVec 32))
  | [] => .ok p
  | k :: ks =>
    match p with
    | none => keysCheck strict (some k) ks
    | some q => if k < q || (strict && k == q) then .error (q, k) else keysCheck strict (some k) ks

/-- What taking a token at an input comes to: the state, or a trap with its TVAL; `pair` says that the trap is one of a
hem pair, named at the trigger port. -/
inductive MergeRes where
  | ok (m : MergeSt)
  | trap (code : Nat) (val : W64) (pair : Bool)

/-- KIND/LEVEL of a token met at one input, and of what the other holds, the left first (R376). -/
def sidePair (right : Bool) (t other : Token) : W64 := if right then kindLevel other t else kindLevel t other
/-- Whether an input can take a token: it holds no lane and no hem. -/
def MergeSt.canTake (st : MergeSt) (right : Bool) : Bool :=
  if right then st.right.isEmpty && st.hemR.isNone else st.left.isEmpty && st.hemL.isNone
/-- Takes a token at an input (R264, R265, R327, R374). -/
def MergeSt.take (st : MergeSt) (m : MergeMode) (right : Bool) (t : Token) : MergeRes :=
  let hem := if right then st.hemL else st.hemR
  let other := if right then st.kindL else st.kindR
  if t.kind = .hem then
    match hem with
    | some h =>
      if h.level != t.level then .trap cFORMAT (sidePair right t h) true
      else .ok (if right then { st with hemR := some t } else { st with hemL := some t })
    | none => .ok (if right then { st with hemR := some t } else { st with hemL := some t })
  else
    let k := if t.kind = .sparse then TokKind.sparse else .data
    let bad := (m == .isect && k != .sparse) || (m == .merge && (match other with | some o => o != k | none => false))
    if bad then .trap cFORMAT (sidePair right t { kind := other.getD .data }) false
    else
      let vs := t.lanes.filter (·.valid)
      match keysCheck (m != .merge) (if right then st.predR else st.predL) (vs.map (mergeKey m (some k))) with
      | .error (q, n) => .trap cORDER (BitVec.ofNat 64 (q.toNat + n.toNat * 2 ^ 32)) false
      | .ok p => .ok (if right then { st with right := vs, predR := p, kindR := some k }
                      else { st with left := vs, predL := p, kindL := some k })

/-- The kind of the tokens given out. -/
def MergeSt.kind (st : MergeSt) (m : MergeMode) : TokKind :=
  if m = .isect then .sparse else (st.kindL.orElse fun _ => st.kindR).getD .data
/-- The output tokens being filled, and the state without them. -/
def MergeSt.flush (st : MergeSt) (m : MergeMode) : MergeSt × List (Token × Token) :=
  if st.outA.isEmpty then (st, [])
  else ({ st with outA := [], outB := [] }, [(laneList (st.kind m) st.outA, laneList (st.kind m) st.outB)])
/-- Adds a lane to the outputs. -/
def MergeSt.add (st : MergeSt) (a b : LaneV) : MergeSt := { st with outA := st.outA ++ [a], outB := st.outB ++ [b] }
/-- The missing side of a key in a union: +0, valid. -/
def zeroAt (v : LaneV) : LaneV := { valid := true, val := 0, coord := v.coord }

/-- One lane placed, or the hems passed; none where the inputs must first take more. -/
def MergeSt.stepOnce (st : MergeSt) (m : MergeMode) : Option (MergeSt × List (Token × Token)) :=
  match st.left, st.right with
  | a :: ls, b :: rs =>
    let ka := mergeKey m st.kindL a
    let kb := mergeKey m st.kindR b
    let onlyL := { st with left := ls }
    let onlyR := { st with right := rs }
    match m with
    | .merge => some (if ka ≤ kb then onlyL.add a {} else onlyR.add b {}, [])
    | .union =>
      if ka = kb then some ({ st with left := ls, right := rs }.add a b, [])
      else some (if ka < kb then onlyL.add a (zeroAt a) else onlyR.add (zeroAt b) b, [])
    | .isect =>
      if ka = kb then some ({ st with left := ls, right := rs }.add a b, [])
      else some (if ka < kb then onlyL else onlyR, [])
  | a :: ls, [] =>
    if st.hemR.isNone then none
    else some (match m with
      | .merge => { st with left := ls }.add a {}
      | .union => { st with left := ls }.add a (zeroAt a)
      | .isect => { st with left := ls }, [])
  | [], b :: rs =>
    if st.hemL.isNone then none
    else some (match m with
      | .merge => { st with right := rs }.add b {}
      | .union => { st with right := rs }.add (zeroAt b) b
      | .isect => { st with right := rs }, [])
  | [], [] =>
    match st.hemL, st.hemR with
    | some h, some _ => some ({}, (st.flush m).2 ++ [(h, h)])
    | _, _ => none
/-- Places lanes until the inputs must take more; `n` bounds the steps. -/
def mergeRun (m : MergeMode) : Nat → MergeSt → MergeSt × List (Token × Token)
  | 0, st => (st, [])
  | n + 1, st =>
    match st.stepOnce m with
    | none => (st, [])
    | some (st, o) =>
      let f := if 16 ≤ st.outA.length then st.flush m else (st, [])
      let r := mergeRun m n f.1
      (r.1, o ++ f.2 ++ r.2)

/-- The ports of an output pair: `xu.o` alone for merge2, both for the others. -/
def mergePorts (m : MergeMode) (o : Token × Token) : List (Nat × Token) :=
  match m with
  | .merge => [(35, o.1)]
  | .union => [(35, o.1), (36, o.2)]
  | .isect => [(40, o.1), (41, o.2)]
/-- The state of a merge. -/
def Partial.merge (p : Partial) (m : MergeMode) : MergeSt :=
  match m with
  | .merge => p.mg
  | .union => p.un
  | .isect => p.isc
/-- Replaces it. -/
def Partial.setMerge (p : Partial) (m : MergeMode) (x : MergeSt) : Partial :=
  match m with
  | .merge => { p with mg := x }
  | .union => { p with un := x }
  | .isect => { p with isc := x }
/-- Places what the inputs hold, with the flights of the output. -/
def Elem.mergeOut (x : Elem) (m : MergeMode) (fam due : Nat) (st : MergeSt) : Elem × List Flight :=
  let r := mergeRun m 40 st
  ({ x with part := x.part.setMerge m r.1 }, flightsFrom fam due (r.2.map (mergePorts m)))
/-- Starts merge2 or union: the left token is taken. -/
def startMerge (m : MergeMode) (i : OpIn) : OpOut :=
  match (i.x.part.merge m).take m false i.tok with
  | .trap c v pair => .trap c v (if pair then i.m.dst else i.m.src)
  | .ok st =>
    let r := i.x.mergeOut m 55 (i.time + opLat 55 i.m.var) st
    .ok r.1 r.2
/-- `merge2`. -/
def execMerge2 (g : BitVec 3) (s : BitVec 6) (l : BitVec 4) (t : BitVec 2) (st : State) : Host.Outcome State Fault Refusal :=
  st.runOp (opMv 55 3 g s l t 0) true (startMerge .merge)
/-- `union`. -/
def execUnion (g : BitVec 3) (s : BitVec 6) (l : BitVec 4) (t : BitVec 2) (st : State) : Host.Outcome State Fault Refusal :=
  st.runOp (opMv 55 4 g s l t 0) true (startMerge .union)

/-- The right stream of merge2 or union is taken from `xu.b` (R264): `slot` is that of the trigger move. The trap of a key
or a kind names the source of the move that fed `xu.b`. -/
def State.mergeRight (s : State) (e slot : Nat) (m : MergeMode) : State :=
  let p := s.piece
  let x := p.elem e
  match (x.port 33).ready s.time with
  | none => s
  | some t =>
    match (x.part.merge m).take m true t with
    | .trap c v pair => s.elemTrap e c v (if pair then 55 else mvSrc ((p.face e).slot (x.port 33).slot)) slot
    | .ok st =>
      let r := (x.takePort 33 s.time).mergeOut m 55 (s.time + opLat 55 (if m = .union then 4 else 3) - 1) st
      s.modPiece fun p => (p.setElem e { r.1 with flight := r.1.flight ++ r.2, idle := s.time }).blkMoved s.time

/-- Whether a unit holds what it has taken at one input and waits for the other: an operand is missing (R273). -/
def MergeSt.short (st : MergeSt) : Bool :=
  (!st.left.isEmpty || st.hemL.isSome) != (!st.right.isEmpty || st.hemR.isSome)

/-! ### The isect pair -/

/-- Whether an element's moves and operations may act in this cycle. -/
def Piece.acts (p : Piece) (e time : Nat) : Bool :=
  let x := p.elem e
  p.blk.runs time && !x.stopped && x.gate == 0 && decide (x.faceAt ≤ time)
/-- The token at the head of an input that the pair can take: turn and kset tokens belong to the element (R249, R252). -/
def Piece.isectHead (p : Piece) (e d : Nat) (right : Bool) (time : Nat) : Option Token :=
  if !((p.elem e).part.isc.canTake right) then none
  else match p.srcTok e (p.pleat e false) d time with
    | some t => if t.kind = .turn || t.kind = .kset then none else some t
    | none => none
/-- Whether the pair can act in this cycle: it has not acted yet, its ports are free and an input has a token (R257, R265). -/
def Piece.isectReady (p : Piece) (e a b time : Nat) : Bool :=
  let x := (p.elem e).inCycle time
  p.acts e time && !x.started.contains portIsect && (x.port 40).open time && (x.port 41).open time
    && decide ((x.flight.filter fun f => f.fam == portIsect).length < 3)
    && ((p.isectHead e a false time).isSome || (p.isectHead e b true time).isSome)
/-- Takes the head token of one input of the pair; none where the element has trapped. -/
def State.isectTake (s : State) (e slot d : Nat) (right : Bool) : State × Bool :=
  let p := s.piece
  let pl := p.pleat e false
  let x := p.elem e
  match p.isectHead e d right s.time with
  | none => (s, true)
  | some t =>
    match x.part.isc.take .isect right t with
    | .trap c v pair => (s.elemTrap e c v (if pair then portIsect else d) slot, false)
    | .ok st =>
      (s.modPiece fun p => (p.setElem e { x.take pl d s.time with part := x.part.setMerge .isect st }).blkMoved s.time, true)
/-- One step of the pair: it takes a token of each input and gives out the matches (R265). -/
def State.isectStep (s : State) (e slot a b : Nat) : State :=
  let s := s.modPiece fun p =>
    let x := (p.elem e).inCycle s.time
    p.setElem e { x with started := portIsect :: x.started, idle := s.time }
  let r := s.isectTake e slot a false
  let r := if r.2 then r.1.isectTake e slot b true else r
  let s := r.1
  let x := s.piece.elem e
  let o := x.mergeOut .isect portIsect (s.time + 3) x.part.isc
  s.modPiece fun p => p.setElem e { o.1 with flight := o.1.flight ++ o.2 }
/-- Whether the pair is held in this cycle by a full port or a missing operand (R273); a gated element goes on waiting. -/
def Piece.isectHeld (p : Piece) (e a b time : Nat) : Bool :=
  let x := p.elem e
  p.blk.runs time && !x.stopped && decide (x.faceAt ≤ time) && !(x.inCycle time).started.contains portIsect
    && !p.isectReady e a b time
    && (x.part.isc.short || (p.isectHead e a false time).isSome || (p.isectHead e b true time).isSome)
/-- `isect`: the configuration never fires as a move; it makes the pair of inputs deliver its matches (R155, R265). -/
def execIsect (a : BitVec 6) (b : BitVec 8) (st : State) : Host.Outcome State Fault Refusal :=
  let p := st.piece
  if !p.live then .fault .noPiece
  else if p.isectReady st.focusE a.toNat b.toNat st.time then .next (st.isectStep st.focusE st.focusS a.toNat b.toNat)
  else if p.isectHeld st.focusE a.toNat b.toNat st.time then .next (st.holds st.focusE)
  else .next st

/-! ## Routing (R266, R321) -/

/-- `steer`: to `xu.o` where the control is 0, else to `xu.p`; a hem to both. -/
def execSteer (g : BitVec 3) (s : BitVec 6) (l : BitVec 4) (t : BitVec 2) (st : State) : Host.Outcome State Fault Refusal :=
  st.runOp (opMv 55 5 g s l t 0) true fun i =>
    i.answers i.x [if i.tok.kind = .hem then [(35, i.tok), (36, i.tok)]
                   else if laneWord ((i.opnd 33).lane 0).val = 0 then [(35, i.tok)] else [(36, i.tok)]]
/-- `mrg`: the head of the input that the control selects; under a hem control one hem, with the control's tag. -/
def execMrg (g : BitVec 3) (s : BitVec 6) (l : BitVec 4) (t : BitVec 2) (st : State) : Host.Outcome State Fault Refusal :=
  st.runOp (opMv 55 6 g s l t 0) true fun i =>
    i.answers i.x [[(35, if i.tok.kind = .hem then i.tok else if i.has 33 then i.opnd 33 else i.opnd 34)]]
/-- `dup`. -/
def execDup (g : BitVec 3) (s : BitVec 6) (l : BitVec 4) (t : BitVec 2) (st : State) : Host.Outcome State Fault Refusal :=
  st.runOp (opMv 55 7 g s l t 0) true fun i => i.answers i.x [[(35, i.tok), (36, i.tok)]]

/-! ## topk (R267) -/

/-- Whether an entry ranks before another: larger values first, a NaN last, equal values by the lower coordinate. -/
def topBefore (a b : LaneV) : Bool :=
  match wifVal a.val, wifVal b.val with
  | .nan _, .nan _ => decide (a.coord < b.coord)
  | .nan _, _ => false
  | _, .nan _ => true
  | x, y => if wifLt y x then true else if wifLt x y then false else decide (a.coord < b.coord)
/-- Puts an entry into a ranked list, behind those it does not rank before. -/
def topInsert (v : LaneV) : List LaneV → List LaneV
  | [] => [v]
  | w :: ws => if topBefore v w then v :: w :: ws else w :: topInsert v ws
/-- Takes lanes into the ranked list, which keeps the 64 largest; a data token's coordinates are positions, counted in
valid lanes as R320 counts them. -/
def topLanes (data : Bool) : List LaneV → Nat → List LaneV → List LaneV × Nat
  | [], pos, held => (held, pos)
  | v :: vs, pos, held =>
    if !v.valid then topLanes data vs pos held
    else topLanes data vs (pos + 1)
      ((topInsert (if data then { v with coord := BitVec.ofNat 32 pos } else v) held).take 64)
/-- Starts `topk`. -/
def startTopk (k : Nat) (i : OpIn) : OpOut :=
  let pt := i.x.part
  if i.tok.kind = .hem then
    let es := pt.topk.take k
    let toks := tab ((k + 15) / 16) fun n => [(35, laneList .sparse ((es.drop (16 * n)).take 16))]
    i.answers { i.x with part := { pt with topk := [], topPos := 0, topOpen := false } }
      (toks ++ [[(18, lane0Tok .data (intLane es.length)), (35, i.tok)]])
  else
    let r := topLanes (i.tok.kind != .sparse) i.tok.lanes pt.topPos pt.topk
    .ok { i.x with part := { pt with topk := r.1, topPos := r.2, topOpen := true } } []
/-- `topk` of the `k` largest. -/
def execTopk (g : BitVec 3) (s : BitVec 6) (l : BitVec 4) (t : BitVec 2) (k : BitVec 7) (st : State) :
    Host.Outcome State Fault Refusal :=
  st.runOp (opMv 56 0 g s l t k.toNat) true (startTopk k.toNat)

/-! ## spa (R268) -/

/-- Adds lanes to the slots, with the flags. -/
def spaLanes : List LaneV → SMap (Option Lane) → FFlags → SMap (Option Lane) × FFlags
  | [], m, fl => (m, fl)
  | v :: vs, m, fl =>
    let c := v.coord.toNat
    let r := wifAdd ((SMap.get none m c).getD 0) v.val
    spaLanes vs (m.insert c (some r.1)) (fl ||| r.2)
/-- Number of entries of a list that repeat an earlier one. -/
def repeats : List Nat → Nat
  | [] => 0
  | x :: xs => (if xs.contains x then 1 else 0) + repeats xs
/-- Starts `spa`. -/
def startSpa (i : OpIn) : OpOut :=
  let pt := i.x.part
  if i.tok.kind = .hem then
    let ls := pt.spa.map fun kv => { valid := true, val := kv.2.getD 0, coord := BitVec.ofNat 32 kv.1 }
    i.answers { i.x with part := { pt with spa := [], spaOpen := false } }
      ((laneTokens .sparse 32 ls).map (fun t => [(35, t)]) ++ [[(35, i.tok)]])
  else if i.tok.kind != .sparse then .trap cFORMAT (kindLevel i.tok {}) i.m.src
  else
    let vs := i.tok.lanes.filter (·.valid)
    match vs.find? fun v => decide (512 ≤ v.coord.toNat) with
    | some v => .trap cFORMAT (BitVec.ofNat 64 v.coord.toNat) 56
    | none =>
      let r := spaLanes vs pt.spa 0
      let busy := i.time + 1 + repeats (vs.map (·.coord.toNat))
      .ok { i.x with part := { pt with spa := r.1, spaOpen := true, spaBusy := busy } } (i.flagged r.2)
/-- `spa`. -/
def execSpa (g : BitVec 3) (s : BitVec 6) (l : BitVec 4) (t : BitVec 2) (st : State) : Host.Outcome State Fault Refusal :=
  st.runOp (opMv 56 1 g s l t 0) true startSpa

/-! ## The stationary tile (R269) -/

/-- The product of a row vector and column `n` of the active tile, from a start value. -/
def tileSum (i : OpIn) (n : Nat) (start : Lane) : LaneRes :=
  (List.range 16).foldl (fun a k =>
    if (i.tok.lane k).valid then
      let r := wifFma (i.tok.lane k).val (tileLane i.x.st0 i.epoch i.e (if i.x.stPar then 1 else 0) (16 * k + n)) a.1
      (r.1, a.2 ||| r.2)
    else a) (start, 0)
/-- Starts `tile`. -/
def startTile (x : Bool) (i : OpIn) : OpOut :=
  let res := tab 16 fun n =>
    tileSum i n (if x && ((i.opnd 33).lane n).valid then ((i.opnd 33).lane n).val else 0)
  let out : Token := { i.tok with lanes := tab 16 fun n =>
    { valid := true, val := (nth (0, 0) res n).1, coord := (i.tok.lane n).coord } }
  .ok { i.x with tileBusy := i.time + 16 }
    [{ fam := 58, due := i.time + 18, outs := [(35, out)], fl := res.foldl (fun f r => f ||| r.2) 0 }]
/-- `tile`, starting from `xu.b` where `x`. -/
def execTile (g : BitVec 3) (s : BitVec 6) (l : BitVec 4) (t : BitVec 2) (x : BitVec 1) (st : State) :
    Host.Outcome State Fault Refusal :=
  st.runOp (opMv 56 2 g s l t x.toNat) false (startTile (x == 1))
/-- `swst`: its operand is consumed; the tiles change places when it completes. -/
def execSwst (g : BitVec 3) (s : BitVec 6) (l : BitVec 4) (t : BitVec 2) (st : State) : Host.Outcome State Fault Refusal :=
  st.runOp (opMv 56 3 g s l t 0) true fun i => i.answers i.x [[(22, i.tok)]]

end Sys2Proof.Machine
end

