-- ==== Sys2Proof/Machine/LinkBase.lean ====
section
/-! DEFINITION. What a lane group carries: flits and their trailers (R284, R285), token frames (R283, R291), the units of
memory traffic (R287) with their encryption (R289), and how the requester sends, is answered and loses a binding
(R365, R394 to R396). -/

namespace Sys2Proof.Machine

/-- Bytes as the numbers that the cipher functions take. -/
def nats (b : List Byte) : List Nat := b.map (·.toNat)
/-- Numbers back as bytes. -/
def toBytes (b : List Nat) : List Byte := b.map (BitVec.ofNat 8)

/-! ## Flits -/

/-- Whether a group can put flits on its lanes: it has a lane in service and is neither retraining nor without one while
another is turned round (R391, R393). -/
def Pair.sends (p : Pair) : Bool := p.gout != 0 && p.retrain != 1 && !p.lost

/-- Trailer bits [39:0] (R284). -/
def trailerBits (seq ack : BitVec 16) (nak : Bool) (cred : Nat) : Nat :=
  seq.toNat + ack.toNat * 2 ^ 16 + (if nak then 2 ^ 32 else 0) + cred % 128 * 2 ^ 33

/-- The CRC of a flit over its payload and trailer bits [39:0]. -/
def flitCrc (payload : List Byte) (low : Nat) : Nat := crc32c (nats payload ++ natBytes 5 low)

/-- A whole trailer. -/
def trailer (payload : List Byte) (seq ack : BitVec 16) (nak : Bool) (cred : Nat) : BitVec 72 :=
  let low := trailerBits seq ack nak cred
  BitVec.ofNat 72 (low + flitCrc payload low * 2 ^ 40)

/-- Puts a flit on the lanes of group `n`: its trailer carries ACK and NAK as they are now. A flit sent again carries the
CRED of its first sending, since the flit that carried it was dropped. -/
def State.putFlit (s : State) (n : Nat) (payload : List Byte) (seq : BitVec 16) (cred : Nat) : State :=
  let p := s.pairOf n
  s.emit (.flit n payload (trailer payload seq p.rxack p.nak cred))

/-- Free places of the replay buffer of a port, which its four outgoing groups share (R285). -/
def State.replayRoom (s : State) (n : Nat) : Nat :=
  512 - (List.range 4).foldl (fun k g => k + (s.pairOf (n / 4 * 4 + g)).replay.length) 0

/-- Sends one flit: it is held for replay from now on, and put on the lanes where the group sends (R285). -/
def State.sendFlit (s : State) (n : Nat) (payload : List Byte) : State :=
  let p := s.pairOf n
  let c := Nat.min p.freed 127
  let f : Flit := { payload := payload, seq := p.txseq, sends := if p.sends then 1 else 0, pair := n, cred := c, sent := p.sends }
  let s := s.setPair n { p with
    txseq := p.txseq + 1, replay := p.replay ++ [f], freed := p.freed - c
    sinceAck := if p.replay.isEmpty then s.time else p.sinceAck }
  if p.sends then s.putFlit n payload p.txseq c else s

/-- Sends a unit or frame of `k` whole flits. -/
def State.sendUnit (n : Nat) : Nat → List Byte → State → State
  | 0, _, s => s
  | k + 1, b, s => State.sendUnit n k (b.drop 64) (s.sendFlit n (b.take 64))

/-- Sends bytes that fill whole flits. -/
def State.sendBytes (s : State) (n : Nat) (b : List Byte) : State := State.sendUnit n (b.length / 64) b s

/-- Fills a unit up to whole flits. -/
def padFlits (k : Nat) (b : List Byte) : List Byte := b ++ List.replicate (64 * k - b.length) 0

/-! ## Token frames (R283, R291) -/

/-- The leftmost 56 bits of a CMAC, first byte lowest (R289). -/
def tag56 (k : KeyDom) (m : List Nat) : Nat := bytesNat ((cmac k.cmac m).take 7)

/-- Flits of a frame by the token's kind. -/
def frameFlits (kind : TokKind) : Nat :=
  match kind with
  | .hem => 1
  | .sparse => 3
  | _ => 2

/-- Bytes [6:0] of a frame. -/
def frameHead (t : Token) : List Byte :=
  bytesOf 1 (t.kind.code + t.level.toNat * 16) ++ bytesOf 2 t.mask ++ bytesOf 4 t.tag.toNat

/-- The value and coordinate lanes of a frame: invalid lanes are zero. -/
def frameLanes (t : Token) : List Byte :=
  ((tab 16 fun i => bytesOf 5 (if (t.lane i).valid then (t.lane i).val.toNat else 0)).flatten)
    ++ (if t.kind = .sparse then (tab 16 fun i => bytesOf 4 (if (t.lane i).valid then (t.lane i).coord.toNat else 0)).flatten
        else [])

/-- The tweak of frame `n` of a binding. -/
def frameTweak (bid : Word32) (n : Nat) : Nat := bid.toNat + n % 2 ^ 64 * 2 ^ 32

/-- The frame of a token. -/
def frameOf (k : KeyDom) (bid : Word32) (n : Nat) (t : Token) : List Byte :=
  let head := frameHead t
  let ct := if t.kind = .hem then [] else xts true k.xts (frameTweak bid n) (nats (frameLanes t))
  padFlits (frameFlits t.kind) (head ++ bytesOf 7 (tag56 k (nats head ++ ct)) ++ bytesOf 2 0 ++ toBytes ct)

/-- The kind of a frame. -/
def kindOf (c : Nat) : TokKind :=
  match c with
  | 1 => .sparse
  | 2 => .hem
  | _ => .data

/-- The token of a frame, or none where its tag fails (R397). -/
def tokenOf (k : KeyDom) (bid : Word32) (n : Nat) (b : List Byte) : Option Token :=
  let c := ofBytes (b.take 1)
  let kind := kindOf (c % 16)
  let len := match kind with
    | .hem => 0
    | .sparse => 144
    | _ => 80
  let ct := nats ((b.drop 16).take len)
  if tag56 k (nats (b.take 7) ++ ct) != ofBytes ((b.drop 7).take 7) then none
  else
    let pt := toBytes (if len = 0 then [] else xts false k.xts (frameTweak bid n) ct)
    let mask := ofBytes ((b.drop 1).take 2)
    some { kind := kind, level := BitVec.ofNat 3 (c / 16), tag := BitVec.ofNat 32 (ofBytes ((b.drop 3).take 4))
           lanes := tab 16 fun i =>
             { valid := bitAt mask i, val := BitVec.ofNat 40 (ofBytes ((pt.drop (5 * i)).take 5))
               coord := BitVec.ofNat 32 (ofBytes ((pt.drop (80 + 4 * i)).take 4)) } }

/-! ## Units of memory traffic (R287) -/

/-- Flits of a unit by its OP. -/
def unitFlits (op : Nat) : Nat := if op = 1 || op = 2 || op = 0x81 then 3 else 1

/-- The first bytes of a unit: OP and PA. -/
def unitHead (op pa : Nat) : List Byte := bytesOf 1 op ++ bytesOf 7 pa
/-- PA of a unit. -/
def unitPa (b : List Byte) : Nat := ofBytes ((b.drop 1).take 7)
/-- OP of a unit. -/
def unitOp (b : List Byte) : Nat := ofBytes (b.take 1)

/-- A store unit: a line with its tag, or a masked line. -/
def storeUnit (op line tag mask : Nat) (ct : List Byte) : List Byte :=
  padFlits 1 (unitHead op line ++ bytesOf 7 tag ++ bytesOf 1 0 ++ bytesOf 16 mask) ++ ct

/-- The tweak of the 16-byte block `j` of a line (R289). -/
def xtsSkip : Nat → Nat → Nat
  | 0, t => t
  | n + 1, t => xtsSkip n (xtsNext t)

/-- An operand or result block encrypted or decrypted: its line's tweak, at its block index. -/
def operandBlock (enc : Bool) (k : KeyDom) (pa : Nat) (b : List Nat) : List Nat :=
  let kb := natBytes 64 k.xts.toNat
  let k1 := aesKeys (kb.take 32)
  let t := bytesNat (aesEncrypt (aesKeys (kb.drop 32)) (natBytes 16 (pa / 128 * 128)))
  xtsBlocks (if enc then aesEncrypt k1 else aesDecrypt k1) 1 (xtsSkip (pa % 128 / 8 % 8) t) b

/-- A unit that carries an encrypted 8-byte value and its tag: an invocation or its result. -/
def valueUnit (op pa code : Nat) (k : KeyDom) (v : W64) : List Byte :=
  let ct := operandBlock true k pa (natBytes 8 v.toNat ++ List.replicate 8 0)
  padFlits 1 (unitHead op pa ++ bytesOf 8 code ++ List.replicate 16 0 ++ toBytes ct
    ++ bytesOf 7 (tag56 k (natBytes 8 pa ++ ct)))

/-- The value of such a unit, or none where its tag fails. -/
def unitValue (k : KeyDom) (b : List Byte) : Option W64 :=
  let pa := unitPa b
  let ct := nats ((b.drop 32).take 16)
  if tag56 k (natBytes 8 pa ++ ct) != ofBytes ((b.drop 48).take 7) then none
  else some (BitVec.ofNat 64 (bytesNat ((operandBlock false k pa ct).take 8)))

/-! ## The requester -/

/-- Whether an operation is a request that has still to leave the package. -/
def State.unsent (s : State) (o : MemOp) : Bool := o.via.isNone && o.level == 0 && !s.wasSent o.id

/-- Whether the requests of an agent that were issued before one, on the same pair, have been sent: they leave in order of issue
(R114, R115, R116); those of one stream are in order among themselves. -/
def State.nextToSend (s : State) (o : MemOp) : Bool :=
  !s.ops.any fun w => w.id < o.id && w.remote == o.remote && w.agent == o.agent && w.slot == o.slot && s.unsent w

/-- Changes one piece. -/
def State.modPieceAt (s : State) (p : Nat) (f : Piece → Piece) : State :=
  { s with pieces := s.pieces.map fun kv => if kv.1 = p then (kv.1, f kv.2) else kv }

/-- Records a request as sent; it counts at its piece (R201). -/
def State.noteSent (s : State) (o : MemOp) (pair kind : Nat) : State :=
  { s.modPieceAt o.piece (·.count 21 1) with links := { s.links with requests := s.links.requests ++
    [({ id := o.id, pair := pair, kind := kind, at_ := s.time, piece := o.piece, va := o.va, rd := o.rd, addr := o.addr
        size := o.size, sext := o.sext, key := o.key } : RemoteReq)] } }

/-- Writes that travel in the unit of another. -/
def State.rideWith (s : State) (id : Nat) (ms : List Nat) : State :=
  { s with ops := s.ops.map fun (w : MemOp) => if w.id != id && ms.contains w.id then { w with via := some id } else w }

/-- Sends a write, with those that travel with it: a whole line that an address generator writes, or a masked line (R287). A line
that its stream goes on filling waits. -/
def State.sendWrite (s : State) (o : MemOp) (n : Nat) : State :=
  let line := o.addr / 128 * 128
  let k := s.keyDom o.key
  let mates := match o.agent with
    | .engines _ => s.mates o
    | _ => [o]
  let w := lineOfWrites 128 line mates
  let ride (s : State) : State := s.rideWith o.id (mates.map (·.id))
  if w.2 = 2 ^ 128 - 1 then
    let c := sealLine k line w.1
    (ride (s.sendBytes n (storeUnit 1 line c.2 0 c.1))).noteSent o n 1
  else if s.filling o then s
  else
    let ct := toBytes (xts true k.xts line (nats w.1))
    (ride (s.sendBytes n (storeUnit 2 line 0 w.2 ct))).noteSent o n 1

/-- The unit that carries an atomic or a scatter update: R287 gives none, so that its 64 bytes are free values (log 19, DESIGN
CHOICE). -/
def State.freeUnit : Nat → State → List Byte × State
  | 0, s => ([], s)
  | n + 1, s =>
    let (m, s) := s.takeFresh
    let (b, s) := State.freeUnit n s
    (bytesOf 8 (Config.freeWord m).toNat ++ b, s)

/-- Sends an atomic or a scatter update. -/
def State.sendFree (s : State) (o : MemOp) (n : Nat) : State :=
  let (b, s) := State.freeUnit 8 s
  (s.sendBytes n b).noteSent o n 3

/-- Sends the request of a remote operation once its orders are met, those before it have been sent, and the replay buffer has
room (R285, R287). -/
def State.sendRequest (s : State) (o : MemOp) : State :=
  match o.remote with
  | none => s
  | some n =>
    if !s.unsent o || !s.depsMet o.deps || !s.nextToSend o || s.replayRoom n < 3 then s
    else match o.kind with
      | .read => (s.sendBytes n (padFlits 1 (unitHead 3 (o.addr / 128 * 128)))).noteSent o n 0
      | .rmw =>
        if o.fn < 32 then s.sendFree o n
        else (s.sendBytes n (valueUnit 4 o.addr (o.fn - 32) (s.keyDom o.key) (BitVec.ofNat 64 (ofBytes o.data)))).noteSent o n 2
      | .write => s.sendWrite o n
      | _ => s

/-- Takes a request off the list of those outstanding. -/
def State.dropRequest (s : State) (id : Nat) : State :=
  { s with links := { s.links with requests := s.links.requests.filter fun r => r.id != id } }

/-- Whether the answer of an operation is taken by a unit of the piece: at its word, in a queue load, or at its element. -/
def State.awaited (s : State) (o : MemOp) : Bool :=
  match o.agent with
  | .thread p =>
    (match (s.pieceOf p).await with
      | .load ids => ids.contains o.id
      | .invoke id => id == o.id
      | _ => false) || (s.pieceOf p).qloads.any fun q => q.lanes.any fun l => l.op == some o.id
  | _ => true

/-- The trap of an operation that failed after its word retired (R365, R395); that of a node's update names its element (R271). -/
def asyncTrap (o : MemOp) (sd code : Nat) (loc : W64) : TrapRec :=
  match o.agent with
  | .thread _ => { code := code, unit := 0, async := true, val := o.va, loc := loc }
  | _ =>
    if o.slot < 64 then { code := code, unit := 5, async := true, val := o.va, loc := loc ||| BitVec.ofNat 64 sd, slot := o.slot }
    else if o.isUpdate then
      { code := code, unit := 4, async := true, val := o.va, loc := loc ||| elemLoc o.rd portMemT 0 false, elem := o.rd }
    else { code := code, unit := 2, async := true, val := o.va, loc := loc }

/-- Raises the trap of a failed operation at its piece. -/
def State.raiseFor (s : State) (o : MemOp) (code : Nat) (loc : W64) : State :=
  let sd := ((s.pieceOf o.piece).slot o.slot).sd
  s.modPieceAt o.piece (·.raise (asyncTrap o sd code loc))

/-- A load's value reaches its register, if nothing has overtaken it (R164, R167). -/
def Piece.landLoad (p : Piece) (id rd : Nat) (v : W64) (pois : Option W64) : Piece :=
  if rd != 0 && SMap.get none p.pend rd == some id then
    let p := p.setRegN rd v
    match pois with
    | some a => { p with pois := SMap.set none p.pois rd (some a) }
    | none => p
  else p

/-- A remote operation has its answer: the one who waits at its word finds it there; a retired load writes its register
and its operation ends. -/
def State.answerOk (s : State) (o : MemOp) (data : List Byte) : State :=
  if s.awaited o then
    { s with ops := s.ops.map fun (w : MemOp) => if w.id = o.id then { w with data := data, level := 5 } else w }
  else
    (s.modPieceAt o.piece (·.landLoad o.id o.rd (extendLoad o.sext data) none)).dropOp o.id

/-- A remote operation has failed: the one who waits at its word traps there; a retired load poisons its register and the
trap is asynchronous. -/
def State.answerBad (s : State) (o : MemOp) (code : Nat) (loc : W64) : State :=
  if o.isUpdate then (s.raiseFor o code loc).dropOp o.id
  else if s.awaited o then
    { s with ops := s.ops.map fun (w : MemOp) => if w.id = o.id then { w with fail := some (code, loc), level := 5 } else w }
  else
    ((s.modPieceAt o.piece (·.landLoad o.id o.rd 0 (some o.va))).raiseFor o code loc).dropOp o.id

/-- The trap of a status byte (R365, R396): cause and TLOC. -/
def statusTrap (st : Nat) : Nat :=
  match st with
  | 1 => cWALL
  | 2 => cINTEGRITY
  | 4 => cPOISON
  | 0x12 => cLINK_LOST
  | _ => cREMOTE_FAIL

/-- TLOC of a status: the pair where the binding is lost. -/
def statusLoc (st n : Nat) : W64 := if st = 0x12 then BitVec.ofNat 64 n else 0

/-- A request ends with a status other than success. -/
def State.requestFails (s : State) (r : RemoteReq) (st : Nat) : State :=
  match s.opOf r.id with
  | none => s
  | some o =>
    match r.kind with
    | 1 =>
      let gone := s.ops.filter fun w => w.id != o.id && w.via != some o.id
      State.raiseFor { s with ops := gone } o (statusTrap st) 0
    | 2 =>
      let code := if st = 0x12 then cLINK_LOST else if st = 0 || statusTrap st = cREMOTE_FAIL then cREMOTE_FAIL else statusTrap st
      (s.modPieceAt o.piece fun p => if p.await == Await.invoke o.id then { p with await := .failed code (statusLoc st r.pair) } else p).dropOp o.id
    | _ => s.answerBad o (statusTrap st) (statusLoc st r.pair)

/-- A store has been acknowledged: it and the writes that travelled with it have performed (R114). -/
def State.storeDone (s : State) (id : Nat) : State :=
  { s with ops := s.ops.filter fun w => w.id != id && w.via != some id }

/-! ## Lost pairs (R394, R395) -/

/-- An operation outstanding on a lost binding ends (R395). -/
def State.losePending (s : State) (r : RemoteReq) : State :=
  let s' := match s.opOf r.id with
    | none => s
    | some o =>
      match r.kind with
      | 0 => s.answerBad o cLINK_LOST (BitVec.ofNat 64 r.pair)
      | 1 => State.raiseFor { s with ops := s.ops.filter fun w => w.id != o.id && w.via != some o.id } o cLINK_LOST 0
      | 3 => s.answerBad o cLINK_LOST (BitVec.ofNat 64 r.pair)
      | _ => (s.modPieceAt o.piece fun p =>
          if p.await == Await.invoke o.id then { p with await := .failed cREMOTE_FAIL 0 } else p).dropOp o.id
  s'.dropRequest r.id

/-- An operation that had not left the package when its binding was lost ends as one outstanding (R395). -/
def State.loseUnsent (s : State) (o : MemOp) : State :=
  match o.kind with
  | .write => State.raiseFor { s with ops := s.ops.filter fun w => w.id != o.id } o cLINK_LOST 0
  | .rmw => if o.fn < 32 then s.answerBad o cLINK_LOST (BitVec.ofNat 64 (o.remote.getD 0))
      else (s.modPieceAt o.piece fun p =>
        if p.await == Await.invoke o.id then { p with await := .failed cREMOTE_FAIL 0 } else p).dropOp o.id
  | _ => s.answerBad o cLINK_LOST (BitVec.ofNat 64 (o.remote.getD 0))

/-- Bindings of a launch on a lost pair are marked lost. -/
def Launch.losePair (x : Launch) (n : Nat) : Launch :=
  { x with binds := x.binds.map fun b => if !b.die && b.claimed && b.pair == n then { b with lost := b.lost || b.bound, bound := false } else b }

/-- The link queue of a lost pair: what waits to be sent is discarded. -/
def LinkQ.losePair (q : LinkQ) (n : Nat) : LinkQ :=
  if q.live && q.pair == some n then { q with lost := true, send := [] } else q

/-- A pair is lost (R394): it is released, what it held is discarded, its operations end, and the link queue keeps only
the tokens already received. `code` is that of the error record, `detail` its further bits (R398). -/
def State.losePair (s : State) (n code detail : Nat) : State :=
  let p := s.pairOf n
  if p.lost || !(p.bound || p.server || p.launch.isSome) then s
  else
    let l := p.launch
    let s := s.setPair n { p with bound := false, server := false, lost := true, replay := [], launch := none, mem := false
                                  early := none, rx := [] }
    let s := match l with
      | some k => s.setLaunch k ((s.launch k).losePair n)
      | none => s
    let s := { s with hub := { s.hub with held := s.hub.held.filter fun h => h.pair != n } }
    let qs := s.links.queues.map fun kv => (kv.1, kv.2.losePair n)
    let s := { s with links := { s.links with queues := qs } }
    let s := (s.links.requests.filter fun r => r.pair == n).foldl State.losePending s
    let s := (s.ops.filter fun o => o.remote == some n && o.level == 0).foldl State.loseUnsent s
    s.err { cls := 1, src := 5, code := code, loc := errLoc 0 0 (n / 4) 0, launch := (l.map s.launchWord).getD 0
            detail := n + (l.getD 0) % 256 * 2 ^ 7 + detail }

end Sys2Proof.Machine
end

