-- ==== Sys2Proof/Machine/MemEvents.lean ====
section
/-! DEFINITION. The steps of the memory system: load data returns (R95, R167), queue loads deliver (R28, R177), writes
perform (R95), bank elements apply scatter updates (R84, R214, R356, R369) and barrier events (R88, R110, R315). -/

namespace Sys2Proof.Machine

/-! ## Loads and atomics -/

/-- TLOC of an INTEGRITY trap (R372). -/
def State.integLoc (s : State) (l : Nat) : W64 := BitVec.ofNat 64 (s.fullPa l + s.protKey l * 2 ^ 56)

/-- What reading units of a range comes to: the bytes so far, whether a line was poisoned, and a line that fails its tag. -/
structure UnitReads where
  got   : SMap (Option Byte) := []
  pois  : Bool := false
  integ : Option Nat := none

/-- Reads units of a local load, as its agent sees them (R96, R102). -/
def State.readUnits (s : State) (o : MemOp) (fwd : Bool) (us : List (Nat × Nat)) : UnitReads :=
  us.foldl (fun r u =>
    let d := s.view o.agent o.vault (o.addr + u.1) u.2 fwd o.id
    { got := gotBytes r.got u.1 d.data, pois := r.pois || d.pois, integ := r.integ.orElse fun _ => d.integ }) { got := o.got }

/-- A read of a sidecar core ends: a line that is poisoned, or whose tag fails, raises its access fault (R370, R372); a load-reserved
takes the reservation of its line (R118). -/
def State.landSide (s : State) (o : MemOp) (core : Nat) (data : List Byte) (bad : Bool) : State :=
  let s := s.dropOp o.id
  if bad then s.emit (.accessFault core (o.kind != .read))
  else
    let s := if o.kind == .read && o.fn = 1 then { s with resv := s.resv.insert core (some o.line) } else s
    s.emit (.readData data false)

/-- A load ends: its value reaches the register, poisoned where its line is (R167, R372). -/
def State.landRead (s : State) (o : MemOp) (data : List Byte) (pois : Option W64) : State :=
  match o.agent with
  | .sidecar c => s.landSide o c data pois.isSome
  | _ => (s.modPieceAt o.piece fun p => { p.landLoad o.id o.rd (extendLoad o.sext data) pois with moved := true }).dropOp o.id

/-- A local load performs, or, where the choice says so, one of its 4-byte units (R95, R96): not before the writes it would see have
performed at its scope (R107). A line whose tag no longer matches poisons the register, and INTEGRITY is raised (R372). -/
def State.performLoad (s : State) (o : MemOp) (fwd : Bool) : State :=
  let (c, s) := s.chooseTorn o.size
  let us := pickUnits c (unitsLeft o.size o.got)
  let fwd := fwd || o.agent.isSide
  if !us.all fun u => s.readable o.agent o.scope o.vault (o.addr + u.1) u.2 then s
  else
    let s := us.foldl (fun s u => s.detect o.vault (o.addr + u.1) u.2) s
    let r := s.readUnits o fwd us
    let s := s.noteSeen o.agent o.id
    if r.pois || r.integ.isSome then
      let s := s.landRead o (gotAll o.size r.got) (some o.va)
      match r.integ with
      | some l => s.raiseFor o cINTEGRITY (s.integLoc l)
      | none => s
    else if (unitsLeft o.size r.got).isEmpty then s.landRead o (gotAll o.size r.got) none
    else { s with ops := s.ops.map fun (w : MemOp) => if w.id = o.id then { w with got := r.got } else w }

/-- A load of the hub window reads the register as one access (R68). -/
def State.performHubLoad (s : State) (o : MemOp) : State :=
  let v := s.hubRead (o.addr - 2 ^ 42)
  (s.noteSeen o.agent o.id).landRead o (bytesOf o.size v.toNat) none

/-- The code of a store-conditional among the operations of a read-modify-write. -/
def storeCondFn : Nat := 11

/-- A store-conditional of a sidecar core writes where its core still holds the reservation of the line, and otherwise, or where the
choice says so, fails (R118, log 46, PRESUMED); its result is 0 for success and 1. -/
def State.storeCond (s : State) (o : MemOp) : State :=
  match o.agent with
  | .sidecar core =>
    let (c, s) := s.choose
    let ok := c % 2 == 0 && SMap.get none s.resv core == some o.line
    let s := if ok then (s.write o.vault o.addr o.data).getD s else s
    let s := { s with resv := s.resv.erase core }
    s.landSide o core (bytesOf o.size (if ok then 0 else 1)) false
  | _ => s

/-- A read-modify-write performs in one step (R109, R184, R185): a poisoned word is not written, and its register is
poisoned (R369). -/
def State.performRmw (s : State) (o : MemOp) : State :=
  let s := s.detect o.vault o.addr o.size
  let r := s.view o.agent o.vault o.addr o.size false o.id
  let s := s.noteSeen o.agent o.id
  let old := ofBytes r.data
  let land (s : State) (pois : Option W64) : State := s.landRead o r.data pois
  match r.integ with
  | some l => (land s (some o.va)).raiseFor o cINTEGRITY (s.integLoc l)
  | none =>
    if r.pois then land s (some o.va)
    else if o.fn = storeCondFn then s.storeCond o
    else match rmwNew o.fn (8 * o.size) old (ofBytes o.data) o.cmp with
      | none => land s none
      | some v => land ((s.write o.vault o.addr (bytesOf o.size v)).getD s) none

/-- The answers that a remote atomic or scatter update may have: success, and the statuses of R365 and R396. -/
def freeStatus (c : Nat) : Option Nat := [none, some 0, some 1, some 2, some 3, some 4, some 0x10, some 0x12][c % 8]?.getD none

/-- Whether a journal has no free entry (R214). -/
def State.journalFull (s : State) (j : Nat × Nat) : Bool := decide (j.2 + 1 ≤ ofBytes (s.bytes true (j.1 + 4) 4))

/-- Appends a sequence number to the journal: entry USED, then USED + 1 (R214). -/
def State.journalAppend (s : State) (j : Nat × Nat) (seq : Nat) : State :=
  let used := ofBytes (s.bytes true (j.1 + 4) 4)
  let s := (s.write true (j.1 + 8 + 4 * used) (bytesOf 4 seq)).getD s
  (s.write true (j.1 + 4) (bytesOf 4 (used + 1))).getD s

/-- The unit that sent a scatter update traps (R369, R372): a stream becomes HELD, a node stops. -/
def State.scatterTrap (s : State) (u : Scatter) (code : Nat) (loc : Option W64) : State :=
  s.modPieceAt u.piece fun p =>
    match u.slot with
    | some k =>
      let x := p.slot k
      let p := if x.st == .running then p.setSlot k { x with st := .held } else p
      Piece.raise { p with c := { p.c with stopped := true } }
        { code := code, unit := 5, async := true, val := u.va, loc := loc.getD (BitVec.ofNat 64 (x.sd + 16 * u.seq)), slot := k }
    | none =>
      Piece.raise (p.setElem u.elem { p.elem u.elem with stopped := true })
        { code := code, unit := 4, async := true, val := u.va, loc := loc.getD (elemLoc u.elem portMemT 0 false), elem := u.elem }

/-- JOURNAL_FULL (R214): raised once while the update is held. -/
def State.journalTrap (s : State) (u : Scatter) (k : Nat) : State :=
  let p := s.pieceOf u.piece
  let mine (r : TrapRec) : Bool := r.code == cJOURNAL_FULL && r.slot == k
  if p.traps.any mine || (p.cur.map mine).getD false || p.abort.isSome then s
  else s.scatterTrap u cJOURNAL_FULL (some (BitVec.ofNat 64 (p.slot k).sd))

/-- A remote update as its stream sees it. -/
def MemOp.scatter (o : MemOp) : Scatter :=
  { id := o.id, piece := o.piece, slot := if o.slot < 64 then some o.slot else none, elem := o.rd, vault := false, addr := o.addr
    va := o.va, fmt := 0, nib := false, sop := 0, val := 0, seq := o.cmp.toNat, jrnl := none, scale := none }

/-- The journal of the stream that sent a remote update (R214). -/
def State.journalOf (s : State) (o : MemOp) : Option (Nat × Nat) :=
  let d := ((s.pieceOf o.piece).slot o.slot).desc
  if o.isUpdate && o.slot < 64 && dfld d 7 = 1 then some (dfld d 23, dfld d 24) else none

/-- A remote atomic or scatter update is answered with success: an atomic reads a free value, since R287 gives neither a unit
(log 19, DESIGN CHOICE). -/
def State.freeDone (s : State) (o : MemOp) : State :=
  if o.isUpdate then
    let s := match s.journalOf o with
      | some j => s.journalAppend j o.cmp.toNat
      | none => s
    (s.modPieceAt o.piece fun p => { p with moved := true }).dropOp o.id
  else
    let (n, s) := s.takeFresh
    s.landRead o (bytesOf o.size (Config.freeWord n).toNat) none

/-- The answer of a remote atomic or scatter update that has been sent comes, as the next choice says, or does not come in this cycle
(log 19, DESIGN CHOICE). After a status of 0x12 the binding is lost (R396). -/
def State.freeAnswer (s : State) (o : MemOp) : State :=
  match s.links.requests.find? fun r => r.id == o.id with
  | none => s
  | some r =>
    let (c, s) := s.choose
    match (if r.dead then none else freeStatus c) with
    | none => s
    | some 0 =>
      if (s.journalOf o).any s.journalFull then s.journalTrap o.scatter o.slot else (s.dropRequest r.id).freeDone o
    | some st =>
      let s := (s.dropRequest r.id).requestFails r st
      if st = 0x12 then s.losePair r.pair 6 ((s.pairOf r.pair).dom % 16 * 2 ^ 16) else s

/-- What finding the present place behind the face of a turned page comes to (R112). -/
inductive FaceAt where
  /-- A turn of the entry waits, or the pair has no room: the access is held. -/
  | held
  | ok (addr : Nat) (pair : Option Nat)
  | bad (code : Nat) (loc : W64)

/-- The place of an access of a piece behind the face of a turned page, as SEL now is (R87, R112). -/
def State.faceNow (s : State) (p : Nat) (f : Nat × Nat) : FaceAt :=
  let s := s.at p
  let t := s.turnEnt f.1
  let a := (if t.sel then t.b1 else t.b0).toNat + f.2
  if !t.wait.isEmpty then .held
  else if !s.backingOk a then .bad cWALL 0
  else if a / 2 ^ 45 = s.hub.pkg.toNat then .ok (a % 2 ^ 45) none
  else match s.memBinding (a / 2 ^ 45) with
    | none => .bad cWALL 0
    | some (pair, lost) =>
      if lost then .bad cLINK_LOST (BitVec.ofNat 64 pair)
      else if 64 ≤ s.outstanding pair then .held
      else .ok a (some pair)

/-- A read or atomic whose place is known performs, or its request leaves the package. -/
def State.performOp (s : State) (o : MemOp) (fwd : Bool) : State :=
  match o.kind, o.remote with
  | .read, none => if !o.vault && inHubWin o.addr then s.performHubLoad o else s.performLoad o fwd
  | .rmw, none => if s.contended o.vault o.addr o.size then s else s.performRmw o
  | .read, some _ => s.sendRequest o
  | .rmw, some _ => if o.fn < 32 && s.wasSent o.id then s.freeAnswer o else s.sendRequest o
  | _, _ => s

/-- A load of a turned page resolves SEL (R112), and performs with it, or later, as the next choice says. -/
def State.resolveOp (s : State) (o : MemOp) (f : Nat × Nat) (fwd : Bool) : State :=
  match s.faceNow o.piece f with
  | .held => s
  | .bad c l => s.answerBad o c l
  | .ok a pair =>
    let o := { o with turned := none, addr := a, remote := pair }
    let s := { s with ops := s.ops.map fun (w : MemOp) => if w.id = o.id then o else w }
    let (c, s) := s.choose
    if c = 0 then s.performOp o fwd else s

/-- Data of an earlier S load or atomic arrives (R95, R164, R167); `fwd` says that a load reads an earlier write of its
own agent that has performed nowhere (R102). The request of a remote one leaves the package. -/
def execLoadDataReturn (p id : Nat) (fwd : Bool) (s : State) : Host.Outcome State Fault Refusal :=
  match s.opOf id with
  | none => .next s
  | some o =>
    if o.piece != p || o.level = 5 || !s.depsMet o.deps then .next s
    else match o.turned with
      | some f => .next (s.resolveOp o f fwd)
      | none => .next (s.performOp o fwd)

/-! ## Queue loads -/

/-- Reads local lanes in order, those in the units `us` (R96, R177, R359): the lanes, whether a line was poisoned, and the lane whose
line fails its tag, before which it ends. -/
def State.readLanes (s : State) (q : QLoad) (fwd : Bool) (us : List Nat) : List QLane → List QLane × Bool × Option (W64 × Nat)
  | [] => ([], false, none)
  | l :: ls =>
    if l.got.isSome || l.op.isSome || l.turned.isSome || !us.contains (l.va.toNat / 4) then
      let r := s.readLanes q fwd us ls
      (l :: r.1, r.2)
    else
      let r := s.view q.agent l.vault l.addr (elemBytes q.fmt) fwd q.id
      match r.integ with
      | some x => (l :: ls, false, some (l.va, x))
      | none =>
        let t := s.readLanes q fwd us ls
        ({ l with got := some r.data } :: t.1, r.pois || t.2.1, t.2.2)

/-- A lane that will have no data: the trap is raised at S, once for the load (R365, log 17, DEDUCED). -/
def State.failLane (s : State) (p : Nat) (q : QLoad) (l : QLane) (code : Nat) (loc : W64) : QLane × Bool × State :=
  ({ l with got := some (List.replicate (elemBytes q.fmt) 0), turned := none }, true,
   if q.pois then s else s.modPieceAt p (·.raise { code := code, unit := 0, async := true, val := l.va, loc := loc }))

/-- A lane of a turned page resolves SEL (R112): it is local from then on, or its remote read is sent. -/
def State.resolveLane (s : State) (p : Nat) (q : QLoad) (l : QLane) : QLane × Bool × State :=
  match l.turned with
  | none => (l, false, s)
  | some f =>
    match s.faceNow p f with
    | .held => (l, false, s)
    | .bad c loc => s.failLane p q l c loc
    | .ok a none => ({ l with turned := none, vault := false, addr := a }, false, s)
    | .ok a (some n) =>
      let o := { blankOp p q.agent .read false a l.va (elemBytes q.fmt) with remote := some n, key := l.key, scope := q.scope, deps := q.deps }
      ({ l with turned := none, addr := 0, op := some s.opCount }, false, s.addOp o)

/-- A lane takes the answer of its remote read. A read that was refused while S waits for it is left to S (R365). -/
def State.answerLane (s : State) (p : Nat) (q : QLoad) (l : QLane) : QLane × Bool × State :=
  match (if l.got.isSome then none else l.op.bind s.opOf) with
  | none => (l, false, s)
  | some o =>
    if o.level != 5 then (l, false, s)
    else match o.fail with
      | some (c, loc) => if (s.pieceOf p).await == .qload q.id then (l, false, s) else s.failLane p q l c loc
      | none => ({ l with got := some ((o.data.drop l.addr).take (elemBytes q.fmt)) }, false, s)

/-- One such change for every lane of a queue load, in order. -/
def overLanes (f : State → QLoad → QLane → QLane × Bool × State) (q : QLoad) : List QLane → State → QLoad × State
  | [], s => ({ q with lanes := [] }, s)
  | l :: ls, s =>
    let r := f s q l
    let t := overLanes f { q with pois := q.pois || r.2.1 } ls r.2.2
    ({ t.1 with lanes := r.1 :: t.1.lanes }, t.2)

/-- Puts a queue load back. -/
def State.setQload (s : State) (p : Nat) (q : QLoad) : State :=
  s.modPieceAt p fun x => { x with qloads := x.qloads.map fun y => if y.id = q.id then q else y }

/-- All lanes of a queue load have their data: the reserved entry is filled (R28, R177), marked where a line was poisoned (R369). -/
def State.deliver (s : State) (p : Nat) (q : QLoad) : State :=
  let vals := q.lanes.map fun l => (l.lane, widen q.fmt (laneElem q.fmt l.hi (l.got.getD [])))
  let s := (q.lanes.filterMap (·.op)).foldl State.dropOp s
  s.modPieceAt p fun x =>
    let x := x.fillEntry q.q q.id (qloadToken vals) q.pois
    { x.count 12 (q.lanes.length * fmtBits q.fmt / 8) with qloads := x.qloads.filter fun y => y.id != q.id }

/-- A queue load goes on (R94, R96, R102, R107): its lanes resolve turned pages and take remote answers; then all its local units are
read, or one, with the thread's own writes that have performed nowhere or without them, as the next choice says. When every lane
has its data the entry is filled. A tag failure raises INTEGRITY once, and that lane and those after it are tried again when the
handler returns (R372). -/
def execQueueLoadDeliver (p id : Nat) (s : State) : Host.Outcome State Fault Refusal :=
  match (s.pieceOf p).qloads.find? fun q => q.id == id with
  | none => .next s
  | some q =>
    if q.failed || !s.depsMet q.deps then .next s
    else
      let (q, s) := overLanes (fun s q l => s.resolveLane p q l) q q.lanes s
      let (q, s) := overLanes (fun s q l => s.answerLane p q l) q q.lanes s
      let (c, s) := s.choose
      let open_ := q.lanes.filter fun l => l.got.isNone && l.op.isNone && l.turned.isNone
      let us := (open_.map fun l => l.va.toNat / 4).eraseDups
      let us := if c / 2 = 0 then us else (us[(c / 2 - 1) % us.length]?).toList
      let now := open_.filter fun l => us.contains (l.va.toNat / 4)
      let ok := now.all fun l => s.readable q.agent q.scope l.vault l.addr (elemBytes q.fmt)
      let s := if ok then now.foldl (fun s l => s.detect l.vault l.addr (elemBytes q.fmt)) s else s
      let r := s.readLanes q (c % 2 == 0) (if ok then us else []) q.lanes
      let q := { q with lanes := r.1, pois := q.pois || r.2.1 }
      let s := if ok && !now.isEmpty then s.noteSeen q.agent id else s
      match r.2.2 with
      | some (va, l) =>
        .next ((s.setQload p { q with failed := true }).modPieceAt p (·.raise
          { code := cINTEGRITY, unit := 5, async := true, val := va, loc := s.integLoc l, slot := 64 }))
      | none => .next (if q.lanes.all (·.got.isSome) then s.deliver p q else s.setQload p q)

/-! ## Scatter updates -/

/-- The new stored element of a scatter update (R84, R128): operation 0 add, 1 min, 2 max, 3 replace. -/
def scatterNew (fmt sop old : Nat) (v : Lane) : Nat × FFlags :=
  if fmtInt fmt then
    let a := laneInt (widen fmt old)
    let b := laneInt v
    match sop with
    | 0 =>
      let x := satI32 (a + b)
      let n := narrow fmt x.1
      (n.1, x.2 ||| n.2)
    | 1 => narrow fmt (intLane (if a ≤ b then a else b))
    | 2 => narrow fmt (intLane (if a ≤ b then b else a))
    | _ => narrow fmt v
  else
    match sop with
    | 0 => storageFadd fmt old v
    | 1 => narrow fmt (wifMin (widen fmt old) v)
    | 2 => narrow fmt (wifMax (widen fmt old) v)
    | _ => narrow fmt v

/-- An update is done: it leaves its bank element. -/
def State.dropScatter (s : State) (id : Nat) : State := { s with scatters := s.scatters.filter fun u => u.id != id }

/-- The places of the element that an update changes: addresses and sizes. -/
def Scatter.places (u : Scatter) : List (Nat × Nat) := if u.parts.isEmpty then [(u.addr, elemBytes u.fmt)] else u.parts

/-- Whether an earlier update of the same stream or node to the same bytes is still to be applied (R84). -/
def State.scatterBehind (s : State) (u : Scatter) : Bool :=
  (s.scatters.takeWhile fun w => w.id != u.id).any fun w =>
    w.piece == u.piece && w.slot == u.slot && w.elem == u.elem && w.vault == u.vault
      && w.places.any fun a => u.places.any fun b => overlap a.1 a.2 b.1 b.2

/-- Reads the bytes of the places in memory. -/
def State.readParts (s : State) (v : Bool) (ps : List (Nat × Nat)) : ReadRes :=
  ps.foldl (fun r p =>
    let d := s.read v p.1 p.2
    { data := r.data ++ d.data, pois := r.pois || d.pois, integ := r.integ.orElse fun _ => d.integ })
    { data := [], pois := false, integ := none }

/-- Writes bytes to the places in memory. -/
def State.writeParts (v : Bool) : List (Nat × Nat) → List Byte → State → State
  | [], _, s => s
  | p :: ps, d, s => State.writeParts v ps (d.drop p.2) ((s.write v p.1 (d.take p.2)).getD s)

/-- A bank element applies one scatter update (R84) and journals it (R214, R356) in one step. -/
def execScatterUpdate (id : Nat) (s : State) : Host.Outcome State Fault Refusal :=
  match s.scatters.find? fun u => u.id == id with
  | none => .next s
  | some u =>
    if s.scatterBehind u || u.places.any (fun p => s.contended u.vault p.1 p.2) then .next s
    else
      let full := match u.jrnl with
        | some j => s.journalFull j
        | none => false
      if full then .next (s.journalTrap u (u.slot.getD 0))
      else
        let s := u.places.foldl (fun s p => s.detect u.vault p.1 p.2) s
        let r := s.readParts u.vault u.places
        match r.integ with
        | some l => .next ((s.scatterTrap u cINTEGRITY (some (s.integLoc l))).dropScatter id)
        | none =>
          if r.pois then .next ((s.scatterTrap u cPOISON none).dropScatter id)
          else
            let v := match u.scale with
              | some c => scaleLane u.val c
              | none => (u.val, 0)
            let old := ofBytes r.data
            let new := scatterNew u.fmt u.sop (laneElem u.fmt u.nib r.data) v.1
            let b := if fmtBits u.fmt = 4 then setNibble u.nib old new.1 else new.1
            let s := State.writeParts u.vault u.places (bytesOf (elemBytes u.fmt) b) s
            let s := match u.jrnl with
              | some j => s.journalAppend j u.seq
              | none => s
            .next ((s.modPieceAt u.piece fun p => { p.flag .convert (v.2 ||| new.2) with moved := true }).dropScatter id)

/-! ## Barriers -/

/-- The bank element of a vault address: its bay and its bank under swizzle mode 0 (R71). -/
def vaultBank (v : Nat) : Nat := v / 2 ^ 26 * 16 + bits v 6 4

/-- Whether adding pending bytes would carry past 32 bits (R88). -/
def State.barCarries (s : State) (e : BarEvent) : Bool :=
  e.what == 1 && decide (2 ^ 32 ≤ s.barWord e.addr 2 + e.bytes)

/-- Whether an event is a landing whose stream's start has been applied: it never waits behind a start (R88). -/
def State.landsNow (s : State) (e : BarEvent) : Bool :=
  e.what == 2 && (match e.start with
    | some i => !s.barEvs.any (·.id == i)
    | none => false)
/-- Whether an event is a start that has waited, or stands behind one at the same barrier (R88). -/
def State.barWaits (s : State) (f : BarEvent) : Bool := f.waits && !s.landsNow f

/-- Whether an event waits in its bank element: because it is a start that would carry, behind one that waits, or behind an earlier
event of its agent in the bank (R88, R315). -/
def State.barHeld (s : State) (e : BarEvent) : Bool :=
  let before := s.barEvs.takeWhile fun f => f.id != e.id
  let mine (f : BarEvent) : Bool := f.agent == e.agent && vaultBank f.addr == vaultBank e.addr
  s.barCarries e || before.any fun f =>
    if s.landsNow e then mine f && !s.barWaits f else mine f || (f.addr == e.addr && s.barWaits f)

/-- A start that waits holds the events handed to its barrier after it: they keep their order behind it (R88). -/
def State.holdBar (s : State) (e : BarEvent) : State :=
  match s.barEvs.find? fun f => f.addr == e.addr && (f.waits || (f.id == e.id && s.barCarries e)) with
  | none => s
  | some w =>
    { s with barEvs := s.barEvs.map fun (f : BarEvent) => if f.addr = e.addr && w.id ≤ f.id then { f with waits := true } else f }

/-- Barrier wait `b` of a launch record on the barrier at `v` is met at a phase (R47). -/
def Launch.seePhase (x : Launch) (v : Nat) (phase : Word32) : Launch :=
  { x with waits := x.waits.filter fun b =>
    !(b < 4 && bits (dword x.image (11 + b)) 0 31 == v
      && decide (0 ≤ verD phase (BitVec.ofNat 32 (bits (dword x.image (11 + b)) 32 32)))) }

/-- The hub evaluates the barrier waits of launches at a phase change (R47). -/
def State.seePhase (s : State) (v : Nat) : State :=
  let ph := BitVec.ofNat 32 (s.barWord v 3)
  { s with hub := { s.hub with launches := s.hub.launches.map fun kv =>
      (kv.1, if kv.2.st = .waiting then kv.2.seePhase v ph else kv.2) } }

/-- Writes words of a barrier. -/
def State.putBar (s : State) (v i : Nat) (x : Nat) : State := s.putBytes true (v + 4 * i) (bytesOf 4 x)

/-- The completion test of a barrier (R88). -/
def State.barTest (s : State) (v : Nat) : State :=
  if s.barWord v 0 ≤ s.barWord v 1 && s.barWord v 2 == 0 then
    (((s.putBar v 1 (s.barWord v 1 - s.barWord v 0)).putBar v 3 (s.barWord v 3 + 1))).seePhase v
  else s

/-- The event's effect on the barrier (R88, R195). -/
def State.barApply (s : State) (e : BarEvent) : State :=
  match e.what with
  | 0 =>
    let ph := BitVec.ofNat 64 (s.barWord e.addr 3)
    ((s.putBar e.addr 1 (s.barWord e.addr 1 + 1)).modPieceAt e.src (·.landLoad e.id e.rd ph none)).barTest e.addr
  | 1 => (s.putBar e.addr 2 (s.barWord e.addr 2 + e.bytes)).barTest e.addr
  | 2 => (s.putBar e.addr 2 (s.barWord e.addr 2 - e.bytes)).barTest e.addr
  | _ => ((s.putBar e.addr 0 e.bytes).putBar e.addr 1 0).putBar e.addr 2 0

/-- A bank element applies a barrier event and tests for completion (R88, R110, R315). -/
def execBarrierEventApply (id : Nat) (s : State) : Host.Outcome State Fault Refusal :=
  match s.barEvs.find? fun e => e.id == id with
  | none => .next s
  | some e =>
    if !s.depsMet e.deps || s.contended true e.addr 16 then .next s
    else if s.barHeld e then .next (s.holdBar e)
    else
      let s := s.barApply e
      .next { s with barEvs := s.barEvs.filter fun f => f.id != id }

end Sys2Proof.Machine
end

