-- ==== Sys2Proof/Machine/ElemMem.lean ====
section
/-! DEFINITION. The memory nodes of an element (R270): gthr, sctr and, on a bank element's own bank, rmw. -/

namespace Sys2Proof.Machine

/-- The parameters of a memory node: c6 and c7 (R270). -/
structure NodePar where
  base   : W64
  fmt    : Nat
  swz    : Nat
  stride : Int
  ctl    : W64
/-- Reads them from a plane. -/
def nodePar (f : Plane) : NodePar :=
  let c := (f.const 7).toNat
  { base := f.const 6, fmt := bits c 0 4, swz := bits c 4 3, stride := sgn 32 (c / 2 ^ 8), ctl := f.const 7 }

/-- Checks one access a lane, in lane order (R166, R270). -/
def State.nodePlaces (n swz : Nat) (a : Acc) : List W64 → State → AgAdr
  | [], s => .ok s []
  | adr :: rest, s =>
    match s.agPlace adr n swz a with
    | .ok s ps =>
      match State.nodePlaces n swz a rest s with
      | .ok s qs => .ok s (ps ++ qs)
      | r => r
    | r => r

/-- The bytes of each place, in order, from the answers of the remote reads and the local data. -/
def weave (n : Nat) : List Place → List Byte → List Byte → List (List Byte)
  | [], _, _ => []
  | p :: ps, rem, loc =>
    if p.pair.isSome then rem.take n :: weave n ps (rem.drop n) loc else loc.take n :: weave n ps rem (loc.drop n)

/-- Reads the lanes of a gather: remote ones are sent and waited for, then the local ones are read. -/
def State.nodeRead (s : State) (e : Nat) (n : Nat) (key : Nat) (ps : List Place) : AgData :=
  let ids := (s.piece.elem e).memOps
  let far := ps.filter (·.pair.isSome)
  if !far.isEmpty && ids.isEmpty then
    let m := s.opCount
    .sent (far.foldl (fun s p => s.agSend s.engAgent key [] p) s) (tab far.length (m + ·))
  else if !s.answered ids || !s.agReadable s.engAgent ps then .sent s ids
  else match s.agAnswers ids with
    | .ok s rem =>
      let (c, s) := s.choose
      match State.agLocal s.engAgent (c == 0) (ps.filter (·.pair.isNone)) s with
      | .ok s loc => .ok s ((weave n ps rem loc).flatten)
      | r => r
    | r => r

/-- Sets the reads an element's memory node waits for. -/
def State.setNodeOps (s : State) (e : Nat) (ids : List Nat) : State :=
  s.modPiece fun p => p.setElem e { p.elem e with memOps := ids }

/-- A hem passes a memory node. -/
def hemFlight (m : Mv) (time : Nat) (t : Token) (after : Option Nat) : Flight :=
  { fam := 57, due := time + opLat 57 m.var, outs := [(38, t)], after := after }

/-- The flight of a gather: the elements, widened, in the valid lanes of the first operand. A format of 4 bits is read at
the low half of its byte (log 26, DEDUCED). -/
def gatherFlight (m : Mv) (fmt n time : Nat) (t : Token) (d : List Byte) : Flight :=
  let pos (i : Nat) : Nat := ((t.lanes.take i).filter (·.valid)).length
  let r := mapLanes t (fun _ => true) fun i => (widen fmt (laneElem fmt false ((d.drop (n * pos i)).take n)), 0)
  { fam := 57, due := time + opLat 57 m.var, outs := [(38, r.1)], fl := r.2 }

/-- Marks the unit as started in this cycle. -/
def Elem.begun (x : Elem) (fam : Nat) : Elem := { x with started := unitOf fam :: x.started }

/-- The effect of `gthr`. Format codes above 9 are refused with FORMAT, as R125 refuses them in a descriptor (log 26, DEDUCED). -/
def gatherEff (m : Mv) (s : State) (x : Elem) (pl : PleatOf) (t : Token) : OpOut × State :=
  let c := nodePar pl.plane
  let n := elemBytes c.fmt
  let e := s.focusE
  if t.kind = .hem then (.ok (x.begun 57) [hemFlight m s.time t none], s)
  else if 9 < c.fmt then (.trap cFORMAT c.ctl 57, s)
  else
    let adrs := (t.lanes.filter (·.valid)).map fun v => addrPlus c.base (c.stride * laneInt v.val)
    match State.nodePlaces n c.swz { write := false, turned := .face } adrs s with
    | .wait s => (.wait, s)
    | .bad s code adr l => (.trap code adr 57 l, s)
    | .ok s ps =>
      match s.nodeRead e n s.domain ps with
      | .sent s ids => (.wait, s.setNodeOps e ids)
      | .bad s code adr l => (.trap code adr 57 l, s.setNodeOps e [])
      | .ok s d => (.ok { x.begun 57 with memOps := [] } [gatherFlight m c.fmt n s.time t d], s)

/-- `gthr`. -/
def execGthr (g : BitVec 3) (s : BitVec 6) (l : BitVec 4) (t : BitVec 2) (st : State) : Host.Outcome State Fault Refusal :=
  let m := opMv 57 0 g s l t 0
  st.runMove m (gatherEff m)

/-- An update of a memory node, handed to a bank element. -/
def nodeScatter (s : State) (c : NodePar) (op : Nat) (v : LaneV) (p : Place) (id : Nat) : Scatter :=
  { id := id, piece := s.focusP, slot := none, elem := s.focusE, vault := p.vault, addr := p.addr, va := p.va, fmt := c.fmt
    nib := false, sop := op, val := v.val, seq := 0, jrnl := none, lining := p.lining, scale := none }
/-- Hands out the updates of the valid lanes, those of other packages to their pairs (R67). -/
def State.nodeScatters (s : State) (c : NodePar) (op : Nat) : List LaneV → List Place → State
  | v :: vs, p :: ps =>
    let t := if p.pair.isSome then s.sendUpdate p p.key [] none op s.focusE 0 v.val
      else { s with opCount := s.opCount + 1, scatters := s.scatters ++ [nodeScatter s c op v p s.opCount] }
    State.nodeScatters t c op vs ps
  | _, _ => s

/-- The effect of `sctr`. -/
def scatterEff (m : Mv) (s : State) (x : Elem) (pl : PleatOf) (t : Token) : OpOut × State :=
  let c := nodePar pl.plane
  if t.kind = .hem then (.ok (x.begun 57) [hemFlight m s.time t (some s.opCount)], s)
  else if 9 < c.fmt then (.trap cFORMAT c.ctl 57, s)
  else
    let vs := t.lanes.filter (·.valid)
    let adrs := vs.map fun v => addrPlus c.base (c.stride * v.coord.toNat)
    match State.nodePlaces (elemBytes c.fmt) c.swz { write := true, host := false, turned := .lining } adrs s with
    | .wait s => (.wait, s)
    | .bad s code adr l => (.trap code adr 57 l, s)
    | .ok s ps =>
      if s.roomFor (ps.filterMap (·.pair)) then (.ok (x.begun 57) [], s.nodeScatters c (m.imm % 4) vs ps) else (.wait, s)

/-- `sctr` of operation `o`. -/
def execSctr (g : BitVec 3) (s : BitVec 6) (l : BitVec 4) (t : BitVec 2) (o : BitVec 2) (st : State) :
    Host.Outcome State Fault Refusal :=
  let m := opMv 57 1 g s l t o.toNat
  st.runMove m (scatterEff m)

/-- The vault address of a byte offset in the bank in an element's column, under swizzle mode 0 (R71): a byte offset counts
the 64-byte units of one bank of the bay (log 27, DEDUCED). -/
def State.bankPlace (s : State) (e off : Nat) : Nat :=
  s.bayKey * 2 ^ 26 + off / 64 * 1024 + (s.piece.blk.x0 + e % 16) % 16 * 64 + off % 64
/-- The lanes of `rmw`: a bank offset at the trigger and a value at `mem.b`. -/
def rmwLanes (t b : Token) : List (Nat × LaneV) :=
  ((List.range 16).filter fun i => (t.lane i).valid && (b.lane i).valid).map fun i => (laneWord (t.lane i).val, b.lane i)
/-- The effect of `rmw`. An offset above the 4 MiB of a bank raises VAULT_BOUND (log 27, DEDUCED). -/
def rmwEff (m : Mv) (s : State) (x : Elem) (pl : PleatOf) (t : Token) : OpOut × State :=
  let c := nodePar pl.plane
  let b := ((x.port 37).tok).getD {}
  let x' := (x.takePort 37 s.time).begun 57
  match hemClash t [b] with
  | some b => (.trap cFORMAT (kindLevel t b) 57, s)
  | none =>
    if t.kind = .hem then (.ok x' [hemFlight m s.time t (some s.opCount)], s)
    else if 9 < c.fmt then (.trap cFORMAT c.ctl 57, s)
    else
      let ls := rmwLanes t b
      match ls.find? fun l => l.1 % elemBytes c.fmt != 0 || decide (2 ^ 22 < l.1 + elemBytes c.fmt) with
      | some l =>
        (.trap (if l.1 % elemBytes c.fmt = 0 then cVAULT_BOUND else cMISALIGN) (BitVec.ofNat 64 l.1) 57, s)
      | none =>
        let ps := ls.map fun l =>
          ({ vault := true, addr := s.bankPlace s.focusE l.1, n := elemBytes c.fmt, va := apertureOf (s.bankPlace s.focusE l.1)
             key := 0, pair := none, lining := none } : Place)
        (.ok x' [], s.nodeScatters c (m.imm % 4) (ls.map (·.2)) ps)

/-- `rmw` of operation `o`. -/
def execRmw (g : BitVec 3) (s : BitVec 6) (l : BitVec 4) (t : BitVec 2) (o : BitVec 2) (st : State) :
    Host.Outcome State Fault Refusal :=
  let m := opMv 57 2 g s l t o.toNat
  st.runMove m (rmwEff m)

end Sys2Proof.Machine
end

