-- ==== Sys2Proof/Machine/FabEvents.lean ====
section
/-! DEFINITION. The steps of the fabric by itself: results of operations (R257, R333), link hops and bypasses (R239, R240,
R332, R382), pleat traffic (R256), edge ports (R237, R248, R252, R253, R272), the turn (R249, R250, R251), ksets (R252),
gating (R274, R380, R381) and control tokens (R192, R243). -/

namespace Sys2Proof.Machine

/-- Runs a step of a unit of piece `p`, if there is such a piece and its task is not being aborted (R355). -/
def State.onPiece (s : State) (p : Nat) (f : State → State) : Host.Outcome State Fault Refusal :=
  let t := s.at p
  if t.piece.live && t.piece.abort.isNone then .next ((f t).at s.focusP) else .next s

/-- Changes an element of the acting piece. -/
def State.modElem (s : State) (e : Nat) (f : Elem → Elem) : State := s.modPiece fun p => p.setElem e (f (p.elem e))
/-- An edge port is held by its element: one that is gated or waking holds nothing up for the watchdog (R274, R380). -/
def State.holdsAwake (s : State) (e : Nat) : State := if (s.piece.elem e).gate = 0 then s.holds e else s

/-! ## Results (R257, R333) -/

/-- The slot of the first trigger move of a family member in a plane. -/
def Plane.slotOf (f : Plane) (fam var : Nat) : Option Nat :=
  (f.slots.find? fun kv => mvDst kv.2.toNat == fam && mvVar kv.2.toNat == var).map (·.1)

/-- Takes the right stream of merge2 or union, where the face holds one that can take (R264). -/
def State.takeRight (s : State) (e : Nat) : State :=
  let p := s.piece
  let x := p.elem e
  let f := p.face e
  let room (var : Nat) : Bool := decide ((x.flight.filter fun f => unitOf f.fam == 55).length < opLat 55 var)
  if !p.acts e s.time then s
  else match f.slotOf 55 3, f.slotOf 55 4 with
    | some i, u =>
      if x.part.mg.canTake true && room 3 then s.mergeRight e i .merge
      else match u with
        | some j => if x.part.un.canTake true && room 4 then s.mergeRight e j .union else s
        | none => s
    | none, some j => if x.part.un.canTake true && room 4 then s.mergeRight e j .union else s
    | none, none => s

/-- Writes results to their ports: code 18 is a0 (R267), 22 the exchange of the tiles (R269). -/
def putResults (time : Nat) : List (Nat × Token) → Elem → Elem
  | [], x => x
  | (c, t) :: rest, x =>
    putResults time rest
      (if c = 22 then { x with st0 := x.st1, st1 := x.st0, stPar := !x.stPar, row0 := 0, row1 := 0 }
       else x.setPort c { tok := some t, avail := time })
/-- Whether the ports of a result are free; a0 is always. -/
def Elem.outsOpen (x : Elem) (outs : List (Nat × Token)) (time : Nat) : Bool :=
  outs.all fun o => o.1 == 18 || o.1 == 22 || (x.port o.1).open time
/-- Whether the scatter updates of an element numbered below a bound have been applied. -/
def State.updatesDone (s : State) (e : Nat) (bound : Option Nat) : Bool :=
  match bound with
  | none => true
  | some n => !(s.updates s.focusP none).any fun w => w.2.1 == e && decide (w.1 < n)

/-- Delivers the first result of a unit whose time has come. -/
def State.opResult (s : State) (e u : Nat) : State :=
  let x := s.piece.elem e
  match firstIdx (fun f => unitOf f.fam == u) x.flight with
  | none => s
  | some i =>
    match x.flight[i]? with
    | none => s
    | some f =>
      if s.time < f.due || !s.updatesDone e f.after then s
      else if x.outsOpen f.outs s.time then
        let y := putResults s.time f.outs { x with flight := dropAt x.flight i, idle := s.time }
        s.modPiece fun p => Piece.flag (p.setElem e y) .fabric f.fl
      else s.holds e

/-- An operation delivers its result (R257, R333); the exchange unit takes what merge2 and union read at `xu.b`, and is held while one
of their inputs is missing (R273). -/
def execOperationResult (p e u : Nat) (s : State) : Host.Outcome State Fault Refusal :=
  s.onPiece p fun s =>
    let s := if u = 55 then s.takeRight e else s
    let part := (s.piece.elem e).part
    let s := if u = 55 && (part.mg.short || part.un.short) then s.holds e else s
    s.opResult e u

/-! ## Links (R239, R240, R332, R382) -/

/-- A token leaves a register at the start of a cycle: it is empty at once. -/
def Elem.dropPort (x : Elem) (c : Nat) : Elem := x.setPort c {}

/-- The token on output `d` of element `e` crosses to its neighbour. A token whose parity fails is sent again, and when it
fails again POISON is raised at the receiver (R382). -/
def State.hop (s : State) (e d n : Nat) : State :=
  let p := s.piece
  let x := p.elem e
  let r := x.port (4 + d)
  let side := facing d
  match r.ready s.time with
  | none => s
  | some t =>
    if (p.elem n).gate != 0 then s
    else if r.syn != 0 then
      if !r.resent then
        let s := s.modElem e fun x => x.setPort (4 + d) { r with resent := true, avail := s.time + 1 }
        s.elemErr n 1 0 side 0
      else if (p.elem n).stopped then s.holds e
      else (s.elemTrap n cPOISON (BitVec.ofNat 64 r.syn.toNat) side 0).elemErr n 2 1 side r.syn.toNat
    else if p.canEnter n side s.time then
      s.modPiece fun p => (p.setElem e (x.dropPort (4 + d))).enterTok n side t s.time s.time
    else s.holds e

/-! ## Pleats (R256) -/

/-- The elements of a pleat. -/
def PleatOf.members (pl : PleatOf) (side : Nat) : List Nat :=
  tab pl.count fun i => let k := rowMajor side pl.origin + i; elemIdx (k % side) (k / side)
/-- Whether a member's dealt input is empty. -/
def Elem.dealRoom (x : Elem) (d : Nat) : Bool := (x.buf (4 + d)).isEmpty
/-- A hem has been broadcast in a pleat after `n` dealt tokens. Counts that every output has passed are dropped. -/
def Elem.hemAfter (x : Elem) (outs : List Nat) (n : Nat) : List Nat :=
  let least := outs.foldl (fun a d => Nat.min a (SMap.get 0 x.collect d)) n
  let past := (x.hemAt.filter (· ≤ least)).take 1
  if x.hemAt.contains n then x.hemAt else n :: (x.hemAt.filter (least < ·) ++ past)
/-- The collect count of an output since the last hem on an input that it has come to (R256): each dealt token gives one token
at each output, so a hem on an input stands for an output behind as many tokens as were dealt before it (log 65, DEDUCED). -/
def Elem.collectCount (x : Elem) (d : Nat) : Nat :=
  let n := SMap.get 0 x.collect d
  n - (x.hemAt.filter (· ≤ n)).foldl Nat.max 0
/-- Deals the head token of input `d` of a pleat to the member whose turn it is; a hem goes to every member. -/
def Piece.dealOne (p : Piece) (pl : PleatOf) (d time : Nat) : Piece :=
  let o := p.elem pl.origin
  let ms := pl.members p.blk.side
  let cnt := SMap.get 0 o.deal d
  match o.buf d with
  | [] => p
  | b :: rest =>
    let give (p : Piece) (m : Nat) : Piece := p.setElem m ((p.elem m).setBuf (4 + d) [{ tok := b.tok, avail := time }])
    if time < b.avail || b.tok.kind = .turn || b.tok.kind = .kset then p
    else if b.tok.kind = .hem then
      if ms.all fun m => (p.elem m).dealRoom d then
        ms.foldl give (p.setElem pl.origin { o.setBuf d rest with
          deal := SMap.set 0 o.deal d 0, hemAt := o.hemAfter ((List.range 4).filter pl.plane.outBound) (SMap.get 0 o.dealt d) })
      else p
    else
      let m := nth 0 ms (cnt % pl.count)
      if (p.elem m).dealRoom d then
        give (p.setElem pl.origin { o.setBuf d rest with
          deal := SMap.set 0 o.deal d (cnt + 1), dealt := SMap.set 0 o.dealt d (SMap.get 0 o.dealt d + 1) }) m
      else p
/-- Collects the next token of output `d` of a pleat from the member whose turn it is; one hem once every member has one. -/
def Piece.collectOne (p : Piece) (pl : PleatOf) (d time : Nat) : Piece :=
  let o := p.elem pl.origin
  let ms := pl.members p.blk.side
  let cnt := o.collectCount d
  let at_ (m : Nat) : Option Token := ((p.elem m).port (64 + d)).ready time
  let isHem (t : Option Token) : Bool := (t.map fun t => t.kind == .hem).getD false
  let clear (p : Piece) (m : Nat) : Piece := p.setElem m ((p.elem m).dropPort (64 + d))
  let put (p : Piece) (t : Token) (n : Nat) : Piece :=
    let x := p.elem pl.origin
    p.setElem pl.origin { x.setPort (4 + d) { tok := some t, avail := time } with
      collect := SMap.set 0 x.collect d (SMap.get 0 x.collect d + n) }
  if !(o.port (4 + d)).open time || o.fenced d time then p
  else if ms.all fun m => isHem (at_ m) then
    match at_ pl.origin with
    | some t => put (ms.foldl clear p) t 0
    | none => p
  else
    let m := nth 0 ms (cnt % pl.count)
    match at_ m with
    | some t => if t.kind = .hem then p else put (clear p m) t 1
    | none => p

/-- A token crosses a neighbour link into the receiver's buffer or through its bypass (R239, R240, R332). At the origin of a
pleat, the traffic of side `d` with the members goes on first (R256). -/
def execTokenLinkHop (p e d : Nat) (s : State) : Host.Outcome State Fault Refusal :=
  s.onPiece p fun s =>
    let pl := s.piece.pleat e false
    let s :=
      if 1 < pl.count && pl.member = 0 then
        s.modPiece fun p =>
          let p := if pl.plane.inBound d then p.dealOne pl d s.time else p
          if pl.plane.outBound d then p.collectOne pl d s.time else p
      else s
    match neighbour s.piece.blk.side e d with
    | some n => s.hop e d n
    | none => s

/-! ## Edge ports (R237, R248, R252, R253, R272) -/

/-- A trap of an edge port (R346, R409): raised once for each blocked token or pop, and the port goes on waiting. The slot
concerned is that of the move that wrote the token. -/
def State.portTrap (s : State) (port code : Nat) (val : W64) (dirCode : Nat) : State :=
  let p := s.piece
  let x := p.edge port
  let (e, _) := edgeElem p.blk.side port
  let slot := if dirCode < 4 then 0 else ((p.elem e).port dirCode).slot
  if x.trapped then s
  else s.modPiece fun p => Piece.raise (p.setEdge port { x with trapped := true })
    { code := code, unit := 4, async := true, val := val, loc := elemLoc e dirCode slot ((p.pleat e false).member != 0), elem := e }

/-- An input port inserts what the F engine has asked for: a turn, or a hem behind the tokens it has counted. -/
def State.portInsert (s : State) (port e d : Nat) : State :=
  let p := s.piece
  let x := p.edge port
  let turn : Token := { kind := .turn, lanes := noLanes }
  if x.mark = 2 then
    if p.canEnter e d s.time then
      s.modPiece fun p => (p.setEdge port { x with mark := 3 }).enterTok e d turn s.time (s.time + 1)
    else s.holdsAwake e
  else match x.hem with
    | some (l, 0) =>
      if x.mark = 3 then s
      else if p.canEnter e d s.time then
        s.modPiece fun p =>
          (p.setEdge port { x with hem := none, lastHem0 := l == 0, opened := l != 0, mark := if x.mark = 1 && l = 0 then 2 else x.mark }).enterTok
            e d (hemTok l) s.time (s.time + 1)
      else s.holdsAwake e
    | _ => s

/-- An input port of class 1 or 5 serves its queue. A poisoned entry stays at the head (R369). A port that finds its q empty
and has room waits on it, as R30 counts (log 38, DEDUCED). An entry that a queue load has reserved and not filled offers nothing:
the queue counts as empty for QTRAP.QE and for R30 (log 64, DESIGN CHOICE). -/
def State.portIn (s : State) (port e d : Nat) : State :=
  let p := s.piece
  let f := p.face e
  let n := f.num d
  let empty (s : State) : State :=
    let s := if f.cls d = 1 && p.inRoom e d then s.modPiece fun p => { p with f := { p.f with waitQ := true } } else s
    if f.cls d = 1 && bitAt p.sys.qtrapNow.toNat 50 then s.portTrap port cQUEUE_EMPTY (queueVal 0 n (e % 16) (e / 16)) d else s
  if !p.blk.runs s.time || (p.elem e).stopped || (p.edge port).inserts then s
  else if f.cls d = 1 then
    match p.qOf n with
    | [] => empty s
    | q :: rest =>
      if q.pois then
        let (k, s) := s.takeFresh
        s.elemTrap e cPOISON (Config.freeWord k) d 0
      else match q.tok with
        | none => empty s
        | some t =>
          if p.canEnter e d s.time then s.modPiece fun p => (p.setQ n rest).deliverEdge port t s.time else s.holdsAwake e
  else
    match s.headLink n with
    | none =>
      match s.popLink n with
      | .lost _ => s.elemTrap e cLINK_LOST (BitVec.ofNat 64 n) d 0
      | _ => s
    | some _ =>
      if !p.canEnter e d s.time then s.holdsAwake e
      else match s.popLink n with
        | .popped s t => s.modPiece fun p => p.deliverEdge port t s.time
        | _ => s

/-- A token has left at an output port. -/
def State.portSent (s : State) (port e d : Nat) (t : Token) : State :=
  s.modPiece fun p =>
    let x := p.edge port
    ((p.setElem e ((p.elem e).dropPort (4 + d))).setEdge port { x.pass t with trapped := false }).blkMoved s.time
/-- What pushing a token into the queue of an output port comes to: pushed, or held. -/
def State.portPush (s : State) (port e d : Nat) (t : Token) (sent : State → State) : State :=
  let p := s.piece
  let f := p.face e
  let n := f.num d
  match f.cls d with
  | 2 =>
    if p.yFull n then
      if bitAt p.sys.qtrapNow.toNat 51 then (s.portTrap port cQUEUE_FULL (queueVal 1 n (e % 16) (e / 16)) (4 + d)).holds e else s.holds e
    else sent (s.modPiece fun p => p.pushY n t)
  | 3 =>
    if t.kind = .hem || !(t.lane 0).valid then sent s
    else if 4 ≤ p.bq.length then
      if bitAt p.sys.qtrapNow.toNat 48 then (s.portTrap port cBQ_FULL (queueVal 2 0 (e % 16) (e / 16)) (4 + d)).holds e else s.holds e
    else sent (s.modPiece fun p => p.pushBq (laneReg (t.lane 0).val))
  | 6 =>
    match s.pushLink n t with
    | .pushed s => sent s
    | .lost _ => if (p.elem e).stopped then s.holds e else s.elemTrap e cLINK_LOST (BitVec.ofNat 64 n) (4 + d) 0
    | _ => s.holds e
  | _ => sent s
/-- An output port takes the token on its register; turn and kset tokens are absorbed, hems too at bq and matrix ports
(R234). A hem that `f.hem` asked for goes behind the tokens it counted (R253). -/
def State.portOut (s : State) (port e d : Nat) : State :=
  let p := s.piece
  let cls := (p.face e).cls d
  match (p.edge port).hem with
  | some (l, 0) =>
    let done (s : State) : State := s.modPiece fun p => p.setEdge port { p.edge port with hem := none, trapped := false }
    if cls = 4 then done s else s.portPush port e d (hemTok l) done
  | _ =>
    match ((p.elem e).port (4 + d)).ready s.time with
    | none => s
    | some t =>
      if t.kind = .turn || t.kind = .kset then s.portSent port e d t
      else if cls = 4 then (if t.kind = .hem then s.portSent port e d t else s)
      else if cls = 2 || cls = 3 || cls = 6 then s.portPush port e d t fun s => s.portSent port e d t
      else s

/-- The turn token at an edge output goes into the queue the old face bound, or is absorbed; the sink is reached (R234, R249,
R250). -/
def State.portTurn (s : State) (port e d bind : Nat) : State :=
  let p := s.piece
  match ((p.elem e).port (4 + d)).ready s.time with
  | none => s
  | some t =>
    let n := (bind - 1) % 256
    if (bind - 1) / 256 = 2 && p.yFull n then s.holds e
    else s.modPiece fun p =>
      let p := if (bind - 1) / 256 = 2 then p.pushY n t else p
      let p := { p with blk := { p.blk with turnBind := p.blk.turnBind.erase port } }
      Piece.blkMoved (p.setElem e ((p.elem e).dropPort (4 + d)) |>.reach port true) s.time

/-- An edge port moves a token between a queue and its element (R237, R272). -/
def execEdgePortTransfer (p port : Nat) (s : State) : Host.Outcome State Fault Refusal :=
  s.onPiece p fun s =>
    let (e, d) := edgeElem s.piece.blk.side port
    let bind := SMap.get 0 s.piece.blk.turnBind port
    let s := if bind = 0 then s else s.portTurn port e d bind
    let f := s.piece.face e
    let c := f.cls d
    if SMap.get 0 s.piece.blk.turnBind port != 0 then s
    else if c = 1 || c = 5 then
      let s := s.portInsert port e d
      if 2 ≤ (s.piece.edge port).mark then s else s.portIn port e d
    else if c = 4 then
      let s := if f.inBound d then s.portInsert port e d else s
      if f.outBound d && !(f.inBound d && (s.piece.edge port).hem.isSome) then s.portOut port e d else s
    else if c != 0 then s.portOut port e d
    else s

/-! ## The turn (R249 to R251, R378, R379) -/

/-- The sides of an element for which a test holds. -/
def sides (f : Nat → Bool) : List Nat := (List.range 4).filter f
/-- Whether a turn token stands at the head of a bound input, or has passed its bypass. -/
def Piece.turnHead (p : Piece) (e d time : Nat) : Bool :=
  let x := p.elem e
  if (p.face e).exit d != 0 then SMap.get false x.byturn d
  else match x.buf d with
    | b :: _ => b.tok.kind == .turn && decide (b.avail ≤ time)
    | [] => false
/-- Whether a bound input holds a turn token, or its bypass has passed one. -/
def Piece.hasTurn (p : Piece) (e d : Nat) : Bool :=
  let x := p.elem e
  if (p.face e).exit d != 0 then SMap.get false x.byturn d else (x.buf d).any fun b => b.tok.kind == .turn
/-- The result registers. -/
def resultPorts : List Nat := [26, 29, 30, 32, 35, 36, 38, 40, 41]
/-- Number of lanes that a merge holds. -/
def MergeSt.held (m : MergeSt) : Nat :=
  m.left.length + m.right.length + m.outA.length + (if m.hemL.isSome then 1 else 0) + (if m.hemR.isSome then 1 else 0)
/-- Partial state of an element's units, by the trigger port of the unit (R251): the first that holds some. -/
def Partial.held (p : Partial) : Option (Nat × Nat) :=
  let xu := p.packLanes.length + p.reord.length + p.mg.held + p.un.held
  let red := (if p.accOpen then 16 else 0) + (if p.accmOpen then 16 else 0) + (if p.scanOpen then 1 else 0)
  let xu1 := p.topk.length + p.spa.length
  let xuOpen := p.topOpen || p.spaOpen
  if red != 0 then some (54, red) else if xu != 0 then some (55, xu) else if xuOpen then some (56, xu1)
  else if p.isc.held != 0 then some (portIsect, p.isc.held) else none
/-- Whether every operation and memory operation of an element is done. -/
def State.elemQuiet (s : State) (e : Nat) : Bool :=
  let x := s.piece.elem e
  x.flight.isEmpty && (resultPorts.all fun c => (x.port c).tok.isNone) && x.memOps.isEmpty && s.updatesDone e (some s.opCount)
/-- Tokens that no move can take: those in unbound inputs, with what waits in the link register before them (R251, R378). -/
def Piece.strays (p : Piece) (e d : Nat) : Nat :=
  let x := p.elem e
  let here := (x.buf d).length + (if (SMap.get none x.stray d).isSome then 1 else 0)
  let link := match neighbour p.blk.side e d with
    | some n => if ((p.elem n).port (4 + facing d)).tok.isSome then 1 else 0
    | none => 0
  if (p.face e).inBound d || here = 0 then 0 else here + link

/-- Whether an element, or a pleat at its origin, turns in this cycle (R249). -/
def State.turns (s : State) (e : Nat) (ms : List Nat) : Bool :=
  let p := s.piece
  let f := p.face e
  let x := p.elem e
  x.gate == 0 && !x.stopped && decide (x.faceAt ≤ s.time)
    && (!(sides f.inBound).isEmpty || (x.turnDue && decide (p.blk.turnAt < s.time)))
    && (sides f.inBound).all (fun d => p.turnHead e d s.time)
    && (List.range 4).all (fun d => p.strays e d == 0)
    && (ms.all fun m => s.elemQuiet m && (p.elem m).part.held.isNone
        && (List.range 4).all fun d => ms.length = 1 || ((p.elem m).dealRoom d && ((p.elem m).port (64 + d)).tok.isNone))
    && (sides f.moveWrites).all (fun d => ((x.port (4 + d)).tok.isNone)
        && ((edgeOf p.blk.side e d).map p.turnRoom).getD true)

/-- One element changes its face (R249). -/
def Elem.turnFace (x : Elem) (time : Nat) : Elem :=
  { x with
    face := x.lining, lining := x.face, faceAt := time + 1, faceNew := true, tagCtr := 0, turnDue := false, byturn := [], idle := time
    status := x.status ||| BitVec.ofNat 64 (2 ^ 52) }
/-- The fences of the neighbours that face an element open in the cycle in which its new face is in force. -/
def Piece.unfence (p : Piece) (e time : Nat) : Piece :=
  let open_ (x : Elem) (d : Nat) : Elem := if x.fenced d time then { x with fence := SMap.set 0 x.fence d (time + 1) } else x
  (List.range 4).foldl (fun p d =>
    match neighbour p.blk.side e d with
    | some n => p.setElem n (open_ (p.elem n) (facing d))
    | none => p) p
/-- A turn token is placed on an output, offered from the cycle after the new face is in force, with the fence set; at an edge
output, offered to the port in the cycle in which the new face is in force. -/
def Piece.sendTurn (p : Piece) (e d time : Nat) : Piece :=
  match edgeOf p.blk.side e d with
  | some port => p.turnOut port (time + 1)
  | none =>
    let x := p.elem e
    p.setElem e { x.setPort (4 + d) { tok := some { kind := .turn, lanes := noLanes }, avail := time + 2 } with
      fence := x.fence.insert d fenceShut }
/-- The edge ports of an element go on with the binding of its new face. -/
def Piece.freePorts (p : Piece) (e : Nat) : Piece :=
  (List.range 4).foldl (fun p d =>
    match edgeOf p.blk.side e d with
    | some port => if (p.edge port).mark = 3 then p.setEdge port { p.edge port with mark := 0, lastHem0 := false } else p
    | none => p) p
/-- The turn of an element or pleat (R249, R250). -/
def Piece.turn (p : Piece) (e : Nat) (ms : List Nat) (time : Nat) : Piece :=
  let f := p.face e
  let drop (x : Elem) (d : Nat) : Elem := if f.exit d = 0 then x.setBuf d ((x.buf d).drop 1) else x
  let p := p.setElem e ((sides f.inBound).foldl drop (p.elem e))
  let p := (sides f.moveWrites).foldl (fun p d => p.sendTurn e d time) p
  let p := if (sides f.outBound).isEmpty then p.reach e false else p
  let p := ms.foldl (fun p m => p.setElem m ((p.elem m).turnFace time)) p
  let p := ms.foldl (fun p m => (p.unfence m time).freePorts m) p
  p.blkMoved time

/-- A lining word that fails its parity check as the turn reads it (R383). -/
def State.liningBad (s : State) (e : Nat) : Option State :=
  let f := s.piece.ownPlane e true
  match f.bad with
  | [] => none
  | (k, _) :: _ =>
    let slot := if k < 32 then k else 31
    let (n, s) := s.takeFresh
    let v := if k < 32 then BitVec.ofNat 64 (f.slot k) else Config.freeWord n
    some ((s.elemTrap e cPOISON v 0 slot).elemErr e 4 1 0 (slot + 32))

/-- Whether a move of the face waits only for its output link: its token can still be taken (R251). -/
def Piece.waitsOut (p : Piece) (e time : Nat) : Bool :=
  (p.face e).slots.any fun kv =>
    let m := mvOf kv.2.toNat
    decide (4 ≤ m.dst) && decide (m.dst ≤ 7) && (p.moveState e kv.1 m time == .held)
/-- What DRAIN finds at an element: port code and count (R251). -/
def Piece.drainFound (p : Piece) (e : Nat) : Option (Nat × Nat) :=
  let x := p.elem e
  let ahead (d : Nat) : Nat :=
    (((x.buf d).takeWhile fun b => b.tok.kind != .turn).filter fun b => b.tok.kind != .kset).length
  match (sides fun d => (p.face e).inBound d && ahead d != 0).head? with
  | some d => some (d, ahead d)
  | none =>
    match (sides fun d => p.strays e d != 0).head? with
    | some d => some (d, p.strays e d)
    | none => x.part.held
/-- Whether the check of R251 is made in this cycle: the element holds turn tokens on all its bound inputs, or has none and is
still to turn in the turn in progress; no move has fired, and nothing is in flight. -/
def State.drainDue (s : State) (e : Nat) : Bool :=
  let p := s.piece
  let x := (p.elem e).inCycle s.time
  let ins := sides (p.face e).inBound
  p.blk.runs s.time && x.gate == 0 && !x.stopped && decide (x.faceAt ≤ s.time) && x.fired == 0
    && (if ins.isEmpty then x.turnDue && decide (p.blk.turnAt < s.time) else ins.all fun d => p.hasTurn e d)
    && x.flight.isEmpty && x.memOps.isEmpty && s.updatesDone e (some s.opCount) && !p.waitsOut e s.time

/-- An element with turn tokens on every bound input turns, or DRAIN is raised where a token keeps it from turning. A pleat
turns as one, at its origin (log 28, DEDUCED). -/
def execElementTurn (p e : Nat) (s : State) : Host.Outcome State Fault Refusal :=
  s.onPiece p fun s =>
    let pl := s.piece.pleat e false
    let ms := pl.members s.piece.blk.side
    if pl.member != 0 then s
    else if s.turns e ms then
      match s.liningBad e with
      | some t => t
      | none => s.modPiece fun p => p.turn e ms s.time
    else if s.drainDue e then
      match s.piece.drainFound e with
      | some (port, n) => s.elemTrap e cDRAIN (BitVec.ofNat 64 n) port 0
      | none => s
    else s

/-! ## Ksets (R252) -/

/-- The constants that a kset writes into a plane. -/
def Plane.kset (f : Plane) (t : Token) : Plane :=
  { f with consts := (List.range 8).foldl (fun m i =>
      if (t.lane i).valid then SMap.set 0 m i (BitVec.ofNat 64 (t.lane i).val.toNat) else m) f.consts }
/-- Whether a kset names an element. -/
def ksetFor (t : Token) (e : Nat) : Bool :=
  let l := t.lane 8
  !l.valid || (bits l.val.toNat 0 4 == e % 16 && bits l.val.toNat 4 4 == e / 16)
/-- A kset is applied in every member of a pleat (R252): in the face they run, which is the origin's, and in the plane that each
of them runs in the lining. -/
def Piece.ksetAll (p : Piece) (e : Nat) (ms : List Nat) (t : Token) : Piece :=
  let p := p.setElem e { p.elem e with face := (p.elem e).face.kset t }
  let os := if ms.length = 1 then ms else (ms.map fun m => (p.pleat m true).origin).eraseDups
  os.foldl (fun p o => p.setElem o { p.elem o with lining := (p.elem o).lining.kset t }) p
/-- An element handles the kset at the head of an input: it writes its constants and sends the token on, or discards one
that it has handled before. -/
def State.kset (s : State) (e d : Nat) : State :=
  let p := s.piece
  let x := p.elem e
  let f := p.face e
  let outs := sides f.moveWrites
  let ms := (p.pleat e false).members p.blk.side
  match x.buf d with
  | [] => s
  | b :: rest =>
    if b.tok.kind != .kset || s.time < b.avail || f.exit d != 0 then s
    else
      let x' := (x.inCycle s.time).setBuf d rest
      let x' := { x' with usedSrc := d :: x'.usedSrc }
      if x.ksets.contains b.tok.tag then s.modPiece fun p => (p.setElem e x').blkMoved s.time
      else if !(outs.all fun o => (x.port (4 + o)).open s.time && !x.fenced o s.time)
          || !(ms.all fun m => ms.length = 1 || (p.elem m).dealRoom d) then s.holds e
      else
        let x' := { x' with ksets := x'.ksets ++ [b.tok.tag] }
        let x' := outs.foldl (fun x o => x.putPort (4 + o) b.tok (s.time + 1)) x'
        s.modPiece fun p =>
          let p := p.setElem e x'
          (if ms.any (ksetFor b.tok) then p.ksetAll e ms b.tok else p).blkMoved s.time
/-- A kset at the head of an input is handled (R252). -/
def execKsetHandle (p e d : Nat) (s : State) : Host.Outcome State Fault Refusal :=
  s.onPiece p fun s =>
    let x := s.piece.elem e
    if x.gate != 0 || x.stopped || s.time < x.faceAt || (s.piece.pleat e false).member != 0 then s else s.kset e d

/-! ## Gating (R274) -/

/-- An element that has done nothing for 16 cycles is clock-gated. -/
def execElementClockGate (p e : Nat) (s : State) : Host.Outcome State Fault Refusal :=
  s.onPiece p fun s =>
    let x := s.piece.elem e
    if x.gate = 0 && x.flight.isEmpty && x.memOps.isEmpty && s.updatesDone e (some s.opCount) && x.idle + 16 ≤ s.time then s.modElem e fun x => { x with gate := 1 } else s
/-- After 2^16 such cycles it is power-gated, with all it holds. -/
def execElementPowerGate (p e : Nat) (s : State) : Host.Outcome State Fault Refusal :=
  s.onPiece p fun s =>
    let x := s.piece.elem e
    if x.gate = 1 && x.idle + 2 ^ 16 ≤ s.time then (s.modElem e fun x => { x with gate := 2 }).requiet else s

/-- Whether a token waits to come in at a side: on the neighbour's link register, or at an edge port. -/
def State.wantsIn (s : State) (e d : Nat) : Bool :=
  let p := s.piece
  match neighbour p.blk.side e d with
  | some n => (((p.elem n).port (4 + facing d)).ready s.time).isSome
  | none =>
    let f := p.face e
    match edgeOf p.blk.side e d with
    | none => false
    | some port =>
      let c := f.cls d
      ((p.edge port).inserts && (p.edge port).mark != 3 && (c == 1 || c == 5 || c == 4))
        || (c == 1 && p.blk.armed && (p.edge port).mark < 2 && !(p.qOf (f.num d)).isEmpty)
        || (c == 5 && p.blk.armed && (p.edge port).mark < 2 && (s.headLink (f.num d)).isSome)
        || (c == 4 && f.inBound d && (!p.mx.drains.isEmpty || p.mx.nest.isSome))
/-- Whether a gated element has something to do: a token waits toward it, or it could act if it were awake. -/
def State.wanted (s : State) (e : Nat) : Bool :=
  let awake := s.modElem e fun x => { x with gate := 0 }
  let p := awake.piece
  let pl := p.pleat e false
  (List.range 4).any (fun d => s.wantsIn e d)
    || p.blk.ctlNet.any (fun c => c.1 == e)
    || (pl.plane.slots.any fun kv => match p.moveState e kv.1 (mvOf kv.2.toNat) s.time with
        | .ready _ => true
        | _ => false)
    || (match pl.plane.isectPair with
        | some (a, b) => p.isectReady e a b s.time
        | none => false)
    || (pl.member == 0 && (awake.turns e (pl.members p.blk.side) || awake.drainDue e))
    || (List.range 4).any (fun d => match (p.elem e).buf d with
        | b :: _ => b.tok.kind == .kset || (1 < pl.count)
        | [] => false)
/-- A gated element begins to wake when something waits for it, and goes on when it has woken: 2 cycles from clock gating,
400 from power gating. The package is ACTIVE again with the first block woken (R303). -/
def execElementWake (p e : Nat) (s : State) : Host.Outcome State Fault Refusal :=
  s.onPiece p fun s =>
    let x := s.piece.elem e
    if x.gate = 3 then
      if x.wakeAt ≤ s.time then
        let s := s.modElem e fun x => { x with gate := 0, idle := s.time }
        if s.hub.power = 1 then { s with hub := { s.hub with power := 0 } } else s
      else s
    else if x.gate != 0 && s.wanted e then
      s.modElem e fun x => { x with gate := 3, wakeAt := s.time + (if x.gate = 1 then 2 else 400) }
    else s

/-! ## Control tokens (R192, R243) -/

/-- An injected control token reaches the buffer of its element port. The network keeps the order of each thread's tokens
toward a port; a gated element wakes first. -/
def execControlTokenArrive (p : Nat) (s : State) : Host.Outcome State Fault Refusal :=
  s.onPiece p fun s =>
    match firstIdx (fun (c : Nat × Nat × Token) => (s.piece.elem c.1).gate == 0) s.piece.blk.ctlNet with
    | none => s
    | some i =>
      match s.piece.blk.ctlNet[i]? with
      | none => s
      | some (e, c, t) =>
        let x := s.piece.elem e
        let x := { x with ctlb := SMap.set [] x.ctlb c (SMap.get [] x.ctlb c ++ [{ tok := t, avail := s.time }]) }
        s.modPiece fun p => { p.setElem e x with blk := { p.blk with ctlNet := dropAt p.blk.ctlNet i, elems := p.blk.elems.insert e x } }

/-- The tokens injected into a0 to a3 of an element replace what is there, after the moves of the cycle, one a cycle in each
port (R243). -/
def Elem.inject (x : Elem) (time : Nat) : Elem :=
  [18, 19, 20, 21].foldl (fun x c =>
    match SMap.get [] x.ctlb c with
    | [] => x
    | b :: rest => { x.putAcc c b.tok time with ctlb := SMap.set [] x.ctlb c rest }) x

end Sys2Proof.Machine
end

