-- ==== Sys2Proof/Machine/FWords.lean ====
section
/-! DEFINITION. Fabric images and their checks (R157, R235, R236, R238, R239, R242, R246, R247, R256) and the words of the
F engine (R245 to R256, R309). -/

namespace Sys2Proof.Machine

/-! ## Reading an image -/

/-- What reading bytes of an image comes to. -/
inductive ImgRead where
  | ok (s : State) (b : List Byte)
  | wait (s : State)
  | bad (s : State) (code : Nat) (tloc : W64)

/-- Reads `n` units of 64 bytes by relaxed reads at package scope (R107, R246). A remote image is refused (log 19, DEDUCED). -/
def State.imgBytes (ag : Agent) : Nat → W64 → State → ImgRead
  | 0, _, s => .ok s []
  | n + 1, a, s =>
    match s.agPlaces a 64 0 { write := false, turned := .face, host := true } with
    | .wait s => .wait s
    | .bad s c _ l => .bad s c (l.getD 0)
    | .ok s ps =>
      if ps.any (·.pair.isSome) then .bad s cWALL 0
      else if !s.agReadable ag ps then .wait s
      else match State.agLocal ag false ps s with
        | .ok s d =>
          match State.imgBytes ag n (a + 64) s with
          | .ok s r => .ok s (d ++ r)
          | r => r
        | .bad s c _ l => .bad s c (l.getD 0)
        | .sent s _ => .wait s

/-! ## Checks -/

/-- The edge bindings of a header, 256 * CLASS + NUM by port, or none where the header is refused (R235, R246). -/
def State.header (s : State) (side : Nat) (h : List Byte) : Option (List Nat) :=
  let w (e : Nat) : Nat := ofBytes ((h.drop (8 + 2 * e)).take 2)
  let cls (e : Nat) : Nat := bits (w e) 8 3
  let num (e : Nat) : Nat := w e % 256
  let ok (e : Nat) : Bool :=
    if 4 * side ≤ e then w e == 0
    else decide (w e < 2048) && (match cls e with
      | 1 => decide (num e < 32) && s.qfmt (num e) != 0
      | 2 => decide (num e < 16)
      | 5 => (s.linkKey (num e) false).isSome
      | 6 => (s.linkKey (num e) true).isSome
      | 7 => false
      | _ => num e == 0)
      && (cls e == 0 || cls e == 4 || (List.range e).all fun i => w i != w e)
  if ofBytes (h.take 1) = side && ofBytes ((h.drop 1).take 1) = 1 && ofBytes ((h.drop 2).take 6) = 0
      && ofBytes (h.drop 0x88) = 0 && (List.range 64).all ok then some (tab (4 * side) w)
  else none

/-- A plane record as a plane (R236), loaded from an address, with the edge bindings of its sides. -/
def planeOf (rec : List Byte) (addr : W64) (edges : SMap Nat) : Plane :=
  let at_ (o n : Nat) : Nat := ofBytes ((rec.drop o).take n)
  let fill {α : Type} [DecidableEq α] (d : α) (n : Nat) (f : Nat → α) : SMap α :=
    (List.range n).foldl (fun m i => SMap.set d m i (f i)) []
  { slots := fill 0 32 fun i => BitVec.ofNat 32 (at_ (4 * i) 4)
    consts := fill 0 8 fun i => BitVec.ofNat 64 (at_ (0x80 + 8 * i) 8)
    tagLay := BitVec.ofNat 64 (at_ 0xC0 8)
    pleat := at_ 0xC8 8
    route := fill 0 4 fun d => at_ (0xD0 + d) 1
    depth := fill 0 4 fun d => at_ (0xD4 + d) 1
    edge := edges
    addr := if rec.all (· == 0) then 0 else addr }

/-- Whether a move word is accepted (R157) in an element with a memory port or without; only a bank element has `rmw` (R270). -/
def moveWordOk (memPort bank : Bool) (w : Nat) : Bool :=
  match decodeMoveWord w with
  | .ok _ => mvDst w != portMemT || (memPort && (mvVar w != 2 || bank))
  | .error _ => false

/-- Whether a tag layout word is accepted (R244). -/
def tagLayOk (w : W64) : Bool :=
  decide (w.toNat < 2 ^ 30) && (List.range 6).all (fun k => decide (tagW w k ≤ 16))
    && decide ((List.range 6).foldl (fun n k => n + tagW w k) 0 ≤ 32)

/-- Whether the routing bytes of a plane are accepted (R239). -/
def Plane.routesOk (f : Plane) : Bool :=
  (List.range 4).all fun d =>
    let r := f.exit d
    r == 0 || (decide (r ≤ 4) && r != d + 1 && !f.moveWrites (r - 1) && !f.moveReads d && !f.isectReads d
      && (List.range d).all fun i => f.exit i != r)

/-- Whether the rest of a plane is accepted: tags, pleat descriptor, routes, depths, and the zero bytes (R236, R240, R246). -/
def Plane.restOk (f : Plane) (zeros : Bool) : Bool :=
  zeros && tagLayOk f.tagLay && decide (f.pleat ≤ 64) && f.routesOk && (List.range 4).all (fun d => decide (SMap.get 0 f.depth d ≤ 32))
    && decide ((sides f.inBound).foldl (fun n d => n + f.depthOf d) 0 ≤ 32)

/-- The slot at which a plane record is refused: that of a bad move, else 0 (R157, R246). -/
def Plane.refusedAt (f : Plane) (memPort bank zeros : Bool) : Option Nat :=
  match f.slots.find? fun kv => !moveWordOk memPort bank kv.2.toNat with
  | some kv => some kv.1
  | none =>
    match (f.slots.filter fun kv => mvDst kv.2.toNat == portIsect) with
    | _ :: kv :: _ => some kv.1
    | _ => if f.restOk zeros then none else some 0

/-- Whether every bound port of an element is fed or read (R238). -/
def linksOk (side : Nat) (pl : Nat → Plane) (e : Nat) : Bool :=
  let f := pl e
  (List.range 4).all fun d =>
    let nb := neighbour side e d
    let c := f.cls d
    (!f.inBound d || (match nb with
      | some n => (pl n).outBound (facing d)
      | none => c == 1 || c == 4 || c == 5))
    && (!f.outBound d || (match nb with
      | some n => (pl n).inBound (facing d)
      | none => c == 2 || c == 3 || c == 4 || c == 6))

/-- Whether a move is allowed in the plane of a pleat (R256). -/
def pleatMoveOk (w : Nat) : Bool :=
  let s := mvSrc w
  let d := mvDst w
  (decide (s < 4) || (decide (10 ≤ s) && decide (s ≤ 17)) || s == 26 || s == 29 || s == 30)
    && ((decide (4 ≤ d) && decide (d ≤ 7)) || d == 24 || d == 25 || d == 27 || d == 28 || (decide (48 ≤ d) && decide (d ≤ 53)))
    && (mvGuard w == 0 || mvGuard w == 3 || mvGuard w == 4) && bits w 8 2 != 2
/-- Whether a plane is an empty record. -/
def Plane.empty (f : Plane) : Bool :=
  f.slots.isEmpty && f.consts.isEmpty && f.tagLay == 0 && f.pleat == 0 && f.route.isEmpty && f.depth.isEmpty
/-- The elements of a pleat of `n` at an origin that lie in the block. -/
def pleatRange (side o n : Nat) : List Nat :=
  (tab n fun i => rowMajor side o + i).map fun k => elemIdx (k % side) (k / side)
/-- Whether the pleat at an element is accepted (R256). -/
def pleatOk (side : Nat) (pl : Nat → Plane) (o : Nat) : Bool :=
  let n := (pl o).pleat
  n ≤ 1 || (decide (rowMajor side o + n ≤ side * side)
    && ((pleatRange side o n).drop 1).all (fun m => (pl m).empty)
    && ((blockElems side).all fun q =>
      q == o || (pl q).pleat ≤ 1 || !((pleatRange side q (pl q).pleat).any fun m => (pleatRange side o n).contains m))
    && (pl o).moves.all pleatMoveOk && (pl o).route.isEmpty)
/-- Whether an element is a member of a pleat other than its origin. -/
def inPleat (side : Nat) (pl : Nat → Plane) (e : Nat) : Bool :=
  (blockElems side).any fun o => decide (1 < (pl o).pleat) && o != e && (pleatRange side o (pl o).pleat).contains e

/-! ## Loading -/

/-- What reading and checking an image comes to. -/
inductive Image where
  | ok (s : State) (planes : SMap Plane)
  | wait (s : State)
  | bad (s : State) (code : Nat) (val loc : W64)

/-- The edge bindings of an element's sides. -/
def edgesOf (side : Nat) (edges : List Nat) (e : Nat) : SMap Nat :=
  (List.range 4).foldl (fun m d =>
    match edgeOf side e d with
    | some k => SMap.set 0 m d (nth 0 edges k)
    | none => m) []

/-- Reads and checks plane records, in row-major order (R235). `yrow` is the row of the block's origin in its bay. -/
def State.imgPlanes (a : W64) (yrow side : Nat) (edges : List Nat) : List Nat → State → Image
  | [], s => .ok s []
  | e :: es, s =>
    let va := a + BitVec.ofNat 64 (0x100 + 256 * rowMajor side e)
    match State.imgBytes s.engAgent 4 va s with
    | .wait s => .wait s
    | .bad s c l => .bad s c va l
    | .ok s rec =>
      let f := planeOf rec va (edgesOf side edges e)
      match f.refusedAt ((yrow + e / 16) % 16 == 15) false ((rec.drop 0xD8).all (· == 0)) with
      | some slot => .bad s cCONFIG va (elemLoc e 0 slot false)
      | none =>
        match State.imgPlanes a yrow side edges es s with
        | .ok s m => .ok s (m.insert e f)
        | r => r

/-- Reads and checks the whole image at an address (R246). -/
def State.image (s : State) (a : W64) : Image :=
  let side := s.piece.blk.side
  match State.imgBytes s.engAgent 4 a s with
  | .wait s => .wait s
  | .bad s c l => .bad s c a l
  | .ok s h =>
    match s.header side h with
    | none => .bad s cCONFIG a 0
    | some edges =>
      match State.imgPlanes a s.piece.blk.y0 side edges (blockElems side) s with
      | .ok s m =>
        let pl (e : Nat) : Plane := SMap.get {} m e
        match (blockElems side).find? fun e =>
            !pleatOk side pl e || (!inPleat side pl e && !linksOk side pl e) with
        | some e => .bad s cCONFIG (a + BitVec.ofNat 64 (0x100 + 256 * rowMajor side e)) (elemLoc e 0 0 false)
        | none => .ok s m
      | r => r

/-- Writes one plane record of a checked image into the lining, or the face, of its element (R246). -/
def Piece.loadOne (p : Piece) (face : Bool) : Piece :=
  match p.blk.loading with
  | [] => p
  | kv :: rest =>
    let x := p.elem kv.1
    let p := p.setElem kv.1 (if face then { x with face := kv.2, faceNew := true } else { x with lining := kv.2 })
    { p with blk := { p.blk with loading := rest } }

/-- The address of the fabric image of the piece's launch (R44). -/
def State.fimg (s : State) : W64 := BitVec.ofNat 64 (s.recWord 1)

/-- R247: before F's first word of a sequence the image at FIMG is loaded into the face. A failure is raised in F before
that word, and the load is tried again. -/
def State.loadFace (s : State) : State :=
  if s.fimg = 0 || s.piece.blk.side = 0 then s.modPiece fun p => { p with faceDue := false }
  else match s.piece.blk.loading with
    | _ :: _ => s.modPiece fun p =>
      let p := p.loadOne true
      { p with faceDue := !p.blk.loading.isEmpty }
    | [] =>
      match s.image s.fimg with
      | .wait s => s
      | .ok s m => s.modPiece fun p => { p with blk := { p.blk with loading := m } }
      | .bad s c v l => s.wordTrap 3 0 c v l

/-! ## The words -/

/-- The checks of an F word before it issues (R245): ILLEGAL without a block, or where `ok` fails. -/
def fCheck (ok : Piece → Bool) (p : Piece) : Option Nat := if p.blk.side = 0 || !ok p then some cILLEGAL else none
/-- No further check. -/
def anyBlock (_ : Piece) : Bool := true
/-- Whether an edge port exists. -/
def portOk (port : BitVec 6) (p : Piece) : Bool := decide (port.toNat < 4 * p.blk.side)
/-- The class of an edge port in the face in force. -/
def Piece.portCls (p : Piece) (port : Nat) : Nat :=
  let (e, d) := edgeElem p.blk.side port
  (p.face e).cls d
/-- Whether an element exists. -/
def elemOk (x y : BitVec 4) (p : Piece) : Bool := decide (x.toNat < p.blk.side) && decide (y.toNat < p.blk.side)

/-- `f.cfgl` (R246): waits while a turn is in progress, and for what the tacks F has popped order before its reads (R104); a
refused image changes nothing. Once checked, one plane record is written a cycle. -/
def execFCfgl (t : BitVec 4) (o : BitVec 21) (s : State) : Host.Outcome State Fault Refusal :=
  s.runWord 3 (.fCfgl t o) t 0 (fCheck anyBlock) fun s =>
    if s.piece.f.counted then
      let s := s.modPiece (·.loadOne false)
      if s.piece.blk.loading.isEmpty then .done s else .hold (s.modPiece fun p => { p with moved := true })
    else if s.piece.blk.turning then .wait s
    else if !s.depsMet s.piece.f.deps then .hold s
    else match s.image (s.fimg + BitVec.ofNat 64 (64 * o.toNat)) with
      | .wait s => .hold s
      | .bad s c v l => .trap s c v l
      | .ok s m => .hold (s.modPiece fun p => { p with blk := { p.blk with loading := m }, f := { p.f with counted := true } })

/-- The input edge ports of the face (R248). -/
def Piece.turnPorts (p : Piece) : List Nat :=
  (List.range (4 * p.blk.side)).filter fun k =>
    let (e, d) := edgeElem p.blk.side k
    let c := (p.face e).cls d
    c == 1 || c == 5 || (c == 4 && (p.face e).inBound d)
/-- The sinks of a turn (R250): the edge outputs bound in the face, and the elements with no bound output. -/
def Piece.turnSinks (p : Piece) : List (Nat × Bool) :=
  let side := p.blk.side
  ((List.range (4 * side)).filter fun k =>
      let (e, d) := edgeElem side k
      (p.face e).outBound d).map (fun k => (k, true))
    ++ ((blockElems side).filter fun e =>
      (p.pleat e false).member == 0 && (sides (p.face e).outBound).isEmpty).map (fun e => (e, false))
/-- A turn begins: the ports are marked, every element is to turn, and no element has turned since. -/
def Piece.startTurn (p : Piece) (now : Bool) (time : Nat) : Piece :=
  let sinks := p.turnSinks
  let p := p.turnPorts.foldl (fun p k =>
    let x := p.edge k
    p.setEdge k { x with mark := if now || x.lastHem0 then 2 else 1 }) p
  let p := (blockElems p.blk.side).foldl (fun p e =>
    let x := p.elem e
    p.setElem e { x with turnDue := true, status := BitVec.ofNat 64 (putBits x.status.toNat 52 1 0) }) p
  { p with blk := { p.blk with sinks := sinks, turning := !sinks.isEmpty, turnAt := time } }
/-- The effect of `f.turn`: it waits for the turn in progress, begins its own, and waits until every port has inserted its
turn. -/
def fTurnEffect (now : Bool) (s : State) : Res :=
  let p := s.piece
  if !p.f.counted then
    if p.blk.turning then .wait s
    else .wait (s.modPiece fun p => { p.startTurn now s.time with f := { p.f with counted := true }, moved := true })
  else if p.turnPorts.any fun k => (p.edge k).mark == 1 || (p.edge k).mark == 2 then .wait s
  else .done s
/-- `f.turn`. -/
def execFTurn (t : BitVec 4) (s : State) : Host.Outcome State Fault Refusal :=
  s.runWord 3 (.fTurn t) t 0 (fCheck anyBlock) (fTurnEffect false)
/-- `f.turn now`. -/
def execFTurnNow (t : BitVec 4) (s : State) : Host.Outcome State Fault Refusal :=
  s.runWord 3 (.fTurnNow t) t 0 (fCheck anyBlock) (fTurnEffect true)

/-- `f.kset` (R252, R309): F goes on at once; the tack is given when the converted token has entered the block. -/
def execFKset (t : BitVec 4) (e : BitVec 6) (s : State) : Host.Outcome State Fault Refusal :=
  let ok (p : Piece) : Bool := portOk e p && (p.portCls e.toNat == 1 || p.portCls e.toNat == 5)
  s.runWord 3 (.fKset t e) (t &&& 0b1011) 0 (fCheck ok) fun s =>
    let give := if tackG t then some (tackP t, s.piece.carry 3) else none
    .done (s.modPiece fun p => p.setEdge e.toNat { p.edge e.toNat with kset := (p.edge e.toNat).kset ++ [give] })

/-- `f.hem` (R253): it retires when the hem has been inserted. -/
def execFHem (t : BitVec 4) (n : BitVec 8) (l : BitVec 3) (e : BitVec 6) (s : State) : Host.Outcome State Fault Refusal :=
  s.runWord 3 (.fHem t n l e) t 0 (fCheck fun p => p.f.counted || (portOk e p && p.portCls e.toNat != 0)) fun s =>
    let p := s.piece
    if !p.f.counted then
      .hold (s.modPiece fun p =>
        { p.setEdge e.toNat { p.edge e.toNat with hem := some (l.toNat, n.toNat) } with f := { p.f with counted := true } })
    else if (p.edge e.toNat).hem.isSome then .hold s
    else .done s

/-- `f.arm` (R247). -/
def execFArm (t : BitVec 4) (s : State) : Host.Outcome State Fault Refusal :=
  s.runWord 3 (.fArm t) t 0 (fCheck anyBlock) fun s =>
    .done (s.modPiece fun p =>
      { p with blk := { p.blk with armed := true, armAt := if p.blk.armed then p.blk.armAt else s.time + 1 } })

/-- Whether the memory nodes of the block are done. -/
def State.nodesDone (s : State) : Bool :=
  (s.piece.blk.elems.all fun kv => kv.2.memOps.isEmpty)
    && (s.updates s.focusP none).isEmpty
/-- `f.stop` (R247): it retires when no token has moved for a cycle and the memory nodes are done. -/
def execFStop (t : BitVec 4) (s : State) : Host.Outcome State Fault Refusal :=
  s.runWord 3 (.fStop t) t 0 (fCheck anyBlock) fun s =>
    let p := s.piece
    if p.blk.armed then .hold (s.setPiece { p with blk := { p.blk with armed := false, stopAt := s.time + 1, lastMove := s.time } })
    else if p.blk.lastMove + 1 < s.time && s.nodesDone then .done s
    else .hold s

/-- `f.wdr` (R250). -/
def execFWdr (t : BitVec 4) (s : State) : Host.Outcome State Fault Refusal :=
  s.runWord 3 (.fWdr t) t 0 (fCheck anyBlock) fun s => if s.piece.blk.turning then .wait s else .done s

/-- `f.sink` (R255): maps the status word of an element. -/
def execFSink (t : BitVec 4) (y x : BitVec 4) (n : BitVec 6) (s : State) : Host.Outcome State Fault Refusal :=
  s.runWord 3 (.fSink t y x n) t 0 (fCheck (elemOk x y)) fun s =>
    .done (s.modPiece fun p =>
      { p with blk := { p.blk with snk := SMap.set none p.blk.snk n.toNat (some (elemIdx x.toNat y.toNat)) } })
/-- `f.sink n, clr`: clears the status word mapped to SNKn. -/
def execFSinkClr (t : BitVec 4) (n : BitVec 6) (s : State) : Host.Outcome State Fault Refusal :=
  s.runWord 3 (.fSinkClr t n) t 0 (fCheck anyBlock) fun s =>
    match SMap.get none s.piece.blk.snk n.toNat with
    | some e => .done (s.modElem e fun x => { x with status := 0 })
    | none => .done s

/-- A tag layout word with the width of a field set. -/
def setTagW (w : W64) (f : Nat × Nat) : W64 := BitVec.ofNat 64 (putBits w.toNat (5 * f.1) 5 f.2)
/-- The layout of an element's face once the `f.tag` words under way have taken effect. -/
def Piece.layoutOf (p : Piece) (e : Nat) : W64 :=
  p.blk.tagOps.foldl (fun w op => match op.2.1 with
    | some f => setTagW w f
    | none => w) (p.elem e).face.tagLay
/-- The effect of `f.tag` (R254): it takes effect after the moves of the next cycle. -/
def tagWord (i : Instr) (set : Option (Nat × Nat)) (clr : Bool) (s : State) : Res :=
  let p := s.piece
  let past := match set with
    | some f => (blockElems p.blk.side).any fun e => !tagLayOk (setTagW (p.layoutOf e) f)
    | none => false
  if past then .trap s cCONFIG (wordOf i) 0
  else .done (s.setPiece { p with blk := { p.blk with tagOps := p.blk.tagOps ++ [(s.time + 1, set, clr)] } })
/-- The `f.tag` words whose cycle has come take effect, in order. -/
def Piece.applyTags (p : Piece) (time : Nat) : Piece :=
  let now := p.blk.tagOps.filter fun op => decide (op.1 ≤ time)
  let one (x : Elem) (op : Nat × Option (Nat × Nat) × Bool) : Elem :=
    let x := match op.2.1 with
      | some f => { x with face := { x.face with tagLay := setTagW x.face.tagLay f } }
      | none => x
    if op.2.2 then { x with tagCtr := 0 } else x
  if now.isEmpty then p
  else
    let p := (blockElems p.blk.side).foldl (fun p e => p.setElem e (now.foldl one (p.elem e))) p
    { p with blk := { p.blk with tagOps := p.blk.tagOps.filter fun op => !decide (op.1 ≤ time) } }
/-- `f.tag field, width`. -/
def execFTag (t : BitVec 4) (w : BitVec 5) (f : BitVec 3) (s : State) : Host.Outcome State Fault Refusal :=
  s.runWord 3 (.fTag t w f) t 0 (fCheck anyBlock) (tagWord (.fTag t w f) (some (f.toNat, w.toNat)) false)
/-- `f.tag clr`. -/
def execFTagClr (t : BitVec 4) (s : State) : Host.Outcome State Fault Refusal :=
  s.runWord 3 (.fTagClr t) t 0 (fCheck anyBlock) (tagWord (.fTagClr t) none true)
/-- `f.tag field, width, clr`. -/
def execFTagSetClr (t : BitVec 4) (w : BitVec 5) (f : BitVec 3) (s : State) : Host.Outcome State Fault Refusal :=
  s.runWord 3 (.fTagSetClr t w f) t 0 (fCheck anyBlock) (tagWord (.fTagSetClr t w f) (some (f.toNat, w.toNat)) true)

/-- `f.pleat` (R256): the descriptor of an element's lining, checked against the lining. -/
def execFPleat (t : BitVec 4) (p : BitVec 6) (y x : BitVec 4) (s : State) : Host.Outcome State Fault Refusal :=
  s.runWord 3 (.fPleat t p y x) t 0 (fCheck (elemOk x y)) fun s =>
    let e := elemIdx x.toNat y.toNat
    let side := s.piece.blk.side
    let q := s.piece
    let pl (k : Nat) : Plane :=
      if k = e then { (q.elem k).lining with pleat := p.toNat + 1 } else (q.elem k).lining
    if pleatOk side pl e then
      .done (s.modElem e fun el => { el with lining := { el.lining with pleat := p.toNat + 1 } })
    else .trap s cCONFIG (wordOf (.fPleat t p y x)) 0

end Sys2Proof.Machine
end

