-- ==== Sys2Proof/Machine/LinkEvents.lean ====
section
/-! DEFINITION. The steps of the link ports: flits with their acknowledgement and replay (R284, R285, R393), lanes lost
and turned round (R390 to R392), bindings (R277 to R280) and the tokens of link queues (R281 to R283, R291, R397). -/

namespace Sys2Proof.Machine

/-! ## Lanes and groups (R275, R276, R391) -/

/-- Whether a lane is in service in a group of a direction. -/
def LaneSt.servesGroup (x : LaneSt) (out : Bool) (g : Nat) : Bool :=
  x.up && !x.turning && x.out == out
    && (match x.serves with
      | some k => k == g
      | none => x.homeOut == out && x.home == g)

/-- The lanes in service in a group. -/
def State.groupLanes (s : State) (port : Nat) (out : Bool) (g : Nat) : List Nat :=
  (List.range 16).filter fun i => (s.laneOf port i).servesGroup out g

/-- The code of a group (R276, R391). -/
def State.groupCode (s : State) (port : Nat) (out : Bool) (g : Nat) : Nat :=
  let ls := s.groupLanes port out g
  match ls.length with
  | 0 => 0
  | 1 => 1
  | _ => if ls.any fun i => (s.laneOf port i).serves.isSome then 3 else 2

/-- The codes of one pair follow from the lanes in service. -/
def State.refreshPair (s : State) (n : Nat) : State :=
  s.setPair n { s.pairOf n with gout := s.groupCode (n / 4) true (n % 4), gin := s.groupCode (n / 4) false (n % 4) }
/-- The codes of the four pairs of a port. -/
def State.refreshPort (s : State) (port : Nat) : State :=
  (List.range 4).foldl (fun s g => s.refreshPair (4 * port + g)) s

/-- GOUT and GIN of a port, for an error record. -/
def State.portCodes (s : State) (port : Nat) : Nat := bits (s.lnkstat port) 32 16

/-- A link record of one lane or pair (R398). -/
def State.linkErr (s : State) (port lane code detail : Nat) : State :=
  s.err { cls := 0, src := 5, code := code, loc := errLoc 0 0 port lane, detail := detail }

/-- Whether a pair is bound by no launch at either end of the cable, as far as this hub knows (R391). -/
def Pair.idle (p : Pair) : Bool := p.launch.isNone && !p.server && p.early.isNone && !p.bound

/-- Whether a lane may be lent to a group of the other direction: in service in its own group, whose pair is idle. -/
def State.mayLend (s : State) (port i : Nat) (out : Bool) : Bool :=
  let x := s.laneOf port i
  x.up && !x.turning && x.serves.isNone && x.homeOut != out && x.out != out
    && (s.pairOf (4 * port + x.home)).idle

/-- The lane a group would borrow: the highest-numbered one that qualifies. -/
def State.lender (s : State) (port : Nat) (out : Bool) : Option Nat :=
  ((List.range 16).filter fun i => s.mayLend port i out).getLast?

/-- Whether a lane of the port is being turned round: one at a time (R392). -/
def State.portTurning (s : State) (port : Nat) : Bool := (List.range 16).any fun i => (s.laneOf port i).turning

/-- Both hubs begin to turn lane `i` round, for a group of direction `out`. -/
def State.startTurn (s : State) (port i : Nat) (out : Bool) (serves : Option Nat) : State :=
  (s.setLane port i { s.laneOf port i with out := out, serves := serves, turning := true, unlock := none }).refreshPort port

/-- Whether a lane is turning for a group. -/
def State.turningFor (s : State) (port : Nat) (out : Bool) (g : Nat) : Bool :=
  (List.range 16).any fun i =>
    let x := s.laneOf port i
    x.turning && x.out == out && x.serves == some g

/-- A group of a bound pair that has no lane left borrows one, or is lost; one at half rate borrows a second (R391,
R392). `failed` says that its last lane failed a turnaround (R398). -/
def State.mendGroup (s : State) (port : Nat) (out : Bool) (g : Nat) (failed : Bool) : State :=
  let n := 4 * port + g
  let p := s.pairOf n
  let code := if out then p.gout else p.gin
  if !(p.bound || p.server) || s.turningFor port out g then s
  else if code = 0 then
    match (if s.portTurning port then none else s.lender port out) with
    | some i => if failed then s.losePair n 4 (2 ^ 15) else s.startTurn port i out (some g)
    | none => if s.portTurning port && !failed then s else s.losePair n 4 (if failed then 2 ^ 15 else 0)
  else if code = 1 && !s.portTurning port then
    match s.lender port out with
    | some i => s.startTurn port i out (some g)
    | none => s
  else s

/-- Every group of a port is looked at: those without a lane first. -/
def State.mendPort (s : State) (port : Nat) : State :=
  let empty (s : State) (out : Bool) (g : Nat) : Bool :=
    let p := s.pairOf (4 * port + g)
    (if out then p.gout else p.gin) = 0
  let one (first : Bool) (s : State) (k : Nat) : State :=
    let out := decide (k < 4)
    if empty s out (k % 4) = first then s.mendGroup port out (k % 4) false else s
  (List.range 8).foldl (one false) ((List.range 8).foldl (one true) s)

/-- A borrowed lane goes back to its own group once the borrowing pair is released (R392). -/
def State.giveBack (s : State) (port : Nat) : State :=
  if s.portTurning port then s
  else
    match (List.range 16).find? fun i =>
        let x := s.laneOf port i
        (match x.serves with
          | some g => x.up && (s.pairOf (4 * port + g)).idle
          | none => false) with
    | some i => s.startTurn port i (s.laneOf port i).homeOut none
    | none => s

/-- A lane leaves service (R390): the group's code follows, a record is written and the part is degraded (R304). -/
def State.takeLane (s : State) (port i : Nat) : State :=
  let s := (s.setLane port i { s.laneOf port i with up := false, turning := false, unlock := none }).refreshPort port
  let s := s.linkErr port i 1 (s.portCodes port)
  if s.hub.svc.toNat % 4 = 2 then s.setLevel 3 else s

/-! ## Replay (R285, R393) -/

/-- Sends the held flits of a group again, oldest first. -/
def State.resendAll (n : Nat) : List Flit → State → State
  | [], s => s
  | f :: fs, s => State.resendAll n fs (s.putFlit n f.payload f.seq f.cred)

/-- A group that sends puts its held flits on the lanes again; a flit already sent 16 times exhausts its replay: the group
retrains, or is lost where that flit has been through a retraining (R393). -/
def State.replay (s : State) (n : Nat) : State :=
  let p := s.pairOf n
  if !p.sends || p.replay.isEmpty then s
  else if p.replay.any fun f => 16 ≤ f.sends then
    if p.retrain = 2 then s.losePair n 4 0 else s.setPair n { p with retrain := 1 }
  else
    let s := State.resendAll n p.replay s
    let old := SMap.get 0 s.links.replays (n / 4)
    let k := (p.replay.filter (·.sent)).length
    let s := { s with links := { s.links with replays := s.links.replays.insert (n / 4) (Nat.min 4095 (old + k)) } }
    s.setPair n { p with replay := p.replay.map fun f => { f with sends := f.sends + 1, sent := true }, sinceAck := s.time }

/-- No ACK has advanced for 4,096 cycles while flits are held (R285). -/
def execReplayTimeout (g : Nat) (s : State) : Host.Outcome State Fault Refusal :=
  let p := s.pairOf g
  .next (if !p.replay.isEmpty && p.sinceAck + 4096 ≤ s.time then s.replay g else s)

/-- Retraining after replay exhaustion ends: lanes that failed are lost, and sending resumes from the oldest held flit
(R391, R393). -/
def execGroupRetrainComplete (g : Nat) (failed : BitVec 16) (s : State) : Host.Outcome State Fault Refusal :=
  let p := s.pairOf g
  if p.retrain != 1 then .next s
  else
    let bad := (s.groupLanes (g / 4) true (g % 4)).filter fun i => bitAt failed.toNat i
    let s := s.setPair g { p with retrain := 2, replay := p.replay.map fun f => { f with sends := 0 }, sinceAck := s.time }
    let s := s.linkErr (g / 4) 0 3 (g + 2 ^ 7)
    let s := bad.foldl (fun s i => s.takeLane (g / 4) i) s
    .next ((s.mendPort (g / 4)).replay g)

/-! ## Flits arrive (R284, R285) -/

/-- Whether SEQ `a` is covered by an ACK of `b`. -/
def seqCovered (a b : BitVec 16) : Bool := decide ((b - a).toNat < 2 ^ 15)

/-- An ACK frees the flits it covers. -/
def State.ackFlits (s : State) (n : Nat) (ack : BitVec 16) : State :=
  let p := s.pairOf n
  let left := p.replay.filter fun f => !seqCovered f.seq ack
  if left.length = p.replay.length then s
  else s.setPair n { p with replay := left, sinceAck := s.time, retrain := if p.retrain = 2 then 0 else p.retrain }

/-- A flit arrives on incoming group `g` (R284): a failing CRC drops it and asks for a replay, and all that follows is dropped until
the flit that is due; of one that is not dropped ACK, NAK and credits are taken; a payload is taken only in order. An empty
payload is an idle flit's: one with the SEQ that is due shows that nothing is to be replayed (log 30, DEDUCED). -/
def execFlitReceive (g : Nat) (payload : List Byte) (trl : BitVec 72) (s : State) : Host.Outcome State Fault Refusal :=
  let p := s.pairOf g
  let t := trl.toNat
  if p.gin = 0 then .next s
  else if flitCrc payload (t % 2 ^ 40) != t / 2 ^ 40 then .next (s.setPair g { p with nak := true })
  else
    let seq := BitVec.ofNat 16 t
    let ack := BitVec.ofNat 16 (bits t 16 16)
    let due := seq == p.rxack + 1
    if p.nak && !due then .next s
    else
    let s := s.ackFlits g ack
    let s := if bitAt t 32 then s.replay g else s
    let p := s.pairOf g
    if payload.isEmpty then .next (s.setPair g { p with nak := p.nak && !due, cred := p.cred + bits t 33 7 })
    else if !due then .next s
    else
      let keep := p.launch.isSome || p.server
      .next (s.setPair g { p with
        rxack := seq, nak := false, cred := p.cred + bits t 33 7, rx := if keep then p.rx ++ payload else p.rx })

/-- A group with no payload to send sends an idle flit (R284): its SEQ is that of the next flit, and it is not held for
replay (log 30, DEDUCED). -/
def execIdleFlit (g : Nat) (s : State) : Host.Outcome State Fault Refusal :=
  let p := s.pairOf g
  if !p.sends then .next s
  else
    let c := Nat.min p.freed 127
    .next ((s.setPair g { p with freed := p.freed - c }).putFlit g [] p.txseq c)

/-! ## Lanes are lost, turned and regained -/

/-- A lane receiver loses block lock (R390). -/
def execBlockLockLoss (port lane : Nat) (s : State) : Host.Outcome State Fault Refusal :=
  let x := s.laneOf port lane
  .next (if x.up && x.unlock.isNone then s.setLane port lane { x with unlock := some s.time } else s)

/-- A lane receiver regains block lock in time (R390). -/
def execBlockLockRegain (port lane : Nat) (s : State) : Host.Outcome State Fault Refusal :=
  let x := s.laneOf port lane
  .next (if x.up then s.setLane port lane { x with unlock := none } else s)

/-- A lane without block lock for 2^14 cycles is lost (R390): its groups borrow, or their pair is lost. -/
def execLaneLost (port lane : Nat) (s : State) : Host.Outcome State Fault Refusal :=
  match (s.laneOf port lane).unlock with
  | none => .next s
  | some t =>
    if !(s.laneOf port lane).up || s.time < t + 2 ^ 14 then .next s
    else .next ((s.takeLane port lane).mendPort port)

/-- A lane that was turned round has been retrained (R391, R392): it serves its group and the group's held flits go on;
or it has failed, and the group without a lane is lost. -/
def execLaneTurnaroundComplete (port lane : Nat) (ok : Bool) (s : State) : Host.Outcome State Fault Refusal :=
  let x := s.laneOf port lane
  if !x.turning then .next s
  else
    let g := x.serves.getD x.home
    let n := 4 * port + g
    if ok then
      let s := (s.setLane port lane { x with turning := false, up := true }).refreshPort port
      let s := s.linkErr port lane 2 (lane % 16 + (if x.out then 16 else 0) + n * 2 ^ 5)
      let s := if x.out then s.replay n else s
      .next ((s.mendPort port).giveBack port)
    else
      let s := s.takeLane port lane
      let p := s.pairOf n
      let s := if (if x.out then p.gout else p.gin) = 0 then s.mendGroup port x.out g true else s
      .next ((s.mendPort port).giveBack port)

/-! ## Bindings (R277 to R280) -/

/-- One binding of a launch changes. -/
def Launch.setBind (x : Launch) (i : Nat) (f : Binding → Binding) : Launch :=
  { x with binds := (x.binds.zip (List.range x.binds.length)).map fun bk => if bk.2 = i then f bk.1 else bk.1 }

/-- Whether every external binding of a launch is complete (R279). -/
def Launch.allBound (x : Launch) : Bool := x.binds.all fun b => b.die || b.bound || b.lost

/-- The key of a launch's link queue. -/
def linkQKey (l lq : Nat) : Nat := 256 * l + lq

/-- The link queue of a stream or die-to-die entry (R281, R282). -/
def linkQOf (l : Nat) (b : Binding) : LinkQ :=
  { launch := l, lq := b.lq, live := true
    seqOut := if b.out then some b.seq else none
    seqIn := if b.die then some b.peer else if b.inn then some b.seq else none
    pair := if b.die then none else some b.pair }

/-- A launch's binding on a pair is complete: BOUND sets, and a stream entry's queue opens. -/
def State.completeBind (s : State) (n : Nat) : State :=
  let p := s.pairOf n
  match p.launch with
  | none => s
  | some l =>
    let x := s.launch l
    let s := s.setPair n { p with bound := true, early := none, lost := false }
    let x' := { x with binds := x.binds.map fun b => if !b.die && b.claimed && b.pair == n then { b with bound := true } else b }
    let s := s.setLaunch l x'
    match x'.binds.find? fun b => !b.die && b.pair == n && !b.mem with
    | some b => s.setLinkQ (linkQKey l b.lq) (linkQOf l b)
    | none => s

/-- R279: the launch is ended as an unfit one, with the error interrupt of its source (R49), and a record names the pair. -/
def State.bindFails (s : State) (l n : Nat) : State :=
  ((s.endUnfit l).err { cls := 1, src := 1, code := 5, launch := s.launchWord l, detail := n }).sourceErr (s.launch l).src

/-- A peer's stream bind flit, with its package, BINDID and domain, is held against the claim of the pair. -/
def State.matchBind (s : State) (n pkg : Nat) (bid : Word32) (dom : Nat) : State :=
  let p := s.pairOf n
  match p.launch with
  | none => s.setPair n { p with early := some (pkg, bid, dom) }
  | some l =>
    if p.mem || p.bound then s
    else if pkg = p.peer && bid = p.bid then if dom = p.dom then s.completeBind n else s.bindFails l n
    else s.setPair n { p with early := some (pkg, bid, dom) }

/-- The hub claims the pair of an external entry of a READY launch and sends its bind flit (R279, R392). -/
def execPairClaim (l i : Nat) (s : State) : Host.Outcome State Fault Refusal :=
  let x := s.launch l
  match x.binds[i]? with
  | none => .next s
  | some b =>
    let p := s.pairOf b.pair
    if x.st != .ready || b.die || b.claimed || p.launch.isSome || (p.server && !b.mem) || p.gout = 0 || p.gin = 0
    then .next s
    else
      let dom := bits (dword x.image 10) 0 4
      let early := p.early
      let s := s.setPair b.pair { p with
        launch := some l, mem := b.mem, bid := b.bid, dom := dom, peer := b.peer, bound := false, lost := false
        cred := 16, freed := 0, frames := 0, framesIn := 0, rx := if p.server then p.rx else []
        early := none }
      let s := s.setLaunch l ({ x.setBind i fun b => { b with claimed := true } with
        claimAt := some (x.claimAt.getD s.time) })
      let s := s.emit (.bindFlit b.pair s.hub.pkg.toNat b.bid dom b.mem)
      .next (match early with
        | some (pkg, bid, d) => s.matchBind b.pair pkg bid d
        | none => s)

/-- A bind flit, an answer or an unbind flit of the peer hub (R279, R280, R400). The memory server of this package takes
the pair where the domain is provisioned with the same keys and no stream holds the pair. Whether the peer's keys are the same is not in
the flit: the next choice says (log 49, DESIGN CHOICE). A peer that refuses ends the launch, whatever the pair was claimed for. -/
def execBindFlitReceive (pair pkg : Nat) (bid : Word32) (dom : BitVec 4) (what : BindMsg) (s : State) :
    Host.Outcome State Fault Refusal :=
  let p := s.pairOf pair
  match what with
  | .stream => .next (s.matchBind pair pkg bid dom.toNat)
  | .memory =>
    let k := s.keyDom dom.toNat
    let (c, s) := s.choose
    let ok := k.prov && !k.ending && c % 2 == 0 && (p.launch.isNone || p.mem)
    let s := if ok then s.setPair pair { p with server := true, served := dom.toNat, lost := false } else s
    .next (s.emit (.bindAnswer pair ok))
  | .answer ok =>
    match p.launch with
    | none => .next s
    | some l => .next (if p.bound then s else if !ok then s.bindFails l pair else if p.mem then s.completeBind pair else s)
  | .unbind => .next (s.setPair pair { p with server := false, early := none })

/-- Bindings incomplete 2^28 cycles after the first claim end the launch (R279). -/
def execBindingTimeout (l : Nat) (s : State) : Host.Outcome State Fault Refusal :=
  let x := s.launch l
  match x.claimAt with
  | none => .next s
  | some t =>
    if x.st != .ready || x.allBound || s.time < t + 2 ^ 28 then .next s
    else .next (match x.binds.find? fun b => !b.die && !b.bound && !b.lost with
      | some b => s.bindFails l b.pair
      | none => s)

/-- Whether a launch has given its pairs up: it is DONE or has been ended, and none of its tasks runs. -/
def Launch.over (x : Launch) : Bool := (x.st == .done || x.st == .unfit || x.st == .none) && x.live == 0

/-- A pair of a launch that has ended is released once every flit sent on it has been acknowledged (R280): the unbind
flit goes, BOUND clears, its receive buffer goes with the binding, and borrowed lanes are turned back (R392). -/
def execPairRelease (pair : Nat) (s : State) : Host.Outcome State Fault Refusal :=
  let p := s.pairOf pair
  match p.launch with
  | none => .next s
  | some l =>
    let waiting := s.links.requests.any fun r => r.pair == pair && !r.dead
    if !(s.launch l).over || !p.replay.isEmpty || waiting then .next s
    else
      let s := s.setPair pair { p with
        launch := none, mem := false, bound := false, bid := 0, dom := 0, peer := 0, early := none
        rx := if p.server then p.rx else [] }
      let qs := s.links.queues.filter fun kv => !(kv.2.launch == l && kv.2.pair == some pair)
      let s := { s with links := { s.links with queues := qs } }
      .next ((s.emit (.unbindFlit pair)).giveBack (pair / 4))

/-! ## Tokens of link queues (R281 to R283, R291, R397) -/

/-- The panel of the piece that runs a sequence of a launch. -/
def State.panelOf (s : State) (l : Nat) (seq : Option Nat) : Option Nat :=
  (s.pieces.find? fun kv => kv.2.live && kv.2.launch == l && some kv.2.seqPos == seq).map (·.2.panel)

/-- A token leaves a send buffer when a receive slot is free (R282): as a frame on its pair, or over the die-to-die
channel, which is usable whenever both sequences hold pieces (R281). -/
def execLinkTokenSend (k : Nat) (s : State) : Host.Outcome State Fault Refusal :=
  let q := s.linkQ k
  match q.send with
  | [] => .next s
  | t :: rest =>
    if !q.live || q.lost then .next s
    else match q.pair with
      | some n =>
        let p := s.pairOf n
        if !p.bound || p.cred = 0 || !p.sends || s.replayRoom n < frameFlits t.kind then .next s
        else
          let frame := frameOf (s.keyDom p.dom) p.bid p.frames t
          let s := s.setPair n { p with cred := p.cred - 1, frames := p.frames + 1 }
          .next ((s.sendBytes n frame).setLinkQ k { q with send := rest })
      | none =>
        if 16 ≤ q.recv.length + q.fly.length || (s.panelOf q.launch q.seqOut).isNone || (s.panelOf q.launch q.seqIn).isNone then .next s
        else
          let due := s.time + (if s.panelOf q.launch q.seqOut = s.panelOf q.launch q.seqIn then 8 else 24)
          .next (s.setLinkQ k { q with send := rest, fly := q.fly ++ [{ tok := t, avail := due }] })

/-- The units that may be the consumer of a die-to-die token, for the trap of R382: an element, S, M or a stream. -/
def consumerUnits : List Nat := [4, 0, 2, 5]

/-- A die-to-die token becomes available to its consumer (R281). One that fails its parity is sent again, and when it
fails again POISON is raised at the consumer (R382, R386). -/
def execDieToDieTokenArrive (k : Nat) (s : State) : Host.Outcome State Fault Refusal :=
  let q := s.linkQ k
  match q.fly with
  | [] => .next s
  | f :: rest =>
    if s.time < f.avail || !q.live then .next s
    else if q.syn != 0 then
      let loc := match s.pieces.find? fun kv => kv.2.live && kv.2.launch == q.launch && some kv.2.seqPos == q.seqIn with
        | some kv => errLoc kv.2.panel kv.2.bay 0 0
        | none => 0
      if !q.resent then
        let s := s.setLinkQ k { q with resent := true, fly := { f with avail := s.time + 1 } :: rest }
        .next (s.err { cls := 0, src := 6, code := 1, loc := loc })
      else
        match (s.pieces.find? fun kv => kv.2.live && kv.2.launch == q.launch && some kv.2.seqPos == q.seqIn).map (·.1) with
        | none => .next s
        | some p =>
          let mine (r : TrapRec) : Bool := r.code == cPOISON && r.loc == BitVec.ofNat 64 q.lq
          let x := s.pieceOf p
          if x.traps.any mine || (x.cur.map mine).getD false || x.abort.isSome then .next s
          else
            let (c, s) := s.choose
            let s := s.modPieceAt p (·.raise
              { code := cPOISON, unit := nth 4 consumerUnits c, async := true, val := BitVec.ofNat 64 q.syn.toNat
                loc := BitVec.ofNat 64 q.lq, slot := 64, elem := 256 })
            .next (s.err { cls := 1, src := 6, code := 3, loc := loc, launch := s.launchWord q.launch, detail := q.lq })
    else .next (s.setLinkQ k { q with fly := rest, recv := q.recv ++ [f.tok], resent := false })

/-- A frame is checked, decrypted and placed in the receive buffer (R291). One that fails its check is dropped and the pair
is lost (R397). -/
def execStreamFrameReceive (pair : Nat) (s : State) : Host.Outcome State Fault Refusal :=
  let p := s.pairOf pair
  if !p.bound || p.mem || p.rx.isEmpty then .next s
  else
    let n := 64 * frameFlits (kindOf (ofBytes (p.rx.take 1) % 16))
    match s.links.queues.find? fun kv => kv.2.live && !kv.2.lost && kv.2.pair == some pair && kv.2.seqIn.isSome with
    | none => .next s
    | some (k, q) =>
      if p.rx.length < n || 16 ≤ q.recv.length then .next s
      else
        match tokenOf (s.keyDom p.dom) p.bid p.framesIn (p.rx.take n) with
        | none => .next (s.losePair pair 5 0)
        | some t =>
          let s := s.setPair pair { p with rx := p.rx.drop n, framesIn := p.framesIn + 1 }
          .next (s.setLinkQ k { q with recv := q.recv ++ [t] })

end Sys2Proof.Machine
end

