-- ==== Sys2Proof/Machine/Server.lean ====
section
/-! DEFINITION. The memory server of a package (R287, R288, R364), the replies at the requester (R290, R365, R372, R396)
and the remote-atomic subgraphs of the bank elements (R84, R85, R116). -/

namespace Sys2Proof.Machine

/-! ## Requests under a move (R363, R364) -/

/-- The move entry that covers a local address. -/
def Hub.moveOf (h : Hub) (a : Nat) : Option MovEntry :=
  ((List.range 8).find? fun i => (h.mov i).covers a).map h.mov
/-- Whether a request for a physical address is held. -/
def State.holdsReq (s : State) (pa : Nat) : Bool :=
  pa / 2 ^ 45 == s.hub.pkg.toNat && (match s.hub.moveOf (pa % 2 ^ 45) with
    | some m => !m.fwd
    | none => false)
/-- The local address at which a request is applied: forwarded where a move says so. -/
def State.landing (s : State) (pa : Nat) : Nat :=
  let a := pa % 2 ^ 45
  match s.hub.moveOf a with
  | some m => if m.fwd then m.dst.toNat + (a - m.src.toNat) else a
  | none => a

/-- Takes a unit off the front of what a pair has received. -/
def State.takeUnit (s : State) (n op : Nat) : State :=
  let p := s.pairOf n
  s.setPair n { p with rx := p.rx.drop (64 * unitFlits op) }
/-- The whole unit at the front of what a pair has received. -/
def State.unitAt (s : State) (n : Nat) : Option (List Byte) :=
  let rx := (s.pairOf n).rx
  let k := 64 * unitFlits (unitOp rx)
  if rx.isEmpty || rx.length < k then none else some (rx.take k)

/-- The first held request of a pair. -/
def State.heldAt (s : State) (n : Nat) : Option HeldReq := s.hub.held.find? fun h => h.pair == n
/-- Removes a held request. -/
def State.dropHeld (s : State) (id : Nat) : State :=
  { s with hub := { s.hub with held := s.hub.held.filter fun h => h.id != id } }
/-- Holds a request that has arrived. -/
def State.holdReq (s : State) (n : Nat) (b : List Byte) : State :=
  let id := s.opCount
  { s with opCount := id + 1
           hub := { s.hub with held := s.hub.held ++ [({ id := id, pair := n, bytes := b, since := s.time } : HeldReq)] } }

/-- Whether a request of a pair must wait: for an invocation of the pair that came before it and has still to fire (R288), or for
local writes in flight to the line that it reaches. -/
def State.lineBusy (s : State) (n : Nat) (b : List Byte) : Bool :=
  s.invokes.any (fun v => v.pair == some n) || s.contended false (s.landing (unitPa b) / 128 * 128) 128

/-- The memory server looks at the requests of a group in arrival order (R288): the first held one is applied once its
hold has ended; a unit that arrives is applied at once, or held where a move covers it or another is held before it. -/
def State.serveReq (s : State) (n op : Nat) (apply : List Byte → State → State) : State :=
  match s.heldAt n with
  | some h =>
    if unitOp h.bytes = op && !s.holdsReq (unitPa h.bytes) then
      if s.lineBusy n h.bytes then s else apply h.bytes (s.dropHeld h.id)
    else match s.unitAt n with
      | some b => if unitOp b = op then (s.takeUnit n op).holdReq n b else s
      | none => s
  | none =>
    match s.unitAt n with
    | some b =>
      if unitOp b != op then s
      else if s.holdsReq (unitPa b) then (s.takeUnit n op).holdReq n b
      else if s.lineBusy n b then s
      else apply b (s.takeUnit n op)
    | none => s

/-! ## What the server answers -/

/-- Whether the wall lets the binding's domain reach an address: as a launch of that domain, through a page of a class
that it may use (R78, R288). -/
def State.servedOk (s : State) (dom pa : Nat) : Bool :=
  let a := pa % 2 ^ 45
  let tool := (s.keyDom dom).tool
  let reach (a : Nat) : Bool := s.inMem a && granuleOk tool dom (s.wallKind a) (s.wallKind a) (s.wallDom a)
  pa / 2 ^ 45 == s.hub.pkg.toNat && reach a && reach (s.landing pa)

/-- Whether the binding's domain has lost its keys: the answer is 0x12 (R396, R400). -/
def State.revokedFor (s : State) (dom : Nat) : Bool :=
  let k := s.keyDom dom
  !k.prov || k.ending

/-- After a request answered with 0x12 the target releases the binding (R396, R398). -/
def State.afterStatus (s : State) (n st : Nat) : State :=
  if st = 0x12 then s.losePair n 6 ((s.pairOf n).served % 16 * 2 ^ 16) else s

/-- A store acknowledgement of one store. -/
def ackUnit (st : Nat) : List Byte := padFlits 1 (bytesOf 8 0x82 ++ bytesOf 2 1 ++ bytesOf 1 st)
/-- A load reply. -/
def loadUnit (pa st tag : Nat) (ct : List Byte) : List Byte :=
  padFlits 1 (unitHead 0x81 pa ++ bytesOf 8 st ++ bytesOf 7 tag) ++ padFlits 2 ct
/-- An invocation's result without a value. -/
def failUnit (pa st : Nat) : List Byte := padFlits 1 (unitHead 0x84 pa ++ bytesOf 8 st)

/-- Answers a request with a status other than success. -/
def State.refuseReq (s : State) (n : Nat) (b : List Byte) (st : Nat) : State :=
  let s := s.sendBytes n (match unitOp b with
    | 3 => loadUnit (unitPa b) st 0 []
    | 4 => failUnit (unitPa b) st
    | _ => ackUnit st)
  s.afterStatus n st

/-- Applies a request: the checks that every kind shares, then its own effect, which sends its reply, or says a status
other than success. -/
def State.applyReq (s : State) (n : Nat) (b : List Byte) (effect : State → Nat × State) : State :=
  let dom := (s.pairOf n).served
  if s.revokedFor dom then s.refuseReq n b 0x12
  else if !s.servedOk dom (unitPa b) then s.refuseReq n b 1
  else
    let r := effect s
    if r.1 = 0 then r.2 else r.2.refuseReq n b r.1

/-- Writes a line as the ciphertext and tag given, under a domain, and clears its poison (R288, R368). -/
def State.putStored (s : State) (l dom tag : Nat) (ct : List Byte) : State :=
  let s := (s.breakLine false l).putBytes false l ct
  { s with lmeta := SMap.set 0 s.lmeta (l / 128) (BitVec.ofNat 61 (tag % 2 ^ 56 + dom * 2 ^ 56 + 2 ^ 60))
           poison := SMap.set false s.poison (lineKey false l) false, upset := s.upset.erase (lineKey false l) }

/-- A store line (R288): written unchanged; under a forwarding move it is opened under its own address and sealed under
the destination (R364). -/
def State.applyStoreLine (s : State) (n : Nat) (b : List Byte) : State :=
  s.applyReq n b fun s =>
    let dom := (s.pairOf n).served
    let pa := unitPa b
    let l := s.landing pa / 128 * 128
    let tag := ofBytes ((b.drop 8).take 7)
    let ct := (b.drop 64).take 128
    if l = pa % 2 ^ 45 / 128 * 128 then (0, (s.putStored l dom tag ct).sendBytes n (ackUnit 0))
    else match openLine (s.keyDom dom) (pa / 128 * 128) ct tag with
      | none => (2, s)
      | some p =>
        let c := sealLine (s.keyDom dom) (s.fullPa l) p
        (0, (s.putStored l dom c.2 c.1).sendBytes n (ackUnit 0))

/-- A line with some bytes replaced. -/
def maskMerge (mask : Nat) (old new : List Byte) : List Byte :=
  tab 128 fun i => if bitAt mask i then nth 0 new i else nth 0 old i

/-- A store partial (R288), in one step on the line. A poisoned line is answered with status 4, a failing tag with 2. -/
def State.applyStorePartial (s : State) (n : Nat) (b : List Byte) : State :=
  s.applyReq n b fun s =>
    let dom := (s.pairOf n).served
    let pa := unitPa b
    let l := s.landing pa / 128 * 128
    let s := s.detect false l 128
    let mask := ofBytes ((b.drop 16).take 16)
    let new := toBytes (xts false (s.keyDom dom).xts (pa / 128 * 128) (nats ((b.drop 64).take 128)))
    if s.poisoned false l 128 then (4, s)
    else match s.plainLine l with
      | none => (2, s)
      | some old => (0, (s.putSealed l dom (maskMerge mask old new)).sendBytes n (ackUnit 0))

/-- A load (R287, R290): the stored form of the line; under a forwarding move the line at the destination, encrypted
under the requested address (R364). -/
def State.applyLoad (s : State) (n : Nat) (b : List Byte) : State :=
  s.applyReq n b fun s =>
    let dom := (s.pairOf n).served
    let pa := unitPa b
    let l := s.landing pa / 128 * 128
    let s := s.detect false l 128
    if s.poisoned false l 128 then (4, s)
    else if l = pa % 2 ^ 45 / 128 * 128 then
      (0, s.sendBytes n (loadUnit pa 0 (bits (s.lineMeta l).toNat 0 56) (s.bytes false l 128)))
    else match s.plainLine l with
      | none => (2, s)
      | some p =>
        let c := sealLine (s.keyDom dom) (pa / 128 * 128) p
        (0, s.sendBytes n (loadUnit pa 0 c.2 c.1))

/-- An invocation (R288): decrypted and handed to its bank element. -/
def State.applyInvoke (s : State) (n : Nat) (b : List Byte) : State :=
  s.applyReq n b fun s =>
    let dom := (s.pairOf n).served
    match unitValue (s.keyDom dom) b with
    | none => (2, s)
    | some v =>
      let id := s.opCount
      (0, { s with opCount := id + 1, invokes := s.invokes ++
        [({ id := id, piece := 0, pair := some n, vault := false, addr := s.landing (unitPa b), operand := v
            fn := ofBytes ((b.drop 8).take 1) % 32, pa := unitPa b } : Invoke)] })

/-- Whether the server of a pair may act: it is attached, and its replies have room to leave. -/
def State.serving (s : State) (n : Nat) : Bool := (s.pairOf n).server && 3 ≤ s.replayRoom n

/-- A remote store line reaches the memory server (R288). -/
def execRemoteStoreLine (pair : Nat) (s : State) : Host.Outcome State Fault Refusal :=
  .next (if s.serving pair then s.serveReq pair 1 fun b s => s.applyStoreLine pair b else s)
/-- A remote store partial reaches the memory server (R288). -/
def execRemoteStorePartial (pair : Nat) (s : State) : Host.Outcome State Fault Refusal :=
  .next (if s.serving pair then s.serveReq pair 2 fun b s => s.applyStorePartial pair b else s)
/-- A remote load reaches the memory server (R287). -/
def execRemoteLoad (pair : Nat) (s : State) : Host.Outcome State Fault Refusal :=
  .next (if s.serving pair then s.serveReq pair 3 fun b s => s.applyLoad pair b else s)
/-- A remote invocation reaches the memory server (R288). -/
def execRemoteInvoke (pair : Nat) (s : State) : Host.Outcome State Fault Refusal :=
  .next (if s.serving pair then s.serveReq pair 4 fun b s => s.applyInvoke pair b else s)

/-- A covered request held for 2^20 cycles is answered with status 0x03 and not applied (R364). -/
def execMoveHoldExpire (id : Nat) (s : State) : Host.Outcome State Fault Refusal :=
  match s.hub.held.find? fun h => h.id == id with
  | none => .next s
  | some h =>
    if !s.holdsReq (unitPa h.bytes) || s.time < h.since + 2 ^ 20 || s.replayRoom h.pair < 3 then .next s
    else .next ((s.dropHeld id).refuseReq h.pair h.bytes 3)

/-! ## Replies at the requester -/

/-- The first request of a kind outstanding on a pair that an address matches. -/
def State.requestOf (s : State) (n kind : Nat) (mine : RemoteReq → Bool) : Option RemoteReq :=
  s.links.requests.find? fun r => r.pair == n && r.kind == kind && mine r

/-- After a reply of 0x12 the binding is lost here as well (R396). -/
def State.afterReply (s : State) (n st : Nat) : State :=
  if st = 0x12 then s.losePair n 6 ((s.pairOf n).dom % 16 * 2 ^ 16) else s

/-- Ends a request by its reply: a reply that comes after its timer has expired is discarded (R396). -/
def State.settle (s : State) (r : RemoteReq) (st : Nat) (good : State → State) : State :=
  let s := s.dropRequest r.id
  if r.dead then s
  else if st = 0 then good s
  else (s.requestFails r st).afterReply r.pair st

/-- The value that a load takes out of its opened line. -/
def sliceOf (r : RemoteReq) (line : List Byte) : List Byte := (line.drop (r.addr % 128)).take r.size

/-- A load reply is checked and decrypted with the key of the page that translated the address (R289, R290, R372). -/
def execLoadReply (pair : Nat) (s : State) : Host.Outcome State Fault Refusal :=
  match (if (s.pairOf pair).mem then s.unitAt pair else none) with
  | none => .next s
  | some b =>
    if unitOp b != 0x81 then .next s
    else
      let s := s.takeUnit pair 0x81
      let line := unitPa b
      match s.requestOf pair 0 fun r => r.addr / 128 * 128 == line with
      | none => .next s
      | some r =>
        .next (s.settle r (ofBytes ((b.drop 8).take 1)) fun s =>
          match s.opOf r.id with
          | none => s
          | some o =>
            match openLine (s.keyDom r.key) line ((b.drop 64).take 128) (ofBytes ((b.drop 16).take 7)) with
            | none => s.answerBad o cINTEGRITY (BitVec.ofNat 64 (line + r.key * 2 ^ 56))
            | some p => s.answerOk o (sliceOf r p))

/-- Settles the first `k` stores of a pair. -/
def State.ackStores (n st : Nat) : Nat → State → State
  | 0, s => s
  | k + 1, s =>
    match s.requestOf n 1 fun _ => true with
    | none => s
    | some r => State.ackStores n st k (s.settle r st fun s => s.storeDone r.id)

/-- A store acknowledgement settles stores in order (R287, R365). -/
def execStoreAcknowledgement (pair : Nat) (s : State) : Host.Outcome State Fault Refusal :=
  match (if (s.pairOf pair).mem then s.unitAt pair else none) with
  | none => .next s
  | some b =>
    if unitOp b != 0x82 then .next s
    else .next (State.ackStores pair (ofBytes ((b.drop 10).take 1)) (ofBytes ((b.drop 8).take 2)) (s.takeUnit pair 0x82))

/-- The waiting S word takes what its invocation came to (R187). -/
def Piece.invoked (id : Nat) (a : Await) (p : Piece) : Piece := if p.await == Await.invoke id then { p with await := a } else p

/-- An invocation's result returns (R187, R287): bits [39:0] of its lane 0, extended by sign. -/
def execInvokeResult (pair : Nat) (s : State) : Host.Outcome State Fault Refusal :=
  match (if (s.pairOf pair).mem then s.unitAt pair else none) with
  | none => .next s
  | some b =>
    if unitOp b != 0x84 then .next s
    else
      let s := s.takeUnit pair 0x84
      match s.requestOf pair 2 fun r => r.addr == unitPa b with
      | none => .next s
      | some r =>
        .next (s.settle r (ofBytes ((b.drop 8).take 1)) fun s =>
          let a := match unitValue (s.keyDom r.key) b with
            | none => Await.failed cINTEGRITY (BitVec.ofNat 64 (r.addr % 2 ^ 56 + r.key * 2 ^ 56))
            | some v => Await.result (BitVec.ofInt 64 (sgn 40 v.toNat))
          (s.modPieceAt r.piece (·.invoked r.id a)).dropOp r.id)

/-- A remote request without a reply for 2^22 cycles ends as one answered with status 0x10 (R396). -/
def execRemoteReplyTimeout (id : Nat) (s : State) : Host.Outcome State Fault Refusal :=
  match s.links.requests.find? fun r => r.id == id with
  | none => .next s
  | some r =>
    if r.dead || s.time < r.at_ + 2 ^ 22 then .next s
    else
      let rs := s.links.requests.map fun (q : RemoteReq) => if q.id = id then { q with dead := true } else q
      .next (State.requestFails { s with links := { s.links with requests := rs } } r 0x10)

/-! ## Remote-atomic subgraphs (R84, R85) -/

/-- The bank element that owns an address: by its vault bank, or the memory-side one from 512 on. -/
def ownerOf (vault : Bool) (a : Nat) : Nat := if vault then vaultBank a else 512 + 16 * (a / 2 ^ 37 % 8) + bits a 8 4
/-- A subgraph's place in the tables. -/
def sgKey (owner id : Nat) : Nat := 32 * owner + id
/-- The subgraph loaded at a place. -/
def State.subgraph (s : State) (k : Nat) : Option Plane := SMap.get none s.hub.subgraphs k
/-- Replaces a subgraph. -/
def State.setSubgraph (s : State) (k : Nat) (x : Option Plane) : State :=
  { s with hub := { s.hub with subgraphs := SMap.set none s.hub.subgraphs k x } }

/-- Sends an invocation's answer, where the server still holds the pair. -/
def State.answerTo (s : State) (n : Nat) (b : List Byte) : State := if (s.pairOf n).server then s.sendBytes n b else s

/-- Whether a subgraph can write memory: it triggers the memory family. -/
def Plane.writesMem (f : Plane) : Bool := f.slots.any fun kv => mvDst kv.2.toNat == portMemT

/-- An invocation ends without a result: its server answers with a status (R365, R396), a thread of this package takes the
trap of that status. -/
def State.invokeFails (s : State) (v : Invoke) (st c : Nat) (loc : W64) : State :=
  match v.pair with
  | some n => s.answerTo n (failUnit v.pa st)
  | none => s.modPieceAt v.piece (·.invoked v.id (.failed c loc))

/-- A bank element fires a subgraph (R84, R116) in one read-modify-write of the doubleword at its address. The manual
gives no rule of how the subgraph's moves run in a bank element, so the doubleword, where the subgraph can write, and the
result token are free values (log 16, DESIGN CHOICE). An unloaded subgraph is answered with REMOTE_FAIL (R84); one that meets a poisoned
word or a failing tag writes nothing (R369, R372). -/
def execRemoteSubgraphFire (id : Nat) (s : State) : Host.Outcome State Fault Refusal :=
  match s.invokes.find? fun v => v.id == id with
  | none => .next s
  | some v =>
    let full := match v.pair with
      | some n => s.replayRoom n < 1
      | none => false
    if s.contended v.vault v.addr 8 || full then .next s
    else
      let s := { s with invokes := s.invokes.filter fun w => w.id != id }
      match s.subgraph (sgKey (ownerOf v.vault v.addr) v.fn) with
      | none => .next (s.invokeFails v 0x11 cREMOTE_FAIL 0)
      | some f =>
        let s := s.detect v.vault v.addr 8
        let old := s.read v.vault v.addr 8
        if let some l := old.integ then .next (s.invokeFails v 2 cINTEGRITY (s.integLoc l))
        else if old.pois then .next (s.invokeFails v 4 cPOISON 0)
        else
          let (n, s) := s.takeFresh
          let r := BitVec.ofInt 64 (sgn 40 (Config.freeWord n).toNat)
          let (m, s) := if f.writesMem then s.takeFresh else (0, s)
          let s := if f.writesMem then (s.write v.vault v.addr (bytesOf 8 (Config.freeWord m).toNat)).getD s else s
          .next (match v.pair with
            | some n => s.answerTo n (valueUnit 0x84 v.pa 0 (s.keyDom (s.pairOf n).served) r)
            | none => s.modPieceAt v.piece (·.invoked id (.result r)))

/-- Whether the wall lets the loader read a granule (R78): the management core reads every one; a load that a thread has started is
judged by the granule's kind, as an access of a launch of its domain that uses no PTE (log 62, DEDUCED). -/
def State.sgMay (s : State) (a : Nat) : Bool :=
  match s.hub.sgdom with
  | none => true
  | some d =>
    let tool := (s.keyDom d).tool
    match s.wallKind a with
    | 0 => true
    | 1 => !tool && s.wallDom a == d
    | 2 => tool && s.wallDom a == d
    | _ => false

/-- What loading a subgraph from the address that SGADDR held comes to: a plane, or a status (R85). -/
def State.sgRecord (s : State) : Plane × Nat × List Byte :=
  let a := s.hub.sgfrom.toNat
  if !s.inMem a || !s.sgMay a then ({}, 2, [])
  else
    let r := s.read false a 256
    if r.pois || r.integ.isSome then ({}, 2, [])
    else
      let f := planeOf r.data s.hub.sgfrom []
      let zeros := decide (ofBytes (r.data.drop 0xD8) = 0)
      match f.refusedAt true true zeros with
      | some _ => ({}, 1, [])
      | none => (f, 0, r.data)

/-- A load or unload that has been started completes (R85). A bank element's memory family is its own, so that every subgraph may use it, with `rmw` (R270). -/
def execSubgraphLoadDone (s : State) : Host.Outcome State Fault Refusal :=
  if !s.hub.sgbusy then .next s
  else
    let v := s.hub.sgreq.toNat
    let side := bitAt v 9
    let idx := bits v 0 9
    let ends (s : State) (st : Nat) : State := { s with hub := { s.hub with sgbusy := false, sgstat := st } }
    if side && 128 ≤ idx then .next (ends s 3)
    else
      let k := sgKey ((if side then 512 else 0) + idx) (bits v 10 5)
      if bitAt v 15 then .next (ends (s.setSubgraph k none) 0)
      else
        let s := s.detect false s.hub.sgfrom.toNat 256
        match s.sgRecord with
        | (f, 0, b) =>
          let d := BitVec.ofNat 256 (bytesNat (sha256 (nats b)))
          .next (ends ((s.setSubgraph k (some f)).extend 2 d) 0)
        | (_, st, _) => .next (ends s st)

end Sys2Proof.Machine
end

