-- ==== Sys2Proof/Machine/Walker.lean ====
section
/-! DEFINITION. Launch records and how tasks are enumerated (R32, R33, R44), the checks of a record and of its link
binding table (R45, R277, R278), posting (R41, R42), the waits of a launch (R47) and its aging (R51). -/

namespace Sys2Proof.Machine

/-! ## The loop nest of a record (R32, R33, R44) -/

/-- Bits of a field of the record. -/
def Launch.fld (x : Launch) (off lo n : Nat) : Nat := bits (ofBytes ((x.image.drop off).take 8)) lo n

/-- Marks of R32. -/
def markT : Nat := 0
/-- Spatial over panels. -/
def markP : Nat := 2
/-- Spatial over packages. -/
def markX : Nat := 3

/-- NLEV. -/
def Launch.nlev (x : Launch) : Nat := x.fld 0x50 8 3
/-- The word of level `i`. -/
def Launch.levWord (x : Launch) (i : Nat) : Nat := ofBytes ((x.image.drop (0x18 + 4 * i)).take 4)
/-- The levels in use, outermost first: count and mark. -/
def Launch.levels (x : Launch) : List (Nat × Nat) :=
  tab (Nat.min x.nlev 6) fun i => (bits (x.levWord i) 0 20 + 1, bits (x.levWord i) 25 2)

/-- The number of index tuples. -/
def tupleCount : List (Nat × Nat) → Nat
  | [] => 1
  | l :: ls => l.1 * tupleCount ls
/-- The index tuple at a walker position, level 0 most significant. -/
def tupleAt : List (Nat × Nat) → Nat → List Nat
  | [], _ => []
  | l :: ls, p => p / tupleCount ls % l.1 :: tupleAt ls (p % tupleCount ls)
/-- The walker position of an index tuple. -/
def tuplePos : List (Nat × Nat) → List Nat → Nat
  | [], _ => 0
  | _ :: ls, is => is.headD 0 * tupleCount ls + tuplePos ls is.tail

/-- The tasks of a launch, those of other packages counted. -/
def Launch.total (x : Launch) : Nat := if x.nlev = 0 then 0 else tupleCount x.levels
/-- The index tuple of a task. -/
def Launch.tuple (x : Launch) (pos : Nat) : List Nat := tupleAt x.levels pos
/-- The first task of the sequence of a task: the indices of its T levels are 0 (R33). -/
def Launch.seqOf (x : Launch) (pos : Nat) : Nat :=
  tuplePos x.levels ((x.levels.zip (x.tuple pos)).map fun li => if li.1.2 = markT then 0 else li.2)
/-- The index at the level of a mark, where there is one. -/
def Launch.indexAt (x : Launch) (mark pos : Nat) : Option Nat :=
  ((x.levels.zip (x.tuple pos)).find? fun li => li.1.2 == mark).map (·.2)
/-- RANK. -/
def Launch.rank (x : Launch) : Nat := x.fld 0x48 16 11
/-- Whether a task is one of this package (R32). -/
def Launch.here (x : Launch) (pos : Nat) : Bool :=
  match x.indexAt markX pos with
  | some i => i == x.rank
  | none => true

/-- Whether a walker position names the first task of a sequence of this package (R278). -/
def Launch.isFirst (x : Launch) (pos : Nat) : Bool := decide (pos < x.total) && x.seqOf pos == pos && x.here pos

/-- The tasks inside one index of the X level: the step of the walker from one such index to the next. -/
def xStride : List (Nat × Nat) → Nat
  | [] => 1
  | l :: ls => if l.2 = markX then tupleCount ls else xStride ls

/-- A sequence of a launch. -/
def Launch.seq (x : Launch) (first : Nat) : Option Seq := x.seqs.find? fun q => q.first == first
/-- Whether a sequence has been ended (R344). -/
def Launch.seqEnded (x : Launch) (first : Nat) : Bool := (x.seq first).any fun q => q.place == .ended

/-- The first task from a position on that this package enumerates and whose sequence has not been ended. -/
def Launch.norm (x : Launch) : Nat → Nat → Nat
  | 0, pos => pos
  | n + 1, pos =>
    if x.total ≤ pos then x.total
    else if !x.here pos then
      let st := xStride x.levels
      Launch.norm x n (pos / st * st + st)
    else if x.seqEnded (x.seqOf pos) then Launch.norm x n (pos + 1)
    else pos
/-- The same with room enough for every position. -/
def Launch.from (x : Launch) (pos : Nat) : Nat := x.norm (x.total + 1 - pos) pos

/-- The next task of the sequence of a task, in walker order; the total where there is none. -/
def Launch.seqNext (x : Launch) (first : Nat) : Nat → Nat → Nat
  | 0, _ => x.total
  | n + 1, pos => if x.total ≤ pos then x.total else if x.seqOf pos = first then pos else Launch.seqNext x first n (pos + 1)
/-- The task that follows a task in its sequence. -/
def Launch.after (x : Launch) (pos : Nat) : Nat := x.seqNext (x.seqOf pos) (x.total - pos) (pos + 1)

/-! ## Link binding tables (R277, R278) -/

/-- One entry of a table. -/
def bindingOf (b : List Byte) : Binding :=
  let w := ofBytes (b.take 4)
  { lq := bits w 0 8, die := bitAt w 8, mem := bitAt w 9, out := bitAt w 10, inn := bitAt w 11, pair := bits w 16 7
    seq := ofBytes ((b.drop 4).take 4), peer := ofBytes ((b.drop 8).take 4)
    bid := BitVec.ofNat 32 (ofBytes ((b.drop 12).take 4)) }

/-- Whether an entry taken by itself is refused: entry `i` of a table with `ext` external entries. -/
def Launch.badEntry (x : Launch) (pkg ext i : Nat) (b : List Byte) : Bool :=
  let w := ofBytes (b.take 4)
  let e := bindingOf b
  let die := decide (ext ≤ i)
  bits w 12 4 != 0 || decide (2 ^ 23 ≤ w) || e.die != die
    || (if die then decide (e.lq < 128) || e.mem || e.pair != 0 || e.bid != 0 || !x.isFirst e.peer || e.seq == e.peer
          || !(e.out && e.inn)
        else decide (127 < e.lq) || decide (2 ^ 11 ≤ e.peer) || e.peer == pkg
          || (if e.mem then !(e.out && e.inn) else !(e.out || e.inn)))
    || !x.isFirst e.seq

/-- Whether two entries may not stand together. -/
def Binding.clashes (a b : Binding) : Bool :=
  a.lq == b.lq || (!a.die && !b.die && a.pair == b.pair)
    || (!a.die && !b.die && a.mem && b.mem && a.seq == b.seq && a.peer == b.peer)
/-- Whether some two entries of a table clash. -/
def anyClash : List Binding → Bool
  | [] => false
  | b :: bs => bs.any b.clashes || anyClash bs

/-- The bindings of a launch, or the code that refuses its table. LBIND is a local physical address: one above [44:0] is none, and
cannot be read. With entries and LBIND 0 the table is read at local address 0 (log 67, DESIGN CHOICE). -/
def State.bindTable (s : State) (x : Launch) : Except Nat (List Binding) :=
  let ext := x.fld 0x48 0 8
  let n := ext + x.fld 0x48 8 8
  let pa := x.fld 0x40 0 64
  let a := pa % 2 ^ 45
  if n = 0 then (if pa % 16 = 0 then .ok [] else .error 7)
  else
    let r := s.read false a (16 * n)
    let ls := tab n fun i => a + 16 * i
    if 2 ^ 45 ≤ pa || !(ls.all fun l => s.inMem l && s.wallKind l == 0) || r.pois || r.integ.isSome then
      .error 6
    else
      let es := tab n fun i => (r.data.drop (16 * i)).take 16
      let bs := es.map bindingOf
      if a % 16 != 0 || 128 < ext || 128 < n - ext
          || (tab n fun i => x.badEntry s.hub.pkg.toNat ext i (nth [] es i)).any id || anyClash bs then .error 7
      else .ok bs

/-! ## Checks of a record (R45) -/

/-- Whether a reserved bit of the record is set (R44). -/
def Launch.reservedSet (x : Launch) : Bool :=
  ((List.range 6).any fun i => if i < x.nlev then decide (2 ^ 27 ≤ x.levWord i) else x.levWord i != 0)
    || x.fld 0x30 7 1 != 0 || x.fld 0x30 24 40 != 0 || x.fld 0x48 27 37 != 0 || x.fld 0x50 11 5 != 0 || x.fld 0x50 25 39 != 0
    || (List.range 4).any (fun b => x.fld (0x58 + 8 * b) 31 1 != 0 && x.fld (0x58 + 8 * b) 0 4 != 0)
    || (List.range 2).any (fun n => decide (2 ^ 16 ≤ x.ntf n))

/-- Whether the loop nest is refused (code 0x03). -/
def Launch.badNest (x : Launch) : Bool :=
  let tw (i : Nat) : Nat := bits (x.levWord i) 20 5
  let marks := x.levels.map (·.2)
  x.nlev == 0 || decide (6 < x.nlev) || decide (32 < (List.range x.nlev).foldl (fun n i => n + tw i) 0)
    || (List.range x.nlev).any (fun i => decide (16 < tw i))
    || decide (1 < (marks.filter (· == markP)).length) || decide (1 < (marks.filter (· == markX)).length)
    || x.levels.any fun l => l.2 == markP && decide (4 < l.1)

/-- The conditions of R45 with their codes, in rising order, for a record that has been read. -/
def State.recordErrs (s : State) (q : LQueue) (x : Launch) : List (Nat × Bool) :=
  let k := s.keyDom x.domain
  let table (c : Nat) : Bool := match s.bindTable x with
    | .error e => e == c
    | .ok _ => false
  let wBad := decide (4 < x.fld 0x30 2 3)
  [(1, wBad), (2, wBad || !s.fitsAtAll x.cls), (3, x.badNest), (4, x.domain != q.dom || !k.prov || k.ending), (5, x.reservedSet),
   (6, table 6), (7, table 7), (8, decide (32 < x.cls.cslot)),
   (9, x.fld 0 0 2 != 0 || (x.levels.any (fun l => l.2 == markX) && x.fld 0x40 0 64 == 0)),
   (10, x.fld 0x50 7 1 != 0 && !q.rootq)]

/-- The reason code of a record, 0 where it is accepted. -/
def State.recordCode (s : State) (q : LQueue) (x : Launch) : Nat :=
  (((s.recordErrs q x).find? (·.2)).map (·.1)).getD 0

/-! ## Posting (R41, R42) -/

/-- Whether an agent may advance the tail of a queue (R41). -/
def LQueue.mayPost (q : LQueue) (ag : HubAgent) : Bool :=
  q.en && (if q.rootq then ag == .mgmt
    else match q.src with
      | 0 => ag == .host0
      | 1 => ag == .host1
      | 2 => ag == .sidecar
      | _ => false)

/-- The LAUNCH word of a record about a queue's entry: no launch slot. -/
def queueWord (n : Nat) (i : BitVec 16) : Nat := n % 64 * 256 + i.toNat * 16384

/-- A tail write (R41, R307): accepted, or discarded with its error. -/
def State.tailWrite (s : State) (ag : HubAgent) (n : Nat) (v : W64) : State :=
  let q := s.lqOf n
  let t := BitVec.ofNat 16 v.toNat
  if 64 ≤ n then s
  else if !q.mayPost ag then
    (s.setLq n { q with srcerr := true }).err { cls := 0, src := 0, code := 0x81, launch := queueWord n t }
  else if 2 ^ q.size < (t - q.head).toNat then
    (s.setLq n { q with ovr := true }).err { cls := 0, src := 0, code := 0x80, launch := queueWord n t }
  else
    let wake := s.hub.power == 2 || s.hub.entering == 2
    let s := s.setLq n { q with tail := t }
    { s with hub := { s.hub with wakeDue := s.hub.wakeDue || wake } }

/-- A tail write of an agent outside the pieces. -/
def execLqtailWrite (ag : HubAgent) (n : Nat) (v : W64) (s : State) : Host.Outcome State Fault Refusal :=
  s.byAgent ag fun s => s.tailWrite ag n v

/-- Whether a launch slot still holds something of its launch. -/
def Launch.busy (x : Launch) : Bool := x.st != .none && (x.open || x.live != 0 || x.binds.any fun b => b.claimed && !b.lost)
/-- Whether a pair is still held for a launch slot. -/
def State.slotHeld (s : State) (l : Nat) : Bool := s.links.pairs.any fun kv => kv.2.launch == some l
/-- The first free launch slot: at most 256 launches that have not ended (R42). -/
def State.freeLaunch (s : State) : Option Nat := (List.range 256).find? fun l => !(s.launch l).busy && !s.slotHeld l

/-- Whether barrier wait `b` of a record is met now (R47). One whose bytes are poisoned is not (log 67, DESIGN CHOICE). -/
def State.barMet (s : State) (x : Launch) (b : Nat) : Bool :=
  let v := x.fld (0x58 + 8 * b) 0 31
  !s.poisoned true v 16
    && decide (0 ≤ verD (BitVec.ofNat 32 (s.barWord v 3)) (BitVec.ofNat 32 (x.fld (0x58 + 8 * b) 32 32)))
/-- The waits of a record in use: 0 to 3 barriers, 4 and 5 notify. -/
def Launch.usedWaits (x : Launch) : List Nat :=
  ((List.range 4).filter fun b => x.fld (0x58 + 8 * b) 31 1 != 0)
    ++ ((List.range 2).filter fun n => bitAt (x.ntf n) 8).map (4 + ·)
/-- Whether a wait is met at acceptance. -/
def State.waitMet (s : State) (x : Launch) (w : Nat) : Bool :=
  if w < 4 then s.barMet x w else notifyWaitMet (x.ntf (w - 4)) (s.notifyVal (bits (x.ntf (w - 4)) 0 8))

/-- A launch becomes READY: its die-to-die queues open (R281). One none of whose tasks is this package's, with RANK not below the X
count, stays READY (log 67, DESIGN CHOICE). -/
def State.enterReady (s : State) (l : Nat) : State :=
  let x := s.launch l
  let s := s.setLaunch l { x with st := .ready }
  x.binds.foldl (fun s b => if b.die then s.setLinkQ (linkQKey l b.lq) (linkQOf l b) else s) s

/-- The 128 bytes of the record at the head of a queue, or none where they cannot be read: the ring lies in general
granules of local memory, as the hub's other reads do (R78, log 33, DEDUCED). -/
def State.ringRecord (s : State) (q : LQueue) : Option (List Byte) :=
  let a := q.entry q.head
  let r := s.read false a 128
  if !s.inMem a || s.wallKind a != 0 || r.pois || r.integ.isSome then none else some r.data

/-- A rejected record is consumed (R45). The source of a ROOTQ queue is the management core, which takes no interrupt. -/
def State.rejectRecord (s : State) (n code : Nat) : State :=
  let q := s.lqOf n
  let s := s.setLq n { q with head := q.head + 1, rej := true, lasterr := BitVec.ofNat 8 code, clamp := q.clamp.erase q.head.toNat }
  (s.err { cls := 1, src := 0, code := code, launch := queueWord n q.head }).sourceErr (if q.rootq then 4 else q.src)

/-- An accepted record becomes a launch (R43, R45 to R47). -/
def State.acceptRecord (s : State) (n slot : Nat) (x : Launch) : State :=
  let q := s.lqOf n
  let prio := Nat.min (x.fld 0x50 4 3) q.pmax
  let prio := match SMap.get 0 q.clamp q.head.toNat with
    | 0 => prio
    | c => Nat.min prio (c - 1)
  let binds := match s.bindTable x with
    | .ok bs => bs
    | .error _ => []
  let x := { x with st := .waiting, queue := n, index := q.head.toNat, posted := q.posted, src := if q.rootq then 4 else q.src
                    prio := prio, eff := prio, binds := binds }
  let used := x.usedWaits
  let x := { x with next := x.from 0, waits := used.filter fun w => !s.waitMet x w }
  let s := s.setLq n { q with head := q.head + 1, posted := q.posted + 1, clamp := q.clamp.erase q.head.toNat }
  let s := s.setLaunch slot x
  let s := { s with links := { s.links with queues := s.links.queues.filter fun kv => kv.2.launch != slot } }
  if used.isEmpty then s.enterReady slot else s

/-- The hub reads and checks the record at the head of a queue (R42, R45). -/
def execLaunchRecordRead (n : Nat) (s : State) : Host.Outcome State Fault Refusal :=
  let q := s.lqOf n
  if q.head = q.tail || s.hub.svc.toNat % 4 = 0 then .next s
  else
    match s.freeLaunch with
    | none => .next s
    | some slot =>
      let s := s.detect false (q.entry q.head) 128
      match s.ringRecord q with
      | none => .next (s.rejectRecord n 6)
      | some b =>
        let x : Launch := { image := b }
        let s := s.detect false (x.fld 0x40 0 64 % 2 ^ 45) (16 * (x.fld 0x48 0 8 + x.fld 0x48 8 8))
        match s.recordCode q x with
        | 0 => .next (s.acceptRecord n slot x)
        | c => .next (s.rejectRecord n c)

/-- A launch whose last wait has been met becomes READY (R47). -/
def execLaunchWaitMet (l : Nat) (s : State) : Host.Outcome State Fault Refusal :=
  let x := s.launch l
  .next (if x.st == .waiting && x.waits.isEmpty then s.enterReady l else s)

/-- After 2^24 cycles without a grant the effective priority rises, once in a launch's life (R51). -/
def execAgingStep (l : Nat) (s : State) : Host.Outcome State Fault Refusal :=
  let x := s.launch l
  if x.open && !x.aged && 2 ^ 24 ≤ x.age then .next (s.setLaunch l { x with aged := true, eff := Nat.min (x.eff + 1) 7 })
  else .next s

/-! ## Notify writes (R89, R295, R307) -/

/-- Whether an agent may write a notify register: the hosts and the sidecar where NCFG lets them (R89). -/
def NCfg.mayWrite (c : NCfg) (ag : HubAgent) : Bool :=
  match ag with
  | .host0 => c.hostw
  | .host1 => c.hostw
  | .sidecar => c.sidew
  | _ => true

/-- A notify write of an agent outside the pieces; one that NCFG refuses writes an error record (R89, R361). -/
def State.agentNotify (s : State) (ag : HubAgent) (how n : Nat) (v : W64) : State :=
  if 256 ≤ n then s
  else if !(s.ncfgOf n).mayWrite ag then
    s.err { cls := 0, src := 3, code := 5, addr := n, detail := if ag == .host1 then 1 else 0 }
  else s.setNotify n (notifyCombine how (s.notifyVal n) v)

/-- A write that replaces a notify register (R89). -/
def execNotifyWriteReplace (ag : HubAgent) (n : Nat) (v : W64) (s : State) : Host.Outcome State Fault Refusal :=
  s.byAgent ag fun s => s.agentNotify ag 0 n v
/-- A write that ORs into a notify register (R89). -/
def execNotifyWriteOr (ag : HubAgent) (n : Nat) (v : W64) (s : State) : Host.Outcome State Fault Refusal :=
  s.byAgent ag fun s => s.agentNotify ag 1 n v
/-- A write that adds to a notify register (R89). -/
def execNotifyWriteAdd (ag : HubAgent) (n : Nat) (v : W64) (s : State) : Host.Outcome State Fault Refusal :=
  s.byAgent ag fun s => s.agentNotify ag 2 n v

end Sys2Proof.Machine
end

