-- ==== Sys2Proof/Machine/Alloc.lean ====
section
/-! DEFINITION. The allocator: which launch comes next (R50, R53, R62), where its piece goes (R54, R55), reservations
(R56), grants with the state of the first task (R34, R58, R70, R81, R413), and the start of a task (R34). -/

namespace Sys2Proof.Machine

/-! ## Tasks start -/

/-- The element planes stay, and the gating of the element goes on (R274); everything else of an element is reset at the start of
a task (R34, R243, R244, R255). -/
def Elem.atTaskStart (x : Elem) : Elem :=
  { face := x.face, lining := x.lining, faceNew := x.faceNew, idle := x.idle, gate := x.gate, wakeAt := x.wakeAt }

/-- The B planes that `m.keep` holds stay; everything else of the matrix engine is reset, and a new task has new undefined
contents (R34, R216). -/
def Matrix.atTaskStart (m : Matrix) : Matrix :=
  { planes := m.planes.filter fun kv => kv.2.hold, nests := m.nests, toile := m.toile, epoch := m.epoch + 1, lastUse := m.lastUse }

/-- The S registers at the start of a task (R34). -/
def Launch.startRegs (x : Launch) (pos : Nat) : SMap W64 :=
  let is := x.tuple pos
  let m := (List.range is.length).foldl (fun m l => SMap.set 0 m (26 + l) (BitVec.ofNat 64 (nth 0 is l))) []
  SMap.set 0 (SMap.set 0 m 1 (BitVec.ofNat 64 (x.fld 0x10 0 64))) 2 (BitVec.ofNat 64 pos)

/-- A task starts on a piece: the state of R34. -/
def Piece.startTask (p : Piece) (x : Launch) (pos : Nat) : Piece :=
  let e : EngSt := { pc := BitVec.ofNat 64 (x.fld 0 0 64) }
  { live := true, launch := p.launch, seqPos := p.seqPos, taskPos := pos
    panel := p.panel, row0 := p.row0, col0 := p.col0, hLog := p.hLog, wLog := p.wLog, eb := p.eb
    thread := p.thread, bay := p.bay, vbase := p.vbase, vunits := p.vunits, cslot := p.cslot
    regs := x.startRegs pos
    sys := { p.sys with sem := 0xC, priv := if x.fld 0x50 7 1 = 1 then 2 else 0 }
    s := e, c := e, m := e, f := e
    mx := p.mx.atTaskStart
    blk := { side := p.blk.side, x0 := p.blk.x0, y0 := p.blk.y0, elems := p.blk.elems.map fun kv => (kv.1, kv.2.atTaskStart) }
    result := p.result, faceDue := p.faceDue, stall := 0, lastRun := p.lastRun }

/-- The launch's account of a task that starts: the walker goes on, and the last start makes it DRAINING (R46). -/
def Launch.startTask (x : Launch) (pos p panel : Nat) : Launch :=
  let first := x.seqOf pos
  let next := x.from (pos + 1)
  let q : Seq := { first := first, next := x.after pos, place := .held p, panel := panel }
  let seqs := if (x.seq first).isSome then x.seqs.map fun r => if r.first = first then q else r else x.seqs ++ [q]
  { x with next := next, live := x.live + 1, seqs := seqs
           st := if x.total ≤ next then .draining else .running }

/-- The task at a walker position starts on piece `k` of its launch. -/
def State.startTask (s : State) (k pos : Nat) : State :=
  let p := s.pieceOf k
  let x := s.launch p.launch
  let s := s.setLaunch p.launch (x.startTask pos k p.panel)
  s.modPieceAt k (·.startTask x pos)

/-! ## What a launch wants -/

/-- Whether the limits of basting service let a launch run (R62, R305): panel 0 and no external bindings. -/
def State.bastingOk (s : State) (x : Launch) : Bool :=
  s.hub.svc.toNat % 4 != 1
    || (x.fld 0x48 0 8 == 0 && x.cls.positions.any fun o => s.picked 0 o.1 o.2 x.cls)

/-- What a launch waits for a piece for: a switched-out sequence, by its first task, or the first task of a sequence. -/
inductive Want where
  | resume (first area : Nat)
  | start (pos : Nat)
deriving DecidableEq, Repr

/-- The save area of a sequence that has been switched out. -/
def Seq.area (q : Seq) : Option Nat := match q.place with
  | .saved a => some a
  | _ => none

/-- Whether a launch may be granted pieces now: its bindings are complete, and basting service has what it needs. -/
def State.mayWant (s : State) (l : Nat) : Bool :=
  let x := s.launch l
  (x.st == .ready || x.st == .running || x.st == .draining) && x.allBound && s.bastingOk x
/-- What a launch may be granted: its switched-out sequences come before its unstarted tasks (R53). -/
def State.wants (s : State) (l : Nat) : List Want :=
  let x := s.launch l
  if !s.mayWant l then []
  else
    ((x.seqs.findSome? fun q => q.area.map fun a => Want.resume q.first a).map fun w => [w]).getD []
      ++ (if x.next < x.total && (x.seq (x.seqOf x.next)).isNone then [.start x.next] else [])
/-- Whether a launch has a startable task that no piece has been granted, for its age (R50, R51): the next task in walker order,
which no held piece will run. -/
def State.ages (s : State) (l : Nat) : Bool :=
  let x := s.launch l
  s.mayWant l && decide (x.next < x.total) && ((x.seq (x.seqOf x.next)).all fun q => q.area.isSome)

/-- The position whose P index decides the panel. -/
def Want.pos : Want → Nat
  | .resume first _ => first
  | .start pos => pos

/-- The panels that may be granted (R49, R62, R304). -/
def State.grantable (s : State) : List Nat :=
  (List.range 4).filter fun p => bitAt s.hub.svc.toNat (2 + p) && !s.hub.fenced.contains p && (s.hub.svc.toNat % 4 != 1 || p == 0)
    && s.hub.svc.toNat % 4 != 0

/-- The panels a launch searches for a sequence (R53, R55). -/
def State.panelsFor (s : State) (l : Nat) (w : Want) : List Nat :=
  let x := s.launch l
  let ok := s.grantable
  match x.indexAt markP w.pos with
  | none => ok
  | some i =>
    match w with
    | .resume first _ => ok.filter fun p => (x.seq first).any fun q => q.panel == p
    | .start _ =>
      let others := s.pieces.filter fun kv => kv.2.live && kv.2.launch == l && x.indexAt markP kv.2.seqPos != some i
      let free := ok.filter fun p => !others.any fun kv => kv.2.panel == p
      if !free.isEmpty then free
      else if ok.isEmpty then []
      else [nth 0 ok (i % ok.length)]

/-! ## Where a piece fits -/

/-- Whether a core is held by a piece. -/
def State.coreHeld (s : State) (panel row col : Nat) : Bool := s.pieces.any fun kv => kv.2.holds panel row col
/-- Whether a core is reserved for another launch (R57). -/
def State.coreReserved (s : State) (l panel row col : Nat) : Bool :=
  s.hub.launches.any fun kv => kv.1 != l && kv.2.reserves panel row col

/-- Whether a class fits at a position with every core free (R54, R57). -/
def State.fitsAt (s : State) (l : Nat) (c : PClass) (panel : Nat) (o : Nat × Nat) : Bool :=
  s.picked panel o.1 o.2 c
    && (rectCores o.1 o.2 c.h c.w).all (fun k => !s.coreHeld panel k.1 k.2 && !s.coreReserved l panel k.1 k.2)
    && bayFits (s.bayTaken l panel (bayOf o.1 o.2) none) c

/-- The first position at which a launch's piece fits (R55); while it holds a reservation, the position it has reserved is the only
one (R57), but for a sequence that must resume on another panel (R53). -/
def State.firstFit (s : State) (l : Nat) (w : Want) : Option (Nat × Nat × Nat) :=
  let x := s.launch l
  let c := x.cls
  let search := (s.panelsFor l w).findSome? fun p => (c.positions.find? fun o => s.fitsAt l c p o).map fun o => (p, o.1, o.2)
  match x.reserve with
  | some (p, r, k) => if !(s.panelsFor l w).contains p then search else if s.fitsAt l c p (r, k) then some (p, r, k) else none
  | none => search
/-- What a launch wants now: the first that it may be granted. A sequence that can use neither the launch's reservation nor a free
position lets the task go first for which the position is reserved. -/
def State.want (s : State) (l : Nat) : Option Want :=
  match s.wants l with
  | [] => none
  | [w] => some w
  | w :: t :: _ =>
    match (s.launch l).reserve with
    | none => some w
    | some (p, _, _) => if (s.panelsFor l w).contains p || (s.firstFit l w).isSome then some w else some t

/-! ## The order of grants (R50) -/

/-- Whether launch `a` comes before launch `b`: by effective priority, by queue after the one last granted, by posting. -/
def State.before (s : State) (a b : Nat) : Bool :=
  let x := s.launch a
  let y := s.launch b
  let turn (z : Launch) : Nat := (z.queue + 64 - SMap.get 0 s.hub.rr z.eff) % 64
  if x.eff != y.eff then decide (y.eff < x.eff)
  else if turn x != turn y then decide (turn x < turn y)
  else if x.posted != y.posted then decide (x.posted < y.posted)
  else decide (a < b)

/-- Whether launch `l` is the one whose grant is due (R50): nobody before it has a startable task. A launch that has no free position
holds back those behind it, until it has reserved one (R56, R58). -/
def State.granteeIs (s : State) (l : Nat) : Bool :=
  s.hub.launches.all fun kv => kv.1 == l || !s.before kv.1 l || (match s.want kv.1 with
    | some w => kv.2.reserve.isSome && (s.firstFit kv.1 w).isNone
    | none => true)

/-! ## Grants -/

/-- A key for a new piece: no piece, and no operation of an earlier one, stands under it. -/
def State.freePiece (s : State) : Nat :=
  let used := (s.pieces.filter fun kv => kv.2.live).map (·.1) ++ s.ops.map (·.piece) ++ s.scatters.map (·.piece)
    ++ s.invokes.map (·.piece) ++ s.links.requests.map (·.piece) ++ s.barEvs.map (·.src)
  ((List.range (used.length + 1)).find? fun k => !used.contains k).getD 0

/-- Clears a vault share (R34, R412). -/
def State.clearVault (s : State) (base n : Nat) : State :=
  let out (a : Nat) : Bool := decide (a < base) || decide (base + n ≤ a)
  let line (k : Nat) : Bool := k % 2 == 0 || out (k / 2)
  { s with vault := s.vault.filter fun kv => out kv.1
           poison := s.poison.filter fun kv => line kv.1
           upset := s.upset.filter fun kv => line kv.1 }

/-- A window register from its template (R70): one that would pass the end of its bay loads as 0. -/
def windowFrom (v : W64) : W64 := if winFits v then v else 0

/-- The system registers at the first task of a sequence (R413). -/
def State.freshSys (s : State) (x : Launch) (bayKey thread : Nat) : SysRegs :=
  let d := x.domain
  { troot := SMap.get 0 s.hub.troots (16 * bayKey + thread)
    tvec := if x.fld 0x50 7 1 = 1 then s.hub.rootvec else s.hub.supvec
    vwin := (List.range 4).foldl (fun m n => SMap.set 0 m n (windowFrom (SMap.get 0 s.hub.dwin (4 * d + n)))) [] }

/-- Takes one of the free resources of a kind: which one is open (log 29, DESIGN CHOICE). -/
def State.pickOf {α : Type} (s : State) (d : α) (xs : List α) : α × State :=
  let (c, s) := s.choose
  (nth d xs (c % xs.length), s)

/-- A piece of a launch's class at a position takes all its resources at once (R55). Its key and the state; the pockets in
its cores and in its thread's bank have been copied to their save areas first (R81). -/
def State.placePiece (s : State) (l first : Nat) (at_ : Nat × Nat × Nat) : Nat × State :=
  let x := s.launch l
  let c := x.cls
  let (panel, row0, col0) := at_
  let bay := bayOf row0 col0
  let ps := s.bayTaken l panel bay none
  let (blk, s) := s.pickOf (0, 0) (freeBlocks ps c.side)
  let (thr, s) := s.pickOf 0 (freeThreads ps)
  let (u, s) := s.pickOf 0 (freeShares ps c.vault)
  let s := (rectCores row0 col0 c.h c.w).foldl (fun s k => s.emptyCore panel k.1 k.2) s
  let s := s.emptyPockets fun b k n => b == 8 * panel + bay && k == 1 && n == thr
  let k := s.freePiece
  let p : Piece := {
    live := true, launch := l, seqPos := first, taskPos := first, panel := panel, row0 := row0, col0 := col0
    hLog := x.fld 0x30 0 2, wLog := x.fld 0x30 2 3, eb := x.fld 0x30 5 2, thread := thr, bay := bay
    vbase := (8 * panel + bay) * 2 ^ 26 + u * 65536, vunits := c.vault, cslot := c.cslot, atSeam := true
    blk := { side := c.side, x0 := blk.1, y0 := blk.2 } }
  let s := State.joinBlocks { s with pieces := s.pieces.insert k p } k
  (k, s.setLaunch l { s.launch l with reserve := none, poolRec := false })

/-- The queue of a launch has been granted at its priority (R50), and its age starts again (R51). -/
def State.noteGrant (s : State) (l : Nat) : State :=
  let x := s.launch l
  State.setLaunch { s with hub := { s.hub with rr := s.hub.rr.insert x.eff ((x.queue + 1) % 64) } } l { x with age := 0 }

/-- The allocator grants a piece to a launch and its task starts (R55, R34). -/
def execPieceGrant (l : Nat) (s : State) : Host.Outcome State Fault Refusal :=
  match s.want l with
  | some (.start pos) =>
    match s.firstFit l (.start pos) with
    | none => .next s
    | some at_ =>
      if !s.granteeIs l then .next s
      else
        let x := s.launch l
        let (k, s) := (s.noteGrant l).placePiece l pos at_
        let p := s.pieceOf k
        let s := s.clearVault p.vbase (p.vunits * 65536)
        let s := s.modPieceAt k fun p => { p with
          sys := s.freshSys x (8 * p.panel + p.bay) p.thread, faceDue := x.fld 8 0 64 != 0 && p.blk.side != 0 }
        .next (s.startTask k pos)
  | _ => .next s

/-! ## Reservations (R56) -/

/-- The highest clamped priority, plus 1, of the tasks that hold cores of a rectangle; 0 where all are free. -/
def State.heldPrio (s : State) (panel row0 col0 : Nat) (c : PClass) : Nat :=
  s.pieces.foldl (fun n kv =>
    if (rectCores row0 col0 c.h c.w).any fun k => kv.2.holds panel k.1 k.2 then Nat.max n ((s.launch kv.2.launch).prio + 1) else n) 0

/-- What stays taken in the origin bay of a position once the pieces that overlap it are gone. -/
def State.stayIn (s : State) (l panel : Nat) (o : Nat × Nat) : List Piece :=
  let c := (s.launch l).cls
  (s.bayTaken l panel (bayOf o.1 o.2) none).filter fun p => !(rectCores o.1 o.2 c.h c.w).any fun k => p.holds panel k.1 k.2
/-- What a reservation sets aside in its origin bay (R57): the lowest block, thread and share that stay free. -/
def State.setAside (s : State) (l : Nat) (o : Nat × Nat × Nat) : Nat × Nat × Nat × Nat :=
  let c := (s.launch l).cls
  let ps := s.stayIn l o.1 o.2
  let b := (freeBlocks ps c.side).headD (0, 0)
  (b.1, b.2, (freeThreads ps).headD 0, (freeShares ps c.vault).headD 0)
/-- Whether a position may be reserved for a launch: its cores are free or held below its priority, none is unpicked or
reserved, and the origin bay has the rest once the overlapping pieces are gone. -/
def State.mayReserve (s : State) (l panel : Nat) (o : Nat × Nat) : Bool :=
  let x := s.launch l
  let c := x.cls
  let cores := rectCores o.1 o.2 c.h c.w
  s.picked panel o.1 o.2 c && cores.all (fun k => !s.coreReserved l panel k.1 k.2)
    && decide (s.heldPrio panel o.1 o.2 c ≤ x.prio) && bayFits (s.stayIn l panel o) c

/-- The position a launch reserves: of those that qualify, in the order of R55, the first whose highest held priority is
lowest. -/
def State.reserveAt (s : State) (l : Nat) (w : Want) : Option (Nat × Nat × Nat) :=
  let c := (s.launch l).cls
  let all := ((s.panelsFor l w).map fun p => (c.positions.filter fun o => s.mayReserve l p o).map fun o => (p, o.1, o.2)).flatten
  match all with
  | [] => none
  | a :: _ =>
    let cost (o : Nat × Nat × Nat) : Nat := s.heldPrio o.1 o.2.1 o.2.2 c
    let best := all.foldl (fun n o => Nat.min n (cost o)) (cost a)
    all.find? fun o => cost o == best

/-- The hub reserves a position for a launch that has a startable task and no free position (R56). A pool of 0 units
disables pre-emption (R348). -/
def execPieceReserve (l : Nat) (s : State) : Host.Outcome State Fault Refusal :=
  let x := s.launch l
  match s.want l with
  | none => .next s
  | some w =>
    if x.reserve.isSome || (s.firstFit l w).isSome || s.hub.saveunits = 0 then .next s
    else .next (match s.reserveAt l w with
      | some o => s.setLaunch l { x with reserve := some o, aside := s.setAside l o, poolRec := false }
      | none => s)

end Sys2Proof.Machine
end

