-- ==== Sys2Proof/Machine/CWords.lean ====
section
/-! DEFINITION. The words of the copy engine C (R210 to R215), and the scan of a repeated block that `m.rep` shares. -/

namespace Sys2Proof.Machine

/-! ## Streams of a descriptor -/

/-- The slots that hold streams of descriptor `n`, in start order within one piece. -/
def Piece.slotsOf (p : Piece) (n : Nat) : List Nat := (p.slots.filter fun x => x.2.sd == n).map (·.1)
/-- The first free slot of the piece (R207): CSLOT of the launch record bounds them. -/
def State.freeSlot (s : State) : Option Nat :=
  (List.range (bits (s.recWord 6) 18 6)).find? fun k => (s.piece.slot k).st == .free
/-- The slot that runs the stream of descriptor `n`: running or held (R207). -/
def Piece.runningSlot (p : Piece) (n : Nat) : Option Nat :=
  (p.slotsOf n).find? fun k => (p.slot k).st == .running || (p.slot k).st == .held
/-- That slot, or else the one whose stream is ending. -/
def Piece.latestSlot (p : Piece) (n : Nat) : Option Nat :=
  (p.runningSlot n).orElse fun _ => (p.slotsOf n).find? fun k => (p.slot k).st == .ending

/-! ## `c.go` -/

/-- Where a check of the objects of a descriptor fails: the bound barrier's address and the journal area (R205, R214;
log 23, DEDUCED). -/
def State.descPlace (s : State) (d : Desc) : Option (Nat × W64) :=
  let b := dfld d 20
  let v := b % 2 ^ 31
  let j := dfld d 23
  let jn := 8 + 4 * (dfld d 24 + 1)
  if 2 ^ 31 ≤ b && v % 16 != 0 then some (cMISALIGN, apertureOf v)
  else if 2 ^ 31 ≤ b && !s.inWindow v 16 { write := true } then some (cVAULT_BOUND, apertureOf v)
  else if dfld d 7 = 1 && j % 8 != 0 then some (cMISALIGN, apertureOf j)
  else if dfld d 7 = 1 && !s.inWindow j jn { write := true } then some (cVAULT_BOUND, apertureOf j)
  else none

/-- The header of a journal area as the engines see it: CHECK and the USED entries (R214, R356), or none where a line of
it is poisoned (R369). -/
def State.journal (s : State) (d : Desc) : Option (Nat × List Nat) :=
  let j := dfld d 23
  let h := s.view s.engAgent true j 8 true s.opCount
  let n := Nat.min (ofBytes (h.data.drop 4)) (dfld d 24 + 1)
  let e := s.view s.engAgent true (j + 8) (4 * n) true s.opCount
  if h.pois || (n != 0 && e.pois) then none
  else some (ofBytes (h.data.take 4), tab n fun i => ofBytes ((e.data.drop (4 * i)).take 4))

/-- The stream that `c.go` puts in its slot (R190, R205, R207). -/
def State.newStream (s : State) (n : Nat) (check : Nat) (used : List Nat) (start : Option Nat) : Stream :=
  let d := SMap.get [] s.piece.sd n
  { st := if (s.piece.runningSlot n).isNone then .running else .queued
    sd := n
    desc := d
    order := s.piece.cstarts
    node := BitVec.ofNat 64 (dfld d 18)
    pri := dfld d 9
    credit := dfld d 22
    used := used
    check := check
    deps := s.prune s.piece.c.deps
    after := s.piece.cfence
    start := start }

/-- Starts or queues a checked stream in slot `k`; with BV its start event is handed to the barrier (R88, R211). -/
def State.startStream (s : State) (n k check : Nat) (used : List Nat) : State :=
  let d := SMap.get [] s.piece.sd n
  let b := dfld d 20
  let bound := 2 ^ 31 ≤ b
  let x := s.newStream n check used (if bound then some s.opCount else none)
  let s := s.modPiece fun p => { p.setSlot k x with cstarts := p.cstarts + 1 }
  if bound then s.engBar (b % 2 ^ 31) 1 (bytesBelow d (dtotal d)) none (s.prune s.piece.c.deps) else s

/-- `c.go` (R204, R205, R207, R211). -/
def execCGo (t : BitVec 4) (n : BitVec 4) (s : State) : Host.Outcome State Fault Refusal :=
  s.runWord 1 (.cGo t n) t 0 anyLevel fun s =>
    let d := SMap.get [] s.piece.sd n.toNat
    match s.descTrap d (wordOf (.cGo t n)) with
    | some (c, v) => .trap s c v 0
    | none =>
      match s.descPlace d with
      | some (c, v) => .trap s c v 0
      | none =>
        if 2 ≤ (s.piece.slotsOf n.toNat).length then .hold s
        else match s.freeSlot with
          | none => .hold s
          | some k =>
            if dfld d 7 = 1 then
              let s := s.detect true (dfld d 23) (8 + 4 * (dfld d 24 + 1))
              match s.journal d with
              | none => .trap s cPOISON (apertureOf (dfld d 23)) 0
              | some (check, used) => .done (s.startStream n.toNat k check used)
            else .done (s.startStream n.toNat k 0 [])

/-! ## The other words -/

/-- `c.stop` on one slot (R212): a queued stream is removed, and its bytes land; another sends no further read. -/
def State.stopSlot (s : State) (k : Nat) : State :=
  let x := s.piece.slot k
  if x.st = .queued then
    (s.landBytes k (bytesBelow x.desc (dtotal x.desc)) []).modPiece fun p => p.setSlot k {}
  else s.modSlot k fun x => { x with stop := true }

/-- `c.stop` (R212). -/
def execCStop (t : BitVec 4) (n : BitVec 4) (s : State) : Host.Outcome State Fault Refusal :=
  s.runWord 1 (.cStop t n) t 0 anyLevel fun s =>
    match s.piece.slotsOf n.toNat with
    | [] => .done s
    | ks => .hold (ks.foldl State.stopSlot s)

/-- `c.wait` of one descriptor (R211): its slots are free, so their writes have performed at package scope. -/
def execCWait (t : BitVec 4) (n : BitVec 4) (s : State) : Host.Outcome State Fault Refusal :=
  s.runWord 1 (.cWait t n) t 0 anyLevel fun s => if (s.piece.slotsOf n.toNat).isEmpty then .done s else .hold s

/-- `c.wait all` (R211). -/
def execCWaitAll (t : BitVec 4) (s : State) : Host.Outcome State Fault Refusal :=
  s.runWord 1 (.cWaitAll t) t 0 anyLevel fun s => if s.piece.slots.isEmpty then .done s else .hold s

/-- `c.adv` (R205, R211): credit saturates at 2^20 - 1. -/
def execCAdv (t : BitVec 4) (n : BitVec 4) (v : BitVec 16) (s : State) : Host.Outcome State Fault Refusal :=
  s.runWord 1 (.cAdv t n v) t 0 anyLevel fun s =>
    match s.piece.runningSlot n.toNat with
    | none => .done s
    | some k => .done (s.modSlot k fun x =>
        if dfld x.desc 10 = 1 then { x with credit := Nat.min (x.credit + v.toNat) (2 ^ 20 - 1) } else x)

/-- `c.bar` (R110, R211): an arrival, a release at package scope of what C has taken over and waited for. -/
def execCBar (t : BitVec 4) (n : BitVec 4) (s : State) : Host.Outcome State Fault Refusal :=
  s.runWord 1 (.cBar t n) t 0 anyLevel fun s =>
    let b := dfld (SMap.get [] s.piece.sd n.toNat) 20
    let v := b % 2 ^ 31
    if b < 2 ^ 31 then refuse s (BitVec.ofNat 64 b)
    else if v % 16 != 0 then .trap s cMISALIGN (apertureOf v) 0
    else if !s.inWindow v 16 { write := true } then .trap s cVAULT_BOUND (apertureOf v) 0
    else .done (s.engBar v 0 0 none (s.prune s.piece.c.deps))

/-- `c.jrnl` (R214): waits until every update below the input count at issue has been applied, then writes CHECK and
USED. -/
def execCJrnl (t : BitVec 4) (n : BitVec 4) (s : State) : Host.Outcome State Fault Refusal :=
  s.runWord 1 (.cJrnl t n) t 0 anyLevel fun s =>
    match (s.piece.latestSlot n.toNat).filter fun k => dfld (s.piece.slot k).desc 7 == 1 with
    | none => .done s
    | some k =>
      let x := s.piece.slot k
      let m := x.mark.getD x.seq
      if (s.updates s.focusP (some k)).any fun u => decide (u.2.2 < m) then
        .hold (s.modSlot k fun x => { x with mark := some m })
      else
        let j := dfld x.desc 23
        let s := s.modSlot k fun x => { x with mark := none }
        .done ((s.write true j (bytesOf 4 m ++ bytesOf 4 0)).getD s)

/-- `c.flush` (R211): the partly filled token, or the partly filled ec8 unit, goes out before new lanes are taken. -/
def execCFlush (t : BitVec 4) (n : BitVec 4) (s : State) : Host.Outcome State Fault Refusal :=
  s.runWord 1 (.cFlush t n) t 0 anyLevel fun s =>
    match s.piece.runningSlot n.toNat with
    | none => .done s
    | some k =>
      let x := s.piece.slot k
      let busy := x.st == .running || x.st == .held
      if s.piece.c.waitQ then (if busy && x.flush then .hold s else .done s)
      else
        let due := if dfld x.desc 15 = 0 then dfld x.desc 2 == 10 && !dpack x.desc && !x.bits.isEmpty else x.part
        if busy && due then
          .hold ((s.modSlot k fun x => { x with flush := true }).modPiece fun p => { p with c := { p.c with waitQ := true } })
        else .done s

/-- `c.lnk` (R211, R394). -/
def execCLnk (t : BitVec 4) (l : BitVec 3) (q : BitVec 8) (s : State) : Host.Outcome State Fault Refusal :=
  s.step5 1 (.cLnk t l q) t (s.linkKey q.toNat true).isNone <|
  s.runWord 1 (.cLnk t l q) t 0 anyLevel fun s =>
    match s.pushLink q.toNat (hemTok l.toNat) with
      | .pushed s => .done s
      | .lost p => .trap s cLINK_LOST (BitVec.ofNat 64 q.toNat) (BitVec.ofNat 64 p)
      | _ => .wait s

/-- `c.fence` (R213): later streams follow the operations of the present ones at a scope. -/
def execCFence (t : BitVec 4) (sc : BitVec 3) (s : State) : Host.Outcome State Fault Refusal :=
  s.runWord 1 (.cFence t sc) t 0 anyLevel fun s =>
    let there := s.piece.slots.map (·.2.order) ++ (s.piece.cdone.filter fun x => !s.opDone x.2 sc.toNat).map (·.1)
    let now : List Dep := there.eraseDups.map fun n => { op := n, scope := sc.toNat }
    let old := s.piece.cfence.filter fun d => !s.streamsDone [d]
    .done (s.modPiece fun p => { p with cfence := old ++ now })

/-- `c.pri` (R207, R211). -/
def execCPri (t : BitVec 4) (n : BitVec 4) (v : BitVec 3) (s : State) : Host.Outcome State Fault Refusal :=
  s.runWord 1 (.cPri t n v) t 0 anyLevel fun s =>
    .done ((s.piece.slotsOf n.toNat).foldl (fun s k => s.modSlot k fun x => { x with pri := v.toNat }) s)

/-! ## Repeated blocks (R215) -/

/-- Whether a word between a rep word of engine `e` and the end of its block makes the rep word ILLEGAL: a fanned branch,
`s.end`, another rep word of the engine. -/
def repBars (e w : Nat) : Bool :=
  let major := bits w 20 6
  (bits w 30 2 == 0 && ((major == 0x20 || major == 0x21) && bitAt w 19 || (major == 0x30 && bits w 0 5 == 5)))
    || (bits w 30 2 == e && bits w 21 5 == (if e = 1 then 10 else 12))

/-- What scanning the block of a rep word comes to. -/
inductive RepRes where
  | ok (s : State)
  | bad (s : State) (code : Nat) (adr tloc : W64)
  | barred (s : State)

/-- Scans the text from an address until `len` words of engine `e` have been counted; `n` bounds the words scanned: the
canonical addresses end before it does. -/
def State.scanRep (e : Nat) : Nat → Nat → W64 → State → RepRes
  | 0, _, _, s => .barred s
  | n + 1, len, a, s =>
    match s.fetch a with
    | .bad s c l => .bad s c a l
    | .word s w =>
      if repBars e w then .barred s
      else
        let len := if bits w 30 2 = e then len - 1 else len
        if len = 0 then .ok s else State.scanRep e n len (a + 4) s

/-- A rep word of engine `e` (R215). -/
def State.rep (s : State) (e : Nat) (i : Instr) (len count : Nat) : Res :=
  let pc := (s.piece.eng e).pc
  match s.scanRep e (2 ^ 55) len (pc + 4) with
  | .bad s c a l => .trap s c a l
  | .barred s => illegal s i
  | .ok s => .done (s.modPiece fun p =>
      p.setEng e { p.eng e with rep := some (pc + 4, len, len + 1, count) })

/-- `c.rep` (R215). -/
def execCRep (t : BitVec 4) (l : BitVec 5) (c : BitVec 12) (s : State) : Host.Outcome State Fault Refusal :=
  s.runWord 1 (.cRep t l c) t 0 anyLevel fun s => s.rep 1 (.cRep t l c) l.toNat (c.toNat + 1)

end Sys2Proof.Machine
end

