-- ==== Sys2Proof/Machine/MatArith.lean ====
section
/-! DEFINITION. The arithmetic of the matrix cores: elements (R134, R135), block alignment of A and B (R136, R137),
special values (R138), the order of sums (R139), int8 (R140), and the toile product (R231). -/

namespace Sys2Proof.Machine

/-- An element of A or B: sign, integer significand and exponent of its lowest bit (R135), or a special value: 1 and 2
infinities, 3 NaN. -/
structure MEl where
  neg  : Bool := false
  mag  : Nat := 0
  q    : Int := 0
  spec : Nat := 0
deriving DecidableEq, Repr

/-- The format in which the cores take a format: ec8 blocks decode to e4m3. -/
def coreFmt (f : Nat) : Nat := if f = 10 then 3 else f

/-- Reads an element (R135, R140). -/
def mEl (f v : Nat) : MEl :=
  if f = 6 then { neg := decide (sgn 8 v < 0), mag := (sgn 8 v).natAbs }
  else match fmtVal (coreFmt f) v with
    | .zero s => { neg := s }
    | .fin s m e => { neg := s, mag := m, q := e }
    | .inf s => { neg := s, spec := if s then 2 else 1 }
    | .nan s => { neg := s, spec := 3 }

/-- Significand bits p of a format (R135). -/
def sigBits (f : Nat) : Nat := fmtM (coreFmt f) + 1
/-- Guard planes G of an A format (R136). -/
def guardBits (f : Nat) : Nat :=
  match coreFmt f with
  | 5 => 2
  | 3 => 4
  | 2 => 8
  | _ => 5

/-- The largest exponent over the nonzero finite elements of a block. -/
def blockQ (els : List MEl) : Option Int :=
  els.foldl (fun b x => if x.spec != 0 || x.mag == 0 then b else match b with
    | none => some x.q
    | some q => some (if q < x.q then x.q else q)) none

/-- An element aligned to exponent `u`, truncated toward zero in magnitude. -/
def alignEl (x : MEl) (u : Int) : Int :=
  let m : Int := (floorShift x.mag (x.q - u) : Nat)
  if x.spec != 0 then 0 else if x.neg then -m else m

/-- A block of A as a core takes it: its elements, their aligned integers and the exponent (R136). -/
structure ABlock where
  els : List MEl
  val : List Int
  u   : Int

/-- Aligns a block of A. -/
def alignA (f : Nat) (codes : List Nat) : ABlock :=
  let els := codes.map (mEl f)
  let u := if f = 6 then 0 else match blockQ els with
    | some q => q - (guardBits f : Nat)
    | none => 0
  { els := els, val := els.map fun x => alignEl x u, u := u }

/-- Exponent of a block of a B column (R137). -/
def bExp (f : Nat) (els : List MEl) : Int :=
  if f = 6 then 0 else match blockQ els with
    | some q => q - ((15 - sigBits f : Nat) : Int)
    | none => 0

/-- A cell: sign and 15 magnitude bits. -/
def cellPut (v : Int) (neg : Bool) : BitVec 16 := BitVec.ofNat 16 (v.natAbs % 2 ^ 15 + (if neg then 2 ^ 15 else 0))
/-- The integer of a cell. -/
def cellInt (c : BitVec 16) : Int := if bitAt c.toNat 15 then -((c.toNat % 2 ^ 15 : Nat) : Int) else ((c.toNat % 2 ^ 15 : Nat) : Int)

/-- The mark of a cell: a special value, or 4 for a nonzero element that truncation made zero. -/
def cellSpec (x : MEl) (v : Int) : Nat := if x.spec != 0 then x.spec else if v = 0 && x.mag != 0 then 4 else 0

/-- Turns the raw element codes of a filled plane into cells and block exponents (R137). -/
def fillPlane (f krows : Nat) (p : BPlane) : BPlane :=
  let code (k n : Nat) : Nat := if k < krows then (SMap.get (0 : BitVec 16) p.cells (128 * k + n)).toNat else 0
  let block (b n : Nat) : List MEl := tab 32 fun i => mEl f (code (32 * b + i) n)
  let exps := (tab 3 fun b => tab 128 fun n => (128 * b + n, bExp f (block b n))).flatten
  let val (k n : Nat) : Int := alignEl (mEl f (code k n)) (SMap.get 0 exps (128 * (k / 32) + n))
  let keys := (tab 96 fun k => tab 128 fun n => (k, n)).flatten
  { p with
    st := .loaded, fresh := false, krows := krows, isInt := f == 6
    cells := keys.filterMap fun x =>
      let c := cellPut (val x.1 x.2) (mEl f (code x.1 x.2)).neg
      if c = 0 then none else some (128 * x.1 + x.2, c)
    exps := exps.filter fun x => x.2 != 0
    spec := keys.filterMap fun x =>
      let c := cellSpec (mEl f (code x.1 x.2)) (val x.1 x.2)
      if c = 0 then none else some (128 * x.1 + x.2, c)
    bad := [] }

/-- One product term of a block, for the tests of R138: A element, B cell and its mark. -/
structure Term where
  a    : MEl
  av   : Int
  bv   : Int
  bneg : Bool
  bs   : Nat

/-- Whether A is zero. -/
def Term.aZero (t : Term) : Bool := t.a.spec == 0 && t.a.mag == 0
/-- Whether B is zero: not a nonzero element that truncation made zero. -/
def Term.bZero (t : Term) : Bool := t.bs == 0 && t.bv == 0
/-- Whether A is infinite. -/
def Term.aInf (t : Term) : Bool := t.a.spec == 1 || t.a.spec == 2
/-- Whether B is infinite. -/
def Term.bInf (t : Term) : Bool := t.bs == 1 || t.bs == 2

/-- The block result (R138, R139): `u` is the sum of the exponents. -/
def blockRes (ts : List Term) (u : Int) : Lane × FFlags :=
  let nan := ts.any fun t => t.a.spec == 3 || t.bs == 3
  let bad := ts.any fun t => (t.aInf && t.bZero) || (t.bInf && t.aZero)
  let infs := ts.filter fun t => t.aInf || t.bInf
  let pos := infs.any fun t => t.a.neg == t.bneg
  let neg := infs.any fun t => t.a.neg != t.bneg
  if nan || bad then (wifNan false, if bad then flNV else 0)
  else if pos && neg then (wifNan false, flNV)
  else if !infs.isEmpty then (wifInf neg, 0)
  else roundDyadic (ts.foldl (fun s t => s + t.av * t.bv) 0) u

/-- The terms of block `b` at column `n`. -/
def termsOf (a : ABlock) (p : BPlane) (b n : Nat) : List Term :=
  tab 32 fun i =>
    let k := 128 * (32 * b + i) + n
    let c := SMap.get (0 : BitVec 16) p.cells k
    { a := nth {} a.els i, av := nth 0 a.val i, bv := cellInt c, bneg := bitAt c.toNat 15, bs := SMap.get 0 p.spec k }

/-- The sum of two partial results: RoundWif, or SatI32 with int8 operands (R139, R140). -/
def addPartial (int : Bool) (a b : Lane) : Lane × FFlags := if int then satI32 (laneInt a + laneInt b) else wifAdd a b

/-- The result p of one core at column `n` before anything from above (R139). -/
def coreRes (int : Bool) (bs : List ABlock) (p : BPlane) (n : Nat) : Lane × FFlags :=
  let w (b : Nat) : Lane × FFlags :=
    let a := nth { els := [], val := [], u := 0 } bs b
    let ts := termsOf a p b n
    if int then (intLane (ts.foldl (fun s t => s + t.av * t.bv) 0), 0)
    else blockRes ts (a.u + SMap.get 0 p.exps (128 * b + n))
  let s1 := addPartial int (w 0).1 (w 1).1
  let s2 := addPartial int s1.1 (w 2).1
  (s2.1, (w 0).2 ||| (w 1).2 ||| (w 2).2 ||| s1.2 ||| s2.2)

/-- The blocks of an A row. -/
def rowBlocks (f : Nat) (krows : Nat) (codes : List Nat) : List ABlock :=
  let row := tab 96 fun k => if k < krows then nth 0 codes k else 0
  tab 3 fun b => alignA f ((row.drop (32 * b)).take 32)

/-! ## The toile product (R231) -/

/-- A code of the pattern: those that would be a NaN are replaced by 0. -/
def toileCode (v : Nat) : Nat := if v % 256 = 0x7F || v % 256 = 0xFF then 0 else v % 256

/-- The B pattern as a plane. -/
def toilePlane : BPlane :=
  fillPlane 3 96 { cells := ((tab 96 fun k => tab 128 fun n => (128 * k + n, BitVec.ofNat 16 (toileCode (7 * k + 13 * n + 5)))).flatten) }

/-- The results of a healthy core, as bytes row by row. -/
def toileBytes : List Nat :=
  let p := toilePlane
  ((tab 8 fun r =>
    let bs := rowBlocks 3 96 (tab 96 fun k => toileCode (29 * r + 3 * k + 1))
    (tab 128 fun n => natBytes 5 (coreRes false bs p n).1.toNat).flatten)).flatten

/-- The signature of a healthy core. -/
def toileSig : W64 := BitVec.ofNat 64 (crc64 toileBytes)

end Sys2Proof.Machine
end

