-- ==== Sys2Proof/Machine/MatBase.lean ====
section
/-! DEFINITION. What the matrix engine is built from: its operands (R152, R221 to R223), planes and swaps (R217), passes
(R224), drains (R225), and the toile product (R231). -/

namespace Sys2Proof.Machine

/-! ## Shape -/

/-- Core rows of a piece. -/
def Piece.mh (p : Piece) : Nat := 2 ^ p.hLog
/-- Core columns of a piece. -/
def Piece.mw (p : Piece) : Nat := 2 ^ p.wLog
/-- The key of a B plane: core row, core column, lining. -/
def planeKey (i j : Nat) (lining : Bool) : Nat := 2 * (16 * i + j) + (if lining then 1 else 0)
/-- A plane of a core. -/
def Piece.plane (p : Piece) (i j : Nat) (lining : Bool) : BPlane := SMap.get {} p.mx.planes (planeKey i j lining)
/-- Replaces it. -/
def Piece.setPlane (p : Piece) (i j : Nat) (lining : Bool) (x : BPlane) : Piece :=
  { p with mx := { p.mx with planes := SMap.set {} p.mx.planes (planeKey i j lining) x } }
/-- The cores of a piece, row by row. -/
def Piece.cores (p : Piece) : List (Nat × Nat) := rectCores 0 0 p.mh p.mw
/-- Changes a plane of every core. -/
def Piece.eachPlane (p : Piece) (lining : Bool) (f : BPlane → BPlane) : Piece :=
  p.cores.foldl (fun p x => p.setPlane x.1 x.2 lining (f (p.plane x.1 x.2 lining))) p
/-- Whether a test holds of the linings of all cores. -/
def Piece.allLinings (p : Piece) (f : BPlane → Bool) : Bool := p.cores.all fun x => f (p.plane x.1 x.2 true)

/-- TLOC of a matrix cause (R376): core row, role, core column. -/
def mxLoc (row role col : Nat) : Nat := row + role * 8 + col * 32

/-! ## Bindings (R221) -/

/-- The binding of an operand role and row: A 0, C 1, B 3. -/
def Matrix.bind (m : Matrix) (role row : Nat) : Option (BitVec 10) :=
  match role with
  | 0 => SMap.get none m.bindA row
  | 1 => m.bindC
  | _ => SMap.get none m.bindB row
/-- Whether a result is bound. -/
def Matrix.hasRes (m : Matrix) : Bool := m.res != .none
/-- The first A or B binding that is missing, as TVAL names it. -/
def Piece.unbound (p : Piece) : Option Nat :=
  ((tab p.mh fun i => [(i, 0), (i, 3)]).flatten.find? fun x => (p.mx.bind x.2 x.1).isNone).map fun x => mxLoc x.1 x.2 0
/-- Whether a selector names something the piece has (R152): a bound link queue, an edge port of its block. -/
def State.selHere (s : State) (x : BitVec 10) (out : Bool) : Bool :=
  match selOf x with
  | .l n => (s.linkKey n out).isSome
  | .ep n => decide (n < 4 * s.piece.blk.side)
  | _ => true

/-! ## Operand tokens -/

/-- What taking the next token of an M operand comes to. -/
inductive MTok where
  | tok (s : State) (t : Token)
  /-- A hem has been dropped: try again. -/
  | again (s : State)
  | wait (s : State)
  | trap (s : State) (code : Nat) (val : W64)

/-- The pop of operand `place` has succeeded: its queue trap may be raised again (R346). -/
def Piece.popDone (p : Piece) (place : Nat) : Piece :=
  { p with moved := true, mx := { p.mx with qtrap := p.mx.qtrap.filter fun x => x != place } }

/-- A popped token as an operand (R222, R223): `was` is the state with the token still in place. -/
def mClass (was now : State) (t : Token) : MTok :=
  match t.kind with
  | .data => .tok now t
  | .control => .tok now t
  | .hem => .again now
  | _ => .trap was cFORMAT (BitVec.ofNat 64 (t.kind.code + t.level.toNat * 16))

/-- M waits on an empty q: QUEUE_EMPTY through QTRAP.QE, as it governs M in this cycle (R194), is raised once for the blocked
pop (R28, R346, R409). -/
def Piece.mEmpty (p : Piece) (n place : Nat) (async : Bool) : Piece :=
  let p := { p with m := { p.m with waitQ := true }, blocked := true }
  if bitAt p.sys.qtrapNow.toNat 50 && !p.mx.qtrap.contains place then
    Piece.raise { p with mx := { p.mx with qtrap := place :: p.mx.qtrap } }
      { code := cQUEUE_EMPTY, unit := 2, async := async, val := queueVal 0 n 0 0, loc := BitVec.ofNat 64 place }
  else p

/-- Takes the next token of an M operand from its selector. A poisoned entry stays at the head (R369). A q whose head entry is
reserved and not filled is empty for QTRAP.QE and for the Mutual case (log 64, DESIGN CHOICE). -/
def State.mTake (s : State) (sel : BitVec 10) (place : Nat) (word : W64) (async : Bool) : MTok :=
  match selOf sel with
  | .q n =>
    match s.piece.qOf n with
    | [] => .wait (s.modPiece fun p => p.mEmpty n place async)
    | e :: rest =>
      if e.pois then .trap s cPOISON word
      else match e.tok with
        | none => .wait (s.modPiece fun p => p.mEmpty n place async)
        | some t => mClass s (s.modPiece fun p => (p.setQ n rest).popDone place) t
  | .l n =>
    match s.popLink n with
    | .popped u t => mClass s (u.modPiece fun p => p.popDone place) t
    | .lost _ => .trap s cLINK_LOST (BitVec.ofNat 64 n)
    | _ => .wait (s.modPiece fun p => { p with blocked := true })
  | .ep n =>
    match s.piece.epHead n s.time with
    | none => .wait (s.modPiece fun p => { p with blocked := true })
    | some t => mClass s (s.modPiece fun p => (p.epTake n s.time).popDone place) t
  | .y _ => .wait s

/-- Whether a selector is an edge port: its lanes are wif, narrowed on entry. -/
def isEp (x : BitVec 10) : Bool :=
  match selOf x with
  | .ep _ => true
  | _ => false

/-- The elements of a packed token in a format: 4-bit codes low half first. -/
def tokCodes (f : Nat) (t : Token) : List Nat :=
  let bs := (unpackTok t).1
  if fmtBits f = 4 then (bs.map fun b => [b.toNat % 16, b.toNat / 16]).flatten
  else tab (64 * 8 / fmtBits f) fun i => ofBytes ((bs.drop (fmtBits f / 8 * i)).take (fmtBits f / 8))
/-- The elements of an edge port's token: each lane narrowed, with the flags (R222). -/
def epCodes (f : Nat) (t : Token) : List Nat × FFlags :=
  ((tab 16 fun i => (narrow f (t.lane i).val).1), (tab 16 fun i => (narrow f (t.lane i).val).2).foldl (· ||| ·) 0)

/-! ## Swaps (R217, R230) -/

/-- Whether the swap can take place: the lining of every core is Loaded. -/
def Piece.swapReady (p : Piece) : Bool := p.allLinings fun x => x.st == .loaded
/-- Face and lining of every core change places; an `m.ldb` that waits for the swap is released (R222). -/
def Piece.swapB (p : Piece) : Piece :=
  p.cores.foldl (fun p x =>
    let f := p.plane x.1 x.2 false
    let l := p.plane x.1 x.2 true
    (p.setPlane x.1 x.2 false { l with fresh := false }).setPlane x.1 x.2 true { f with fresh := false }) p

/-! ## Accumulators -/

/-- The key of an accumulator lane. -/
def accKey (i j row n : Nat) : Nat := (512 * (16 * i + j) + row) * 128 + n
/-- What an accumulator lane holds: undefined contents are the free value of this task (log 14, DESIGN CHOICE). -/
def Matrix.accLane (m : Matrix) (k : Nat) : Lane :=
  (SMap.get none m.acc k).getD (Config.undefLane (2 ^ 64 + m.epoch * 2 ^ 32 + k))
/-- Writes an accumulator lane. -/
def Matrix.setAcc (m : Matrix) (k : Nat) (v : Lane) : Matrix := { m with acc := SMap.set none m.acc k (some v) }

/-! ## Passes (R224) -/

/-- A free value for a result that the manual does not state, lane by lane. -/
def freeLane (n k : Nat) : Lane := Config.undefLane (2 ^ 100 + n * 2 ^ 20 + k)

/-- The result of core (i, j) at column `n` before anything from above; a face that is not Loaded has no stated contents. -/
def Piece.coreOut (p : Piece) (rows : SMap (List Nat)) (fresh i j n : Nat) : Lane × FFlags :=
  let f := p.plane i j false
  if f.st != .loaded then (freeLane fresh (2048 * i + 128 * j + n), BitVec.ofNat 4 (Config.freeWord fresh).toNat)
  else coreRes (p.mx.afmt == 6) (rowBlocks p.mx.afmt f.krows (SMap.get [] rows i)) f n

/-- The chain of one column: partial results pass from the top core to the bottom one (R139). `n` core rows are left. -/
def Piece.chain (p : Piece) (rows : SMap (List Nat)) (fresh j c : Nat) : Nat → Nat → Option Lane → FFlags → Lane × FFlags
  | 0, _, above, fl => (above.getD 0, fl)
  | k + 1, i, above, fl =>
    let r := p.coreOut rows fresh i j c
    match above with
    | none => p.chain rows fresh j c k (i + 1) (some r.1) (fl ||| r.2)
    | some a =>
      let x := addPartial (p.mx.afmt == 6) r.1 a
      p.chain rows fresh j c k (i + 1) (some x.1) (fl ||| r.2 ||| x.2)

/-- The pass of row `r` at output column `k`: the accumulator lane it makes. -/
def Piece.passLane (p : Piece) (rows : SMap (List Nat)) (cRow : List Lane) (fresh r k : Nat) : Nat × Lane × FFlags :=
  let j := k / 128
  let c := k % 128
  let above := if p.mx.bindC.isSome then some (nth 0 cRow k) else none
  let x := p.chain rows fresh j c p.mh 0 above 0
  let key := accKey (p.mh - 1) j r c
  let y := addPartial (p.mx.afmt == 6) (p.mx.accLane key) x.1
  (key, y.1, x.2 ||| y.2)

/-- Adds a row to a rising list. -/
def addRow : List Nat → Nat → List Nat
  | [], r => [r]
  | x :: xs, r => if r = x then x :: xs else if r < x then r :: x :: xs else x :: addRow xs r

/-- A pass for accumulator row `r` with the row buffer and the C row (R224). -/
def Piece.pass (p : Piece) (fresh r : Nat) : Piece :=
  let outs := tab (128 * p.mw) fun k => p.passLane p.mx.arow p.mx.crow fresh r k
  let m := outs.foldl (fun m x => m.setAcc x.1 x.2.1) p.mx
  let fl := outs.foldl (fun f x => f ||| x.2.2) (0 : FFlags)
  (Piece.flag { p with mx := { m with dirty := addRow m.dirty r, crow := [] } } .matrix fl).count 16 1

/-- The first poisoned accumulator lane of a row, as core column and column (R384). -/
def Piece.badAcc (p : Piece) (r : Nat) : Option (Nat × Nat) :=
  if p.mx.accBad.isEmpty then none
  else ((tab (128 * p.mw) fun k => (k / 128, k % 128)).find? fun x => SMap.get false p.mx.accBad (accKey (p.mh - 1) x.1 r x.2))
/-- The first failing B cell that a pass reads, as core row, core column, K-row and column (R385). -/
def Piece.badCell (p : Piece) : Option (Nat × Nat × Nat × Nat) :=
  (p.cores.filterMap fun x =>
    let f := p.plane x.1 x.2 false
    if f.st != .loaded then none
    else (f.bad.head?).map fun kv => (x.1, x.2, kv.1 / 128, kv.1 % 128)).head?

/-- Zeroes rows of every core; the zero clears poison (R225, R384). -/
def Piece.zeroRows (p : Piece) (rows : List Nat) : Piece :=
  let keys := (rows.map fun r => (p.cores.map fun x => tab 128 fun n => accKey x.1 x.2 r n).flatten).flatten
  let m := { p.mx with dirty := p.mx.dirty.filter fun r => !rows.contains r }
  { p with mx := keys.foldl (fun m k => { m.setAcc k 0 with accBad := m.accBad.erase k }) m }

/-! ## Drains (R225) -/

/-- A lane of a drain: the accumulator read in the drain's form, scaled. -/
def Matrix.drainLane (m : Matrix) (i j row n col : Nat) : Lane × FFlags :=
  let x := m.accLane (accKey i j row n)
  let a : Lane × FFlags := if m.form = 2 then cvtIF x else (x, 0)
  if m.form = 1 then (intLane (laneInt x), 0)
  else
    let sc := SMap.get wifOne m.scale col
    let b := wifMul a.1 sc
    (b.1, a.2 ||| b.2)
/-- The token of a drain (R225). -/
def Piece.drainTok (p : Piece) (row k : Nat) : Token × FFlags :=
  let outs := tab 16 fun i => p.mx.drainLane (p.mh - 1) (k / 8) row (16 * (k % 8) + i) (16 * k + i)
  ({ kind := .data, tag := BitVec.ofNat 32 row, lanes := outs.map fun x => { valid := true, val := x.1 } },
    outs.foldl (fun f x => f ||| x.2) 0)

/-- What pushing a token to the result binding comes to. -/
inductive MPush where
  | done (s : State)
  | wait (s : State)
  | trap (s : State) (code : Nat) (val loc : W64)

/-- Stores the lanes of a drain token through the bound descriptor, as stream writes (R225). -/
def State.storeLanes (d : Desc) : List Lane → State → MPush
  | [], s => .done s
  | v :: vs, s =>
    let fmt := dfld d 2
    let e := elemAt (BitVec.ofNat 64 (dfld d 18)) fmt (doff d s.piece.mx.memN)
    let n := elemBytes fmt
    match s.agPlaces e.1 n (dfld d 1) { write := true, turned := if dfld d 6 = 1 then .liningOnly else .refuse } with
    | .wait s => .wait s
    | .bad s c a l => .trap s c a (l.getD (BitVec.ofNat 64 (mxLoc (s.piece.mh - 1) 2 0)))
    | .ok s ps =>
      let r := scaleOut fmt v (dscale d)
      let bs := match ps with
        | p :: _ => if fmtBits fmt = 4 then State.nibbleAt s.engAgent e.2 r.1 s p else bytesOf n r.1
        | [] => []
      let s := State.agWrite s.engAgent (dfld d 8) s.piece.m.deps 64 ps bs s
      State.storeLanes d vs ((s.modPiece fun p =>
        Piece.flag { p with mx := { p.mx with memN := p.mx.memN + 1 } } .convert r.2).countBytes 13 n)

/-- M waits on a full y: QUEUE_FULL through QTRAP.YF is raised once for the blocked push (R28, R346, R409). -/
def Piece.mFull (p : Piece) (n : Nat) (async : Bool) : Piece :=
  let place := mxLoc (p.mh - 1) 2 0
  let p := { p with blocked := true }
  if bitAt p.sys.qtrapNow.toNat 51 && !p.mx.qtrap.contains place then
    Piece.raise { p with mx := { p.mx with qtrap := place :: p.mx.qtrap } }
      { code := cQUEUE_FULL, unit := 2, async := async, val := queueVal 1 n 0 0, loc := BitVec.ofNat 64 place }
  else p

/-- Pushes a token to the result binding's selector. -/
def State.mPush (s : State) (x : BitVec 10) (t : Token) (async : Bool) : MPush :=
  let place := mxLoc (s.piece.mh - 1) 2 0
  match selOf x with
  | .y n =>
    if s.piece.yFull n then .wait (s.modPiece fun p => p.mFull n async)
    else .done (s.modPiece fun p => (p.pushY n t).popDone place)
  | .l n =>
    match s.pushLink n t with
    | .pushed s => .done s
    | .lost _ => .trap s cLINK_LOST (BitVec.ofNat 64 n) (BitVec.ofNat 64 place)
    | _ => .wait (s.modPiece fun p => { p with blocked := true })
  | .ep n =>
    if s.piece.epRoom n s.time then .done (s.modPiece fun p => p.deliverEdge n t s.time)
    else .wait (s.modPiece fun p => { p with blocked := true })
  | .q _ => .wait s

/-- Whether the writes of the piece's drains have performed at package scope (R230). -/
def State.drainWritesDone (s : State) : Bool :=
  s.ops.all fun o => !(o.piece == s.focusP && o.agent == s.engAgent && o.kind == .write && o.slot == 64) || s.opDone o.id 3

/-! ## The toile product (R231) -/

/-- Compares a core's signature with TOILREF; a core that differs is unpicked (R387, R389). -/
def State.toileCore (s : State) (i j : Nat) (bad : Bool) : State :=
  let r : W64 × State := if bad then (Config.freeWord s.fresh, { s with fresh := s.fresh + 1 }) else (toileSig, s)
  let s := r.2
  if r.1 = s.hub.toilref then s
  else
    let p := s.piece
    let s := s.modPiece fun p =>
      { p with mx := { p.mx with badSig := if p.mx.badSig.isSome then p.mx.badSig else some (i, j, r.1) } }
    if s.hub.unpicked p.panel (p.row0 + i) (p.col0 + j) then s else s.unpickCore p.panel (p.row0 + i) (p.col0 + j) r.1

/-- The toile product of every core of the piece. Which cores are faulty is open: bit 16 * i + j of the choice. -/
def State.toile (s : State) : State :=
  let (c, s) := s.choose
  let s := s.piece.cores.foldl (fun s x => s.toileCore x.1 x.2 (bitAt c (16 * x.1 + x.2))) s
  s.modPiece fun p =>
    let p := p.eachPlane true fun _ => {}
    Piece.count { p with mx := { p.mx with nests := 0, toile := false } } 18 1

/-- Whether an automatic product may run: the lining of every core is Released and unheld. -/
def Piece.toileFree (p : Piece) : Bool := p.allLinings fun x => x.st == .released && !x.hold

/-- The automatic product that may be due before an `m.go`: run, deferred, or not due. -/
def State.autoToile (s : State) : State :=
  let n := s.hub.toilcfg.toNat % 65536
  let m := s.piece.mx
  if m.toile || (n != 0 && n ≤ m.nests) then
    if s.piece.toileFree then s.toile else s.modPiece fun p => { p with mx := { p.mx with toile := true } }
  else s

end Sys2Proof.Machine
end

