-- ==== Sys2Proof/Machine/MWords.lean ====
section
/-! DEFINITION. The words of the matrix engine M (R218 to R231), and the two steps it takes in the background: a part of
its nest (R229, R230) and a token of a drain (R225). -/

namespace Sys2Proof.Machine

/-- Issues an M word that waits while a nest runs (R218). -/
def State.runM (s : State) (i : Instr) (t : BitVec 4) (body : State → Res) : Host.Outcome State Fault Refusal :=
  s.runWord 2 i t 0 anyLevel fun s => if s.piece.mx.nest.isSome then .hold s else body s

/-- Changes the matrix state of the acting piece. -/
def State.modMx (s : State) (f : Matrix → Matrix) : State := s.modPiece fun p => { p with mx := f p.mx }

/-! ## Nests -/

/-- Level `l` of the table face. -/
def Matrix.lvl (m : Matrix) (l : Nat) : Level := SMap.get {} m.mtFace l

/-- How far below and above its base the rows of levels can reach. -/
def reach : List Level → Int × Int
  | [] => (0, 0)
  | x :: xs =>
    let r := reach xs
    let d : Int := ((x.count : Int) - 1) * x.cstr
    (r.1 + (if d < 0 then d else 0), r.2 + (if d < 0 then 0 else d))
/-- Whether every row stays in 0 to 511. -/
def rowsFit (ls : List Level) (base : Int) : Bool :=
  decide (0 ≤ base + (reach ls).1) && decide (base + (reach ls).2 ≤ 511)
/-- The first row outside 0 to 511 in the order of the tuples (R229). -/
def firstOut : List Level → Int → Int
  | [], base => base
  | x :: xs, base =>
    match (List.range (Nat.min x.count 1025)).find? fun (i : Nat) => !rowsFit xs (base + (i : Int) * x.cstr) with
    | some i => firstOut xs (base + (i : Int) * x.cstr)
    | none => base

/-- The trap of an `m.go` or `m.mma` on its bindings and formats (R134, R221, R229, R305): cause and TVAL. -/
def State.nestTrap (s : State) (drain : Bool) (word : W64) : Option (Nat × W64) :=
  let p := s.piece
  let a := p.mx.afmt
  let b := p.mx.bfmt
  let low (f : Nat) : Bool := f == 2 || f == 3 || f == 4
  match p.unbound with
  | some v => some (cILLEGAL, BitVec.ofNat 64 v)
  | none =>
    if drain && !p.mx.hasRes then some (cILLEGAL, BitVec.ofNat 64 (mxLoc 0 2 0))
    else if (a == 6) != (b == 6) then some (cFORMAT, word)
    else if s.hub.svc.toNat % 4 = 1 && !(low a && low b) then some (cFORMAT, word)
    else none

/-- The A stream of a nest or `m.mma` starts at a token boundary (R223). -/
def Matrix.freshA (m : Matrix) : Matrix := { m with abuf := [], abits := [], aoff := [], arow := [], crow := [] }

/-- The table lining as `m.go` turns it: a write of the same cycle is not in it (R191). -/
def Matrix.turned (m : Matrix) : SMap Level :=
  match m.mtwLast with
  | some (l, _, _, old) => SMap.set {} m.mtLin l old
  | none => m.mtLin
/-- The table after its turn: a write of the same cycle lands in the new lining (R191). -/
def Matrix.turnTable (m : Matrix) : Matrix :=
  let lin := match m.mtwLast with
    | some (l, f, v, _) => SMap.set {} m.mtFace l (((SMap.get {} m.mtFace l).put f v).getD (SMap.get {} m.mtFace l))
    | none => m.mtFace
  { m with mtFace := m.turned, mtLin := lin, mtwLast := none }

/-- `m.go` (R219, R228, R229). The automatic toile product that is due runs first (R231). -/
def execMGo (t : BitVec 4) (l : BitVec 3) (r : BitVec 9) (s : State) : Host.Outcome State Fault Refusal :=
  s.runM (.mGo t l r) t fun s =>
    let word := wordOf (.mGo t l r)
    let ls := tab (l.toNat + 1) fun k => SMap.get ({} : Level) s.piece.mx.turned k
    let base : Int := (r.toNat : Int)
    if !rowsFit ls base then refuse s (BitVec.ofInt 64 (firstOut ls base))
    else match s.nestTrap (ls.any fun x => bitAt x.endA 0) word with
      | some (c, v) => .trap s c v 0
      | none =>
        let n : Nest :=
          { top := l.toNat, rb := r.toNat, idx := List.replicate (l.toNat + 1) 0, last := false
            todo := [.popA, .pass r.toNat], rows := [], word := word }
        .done (s.autoToile.modMx fun m => { m.freshA.turnTable with nest := some n })

/-- `m.wait` (R230). -/
def execMWait (t : BitVec 4) (s : State) : Host.Outcome State Fault Refusal :=
  s.runWord 2 (.mWait t) t 0 anyLevel fun s =>
    if s.piece.mx.nest.isNone && s.piece.mx.drains.isEmpty && s.drainWritesDone then .done s else .hold s

/-- The next tuple in lexicographic order with the level that advanced, from the innermost level outward; none after the
last. The lists run from level L down to 0. -/
def stepIdx : List Nat → List Nat → Nat → Option (List Nat × Nat)
  | i :: is, c :: cs, l =>
    if i + 1 < c then some ((i + 1) :: is, l)
    else match stepIdx is cs (l - 1) with
      | some (js, k) => some (0 :: js, k)
      | none => none
  | _, _, _ => none

/-- The actions of LevelEnd (R230) on the rows a level has reached. -/
def levelEnd (m : Matrix) (rows : List Nat) (l : Nat) : List NestAct :=
  let e := (m.lvl l).endA
  (if bitAt e 0 then [.drain rows] else []) ++ (if bitAt e 1 then [.zero rows] else [])
    ++ (if bitAt e 2 then [.swap] else []) ++ (if bitAt e 3 then [.hem l] else [])

/-- The row of a tuple, level 0 first (R229). -/
def Matrix.rowOf (m : Matrix) (rb : Nat) (idx : List Nat) : Nat :=
  ((tab idx.length fun l => ((nth 0 idx l : Nat) : Int) * (m.lvl l).cstr).foldl (· + ·) (rb : Int)).toNat

/-- The nest goes on to its next tuple, or ends its last runs (R229): the levels inside the one that advanced are
completed. -/
def Matrix.nextTuple (m : Matrix) (n : Nest) : Matrix :=
  let counts := (tab (n.top + 1) fun l => (m.lvl l).count).reverse
  let ends (l : Nat) : List NestAct := levelEnd m (SMap.get [] n.rows l) l
  match stepIdx n.idx.reverse counts n.top with
  | none =>
    { m with nest := some { n with last := true, todo := ((tab (n.top + 1) fun k => ends (n.top - k)).flatten), rows := [] } }
  | some (rev, c) =>
    let idx := rev.reverse
    let acts := (tab (n.top - c) fun k => ends (n.top - k)).flatten ++ (if (m.lvl c).bstr then [.swap] else [])
      ++ (if (m.lvl c).astr then [.popA] else []) ++ [.pass (m.rowOf n.rb idx)]
    { m with nest := some { n with idx := idx, todo := acts, rows := n.rows.filter fun kv => kv.1 ≤ c } }

/-- A nest has run its tuples and its last actions. -/
def Nest.over (n : Nest) : Bool := n.todo.isEmpty && n.last

/-- The next action of a nest. -/
def Matrix.dropAct (m : Matrix) (n : Nest) : Matrix := { m with nest := some { n with todo := n.todo.drop 1 } }

/-- A trap of the nest or of a drain: M stops in place (R218). The traps of a running nest are not raised by the word at
M's program counter. -/
def State.mTrap (s : State) (async : Bool) (code : Nat) (val loc : W64) : State :=
  s.modPiece fun p => Piece.raise { p with m := { p.m with stopped := true } }
    { code := code, unit := 2, async := async, val := val, loc := loc }

/-! ### A rows (R223) and C rows -/

/-- Bits of an A element as the stream packs it. -/
def rowBytes (f : Nat) : Nat := 96 * fmtBits f / 8

/-- Takes packed bytes or ec8 bits of core row `i` into its row buffer, if they hold a row. An ec8 block that fails gives
the bit offset of its header (R132, R376). -/
def Matrix.fillRow (m : Matrix) (i : Nat) : Except Nat (Option Matrix) :=
  if m.afmt = 10 then
    let part := SMap.get [] m.arow i
    let b := SMap.get [] m.abits i
    if ec8Whole b then
      match ec8Block b with
      | none => .error (SMap.get 0 m.aoff i)
      | some r => .ok (some { m with
          arow := SMap.set [] m.arow i (part ++ r.1.map (·.toNat)), abits := SMap.set [] m.abits i r.2
          aoff := SMap.set 0 m.aoff i (SMap.get 0 m.aoff i + (b.length - r.2.length)) })
    else .ok none
  else
    let b := SMap.get [] m.abuf i
    if rowBytes m.afmt ≤ b.length then
      let d := b.take (rowBytes m.afmt)
      let codes := if fmtBits m.afmt = 4 then (d.map fun x => [x.toNat % 16, x.toNat / 16]).flatten
        else tab 96 fun k => ofBytes ((d.drop (fmtBits m.afmt / 8 * k)).take (fmtBits m.afmt / 8))
      .ok (some { m with arow := SMap.set [] m.arow i codes, abuf := SMap.set [] m.abuf i (b.drop (rowBytes m.afmt)) })
    else .ok none

/-- Whether core row `i` has its row. -/
def Matrix.rowIn (m : Matrix) (i : Nat) : Bool := 96 ≤ (SMap.get [] m.arow i).length

/-- A token of an A binding joins what core row `i` holds. -/
def Piece.takeA (p : Piece) (i : Nat) (ep : Bool) (t : Token) : Piece :=
  let m := p.mx
  if ep then
    let r := epCodes m.afmt t
    Piece.flag { p with mx := { m with arow := SMap.set [] m.arow i (SMap.get [] m.arow i ++ r.1) } } .matrix r.2
  else
    let b := (unpackTok t).1
    if m.afmt = 10 then { p with mx := { m with abits := SMap.set [] m.abits i (SMap.get [] m.abits i ++ bitsOfBytes b) } }
    else { p with mx := { m with abuf := SMap.set [] m.abuf i (SMap.get [] m.abuf i ++ b) } }

/-- What one step of taking in operands comes to. -/
inductive Intake where
  | ok (s : State)
  | trap (s : State) (code : Nat) (val : W64) (place : Nat)

/-- One step of popping the A row of core row `i`. -/
def State.intakeA (s : State) (i : Nat) (word : W64) (async : Bool) : Intake :=
  let m := s.piece.mx
  if m.rowIn i then .ok s
  else match m.fillRow i with
    | .error off => .trap s cFORMAT (BitVec.ofNat 64 off) (mxLoc i 0 0)
    | .ok (some m) => .ok (s.modMx fun _ => m)
    | .ok none =>
      match m.bind 0 i with
      | none => .ok s
      | some sel =>
        match s.mTake sel (mxLoc i 0 0) word async with
        | .tok s t => .ok (s.modPiece fun p => p.takeA i (isEp sel) t)
        | .again s => .ok s
        | .wait s => .ok s
        | .trap s c v => .trap s c v (mxLoc i 0 0)

/-- One step of popping the A rows of `k` core rows from row `i`. -/
def State.intakeRows (word : W64) (async : Bool) : Nat → Nat → State → Intake
  | 0, _, s => .ok s
  | k + 1, i, s =>
    match s.intakeA i word async with
    | .ok s => State.intakeRows word async k (i + 1) s
    | r => r

/-- One step of popping the C row. -/
def State.intakeC (s : State) (word : W64) (async : Bool) : Intake :=
  match s.piece.mx.bindC with
  | none => .ok s
  | some sel =>
    match s.mTake sel (mxLoc 0 1 0) word async with
    | .tok s t => .ok (s.modMx fun m => { m with crow := m.crow ++ tab 16 fun i => (t.lane i).val })
    | .again s => .ok s
    | .wait s => .ok s
    | .trap s c v => .trap s c v (mxLoc 0 1 0)

/-! ### The step of a nest -/

/-- A pass of row `r`, its C row first (R224, R384, R385). -/
def State.nestPass1 (s : State) (n : Nest) (r : Nat) : State :=
  let p := s.piece
  let async := !n.mma
  if p.mx.bindC.isSome && p.mx.crow.length < 128 * p.mw then
    match s.intakeC n.word async with
    | .ok s => s
    | .trap s c v pl => s.mTrap async c v (BitVec.ofNat 64 pl)
  else match p.badCell with
    | some (i, j, k, c) => s.mTrap async cPOISON (BitVec.ofNat 64 (k + c * 128)) (BitVec.ofNat 64 (mxLoc i 3 j))
    | none =>
      match p.badAcc r with
      | some (j, c) =>
        s.mTrap async cPOISON (BitVec.ofNat 64 (r + (128 * j + c) * 512)) (BitVec.ofNat 64 (mxLoc (p.mh - 1) 2 j))
      | none =>
        let (f, s) := s.takeFresh
        (s.modPiece fun p => { p.pass f r with moved := true }).modMx fun m =>
          { m with nest := some { n with
              todo := n.todo.drop 1, rows := tab (n.top + 1) fun l => (l, addRow (SMap.get [] n.rows l) r) } }

/-- One action of a nest, or a part of it (R229, R230). -/
def State.nestAct (s : State) (n : Nest) (a : NestAct) : State :=
  let async := !n.mma
  match a with
  | .popA => s.modMx fun m => { m with arow := [], nest := some { n with todo := .intake :: n.todo.drop 1 } }
  | .intake =>
    let p := s.piece
    if (List.range p.mh).all p.mx.rowIn then s.modMx fun m => m.dropAct n
    else match State.intakeRows n.word async p.mh 0 s with
      | .ok s => s
      | .trap s c v pl => s.mTrap async c v (BitVec.ofNat 64 pl)
  | .pass r => s.nestPass1 n r
  | .drain [] => if s.piece.mx.drains.isEmpty then s.modMx fun m => m.dropAct n else s
  | .drain rows => s.modMx fun m =>
      { m with drains := [{ rows := rows, word := n.word }], nest := some { n with todo := .drain [] :: n.todo.drop 1 } }
  | .zero rows => (s.modPiece fun p => p.zeroRows rows).modMx fun m => m.dropAct n
  | .swap => if s.piece.swapReady then (s.modPiece Piece.swapB).modMx fun m => m.dropAct n else s
  | .hem l =>
    match s.piece.mx.res with
    | .sel x =>
      match s.mPush x (hemTok l) async with
      | .done s => s.modMx fun m => m.dropAct n
      | .wait s => s
      | .trap s c v loc => s.mTrap async c v loc
    | _ => s.modMx fun m => m.dropAct n

/-- The M engine carries out one action of its nest (R229): it pops tokens of A and C rows, makes a pass, drains, zeroes,
swaps, pushes a hem, or goes on to the next tuple. -/
def execNestPass (p : Nat) (s : State) : Host.Outcome State Fault Refusal :=
  let back := s.focusP
  let s := s.at p
  let q := s.piece
  match q.mx.nest with
  | none => .next (s.at back)
  | some n =>
    if !q.live || q.m.stopped || q.abort.isSome then .next (s.at back)
    else match n.todo with
      | a :: _ => .next ((s.nestAct n a).at back)
      | [] =>
        if n.over then
          .next ((s.modMx fun m => { m with nest := none, nests := m.nests + (if n.mma then 0 else 1) }).at back)
        else .next ((s.modMx fun m => m.nextTuple n).at back)

/-- A token of a drain is pushed to the result binding, or its lanes are stored (R225). -/
def State.drainPush (s : State) (d : Drain) (row : Nat) (async : Bool) : State :=
  let p := s.piece
  let r := p.drainTok row d.tok
  let poisoned := (List.range 16).find? fun i => SMap.get false p.mx.accBad (accKey (p.mh - 1) (d.tok / 8) row (16 * (d.tok % 8) + i))
  let next (s : State) : State :=
    (s.modPiece fun p => p.flag .matrix r.2).modMx fun m =>
      if d.tok + 1 < 8 * p.mw then { m with drains := [{ d with tok := d.tok + 1 }] }
      else { m with drains := if d.rows.length ≤ 1 then [] else [{ d with rows := d.rows.drop 1, tok := 0 }]
                    dirty := m.dirty.filter (· != row) }
  let go (x : MPush) : State :=
    match x with
    | .done s => next (s.modPiece fun p => { p with moved := true })
    | .wait s => s
    | .trap s c v loc => s.mTrap async c v loc
  match poisoned with
  | some i =>
    s.mTrap async cPOISON (BitVec.ofNat 64 (row + (16 * d.tok + i) * 512)) (BitVec.ofNat 64 (mxLoc (p.mh - 1) 2 (d.tok / 8)))
  | none =>
    match p.mx.res with
    | .none => s
    | .sel x => go (s.mPush x r.1 async)
    | .mem de => go (State.storeLanes de ((r.1.lanes.map (·.val)).drop (p.mx.memN % 16)) s)

/-- A drain pushes a token, or stalls where its destination is full (R225). -/
def execDrainTokenPush (p : Nat) (s : State) : Host.Outcome State Fault Refusal :=
  let back := s.focusP
  let s := s.at p
  let q := s.piece
  let async := (q.mx.nest.map fun n => !n.mma).getD false
  match q.mx.drains with
  | [] => .next (s.at back)
  | d :: _ =>
    if !q.live || q.m.stopped || q.abort.isSome then .next (s.at back)
    else match d.rows with
      | [] => .next ((s.modMx fun m => { m with drains := [] }).at back)
      | row :: _ => .next ((s.drainPush d row async).at back)

/-! ## B planes -/

/-- The B elements of one token for core row `i`. -/
def Piece.takeB (p : Piece) (i : Nat) (ep : Bool) (t : Token) : Piece :=
  let m := p.mx
  let r := if ep then epCodes m.bfmt t else (tokCodes m.bfmt t, 0)
  Piece.flag { p with mx := { m with ldBuf := SMap.set [] m.ldBuf i (SMap.get [] m.ldBuf i ++ r.1) } } .matrix r.2

/-- Stores K-row `n` of core row `i`: core n / krows, K-row n mod krows (R222). -/
def Piece.storeK (p : Piece) (i n krows : Nat) (codes : List Nat) : Piece :=
  let x := p.plane i (n / krows) true
  let cells := (tab 128 fun c => (128 * (n % krows) + c, BitVec.ofNat 16 (nth 0 codes c))).foldl
    (fun m kv => SMap.set 0 m kv.1 kv.2) x.cells
  p.setPlane i (n / krows) true { x with cells := cells }

/-- A full K-row moves from the buffer of core row `i` into the lining. -/
def Piece.landK (p : Piece) (i krows : Nat) : Piece :=
  let b := SMap.get [] p.mx.ldBuf i
  if 128 ≤ b.length then
    let n := SMap.get 0 p.mx.ldRow i
    let p := p.storeK i n krows (b.take 128)
    { p with mx := { p.mx with ldBuf := SMap.set [] p.mx.ldBuf i (b.drop 128), ldRow := SMap.set 0 p.mx.ldRow i (n + 1) } }
  else p

/-- One step of `m.ldb` for core row `i`: a token of its B binding. -/
def State.loadRow (s : State) (i krows : Nat) (word : W64) : Intake :=
  if krows * s.piece.mw ≤ SMap.get 0 s.piece.mx.ldRow i then .ok s
  else match s.piece.mx.bind 3 i with
    | none => .ok s
    | some sel =>
      match s.mTake sel (mxLoc i 3 0) word false with
      | .tok s t => .ok (s.modPiece fun p => (p.takeB i (isEp sel) t).landK i krows)
      | .again s => .ok s
      | .wait s => .ok s
      | .trap s c v => .trap s c v (mxLoc i 3 0)

/-- One step of `m.ldb` for `k` core rows from row `i`. -/
def State.loadRows (krows : Nat) (word : W64) : Nat → Nat → State → Intake
  | 0, _, s => .ok s
  | k + 1, i, s =>
    match s.loadRow i krows word with
    | .ok s => State.loadRows krows word k (i + 1) s
    | r => r

/-- The linings are Loading from the issue of `m.ldb` (R222). -/
def Piece.startLoad (p : Piece) : Piece :=
  let p := p.eachPlane true fun x => { st := .loading, hold := x.hold }
  { p with mx := { p.mx with ldRow := [], ldBuf := [], cnt := 1, ldWait := false } }
/-- Every lining is Loaded: its cells and exponents are computed (R137). -/
def Piece.endLoad (p : Piece) (krows : Nat) : Piece :=
  let p := p.eachPlane true (fillPlane p.mx.bfmt krows)
  { p with mx := { p.mx with ldRow := [], ldBuf := [], cnt := 0 } }

/-- An `m.ldb` begins to wait for a swap: it takes note of the linings it has found. -/
def Piece.awaitSwap (p : Piece) : Piece :=
  let p := p.eachPlane true fun x => { x with fresh := true }
  { p with mx := { p.mx with ldWait := true } }
/-- Whether an `m.ldb` waits at issue: a nest runs, and the linings, Loaded when it came to issue, are not yet swapped. -/
def Piece.swapDue (p : Piece) : Bool :=
  p.mx.nest.isSome && !(p.allLinings fun x => if p.mx.ldWait then !x.fresh else x.st != .loaded)

/-- `m.ldb` (R219, R222). While a nest runs, one that finds the lining Loaded waits until a swap. -/
def execMLdb (t : BitVec 4) (k : BitVec 7) (s : State) : Host.Outcome State Fault Refusal :=
  s.runWord 2 (.mLdb t k) t 0 anyLevel fun s =>
    let word := wordOf (.mLdb t k)
    let krows := k.toNat + 1
    let p := s.piece
    if p.mx.cnt = 0 then
      match (List.range p.mh).find? fun i => (p.mx.bind 3 i).isNone with
      | some i => refuse s (BitVec.ofNat 64 (mxLoc i 3 0))
      | none =>
        if p.swapDue then .hold (if p.mx.ldWait then s else s.modPiece Piece.awaitSwap)
        else .hold (s.modPiece Piece.startLoad)
    else match State.loadRows krows word p.mh 0 s with
      | .trap s c v pl => .trap s c v (BitVec.ofNat 64 pl)
      | .ok s =>
        if (List.range p.mh).all fun i => decide (krows * p.mw ≤ SMap.get 0 s.piece.mx.ldRow i) then
          .done (s.modPiece fun p => p.endLoad krows)
        else .hold s

/-- `m.swb` (R217, R230): it waits until the lining is Loaded. -/
def execMSwb (t : BitVec 4) (s : State) : Host.Outcome State Fault Refusal :=
  s.runM (.mSwb t) t fun s => if s.piece.swapReady then .done (s.modPiece Piece.swapB) else .hold s

/-! ## Passes, drains and zeroes -/

/-- `m.mma` (R219, R224): passes for its rows, each with a new A row. -/
def execMMma (t : BitVec 4) (n r : BitVec 9) (s : State) : Host.Outcome State Fault Refusal :=
  s.runM (.mMma t n r) t fun s =>
    if s.piece.mx.cnt != 0 then .done (s.modMx fun m => { m with cnt := 0 })
    else
      let word := wordOf (.mMma t n r)
      match s.nestTrap false word with
      | some (c, v) => .trap s c v 0
      | none =>
        let x : Nest :=
          { top := 0, rb := r.toNat, idx := [0], last := true
            todo := (tab (n.toNat + 1) fun k => [NestAct.popA, .pass (r.toNat + k)]).flatten, rows := [], mma := true, word := word }
        .hold (s.modMx fun m => { m.freshA with nest := some x, cnt := 1 })

/-- `m.drn` (R219, R225). -/
def execMDrn (t : BitVec 4) (n r : BitVec 9) (s : State) : Host.Outcome State Fault Refusal :=
  s.runM (.mDrn t n r) t fun s =>
    let m := s.piece.mx
    if m.cnt = 0 then
      if !m.hasRes then refuse s (BitVec.ofNat 64 (mxLoc 0 2 0))
      else
        let d : Drain := { rows := tab (n.toNat + 1) fun k => r.toNat + k, word := wordOf (.mDrn t n r) }
        .hold (s.modMx fun m => { m with drains := [d], cnt := 1 })
    else if m.drains.isEmpty && s.drainWritesDone then .done (s.modMx fun m => { m with cnt := 0 })
    else .hold s

/-- `m.zero` (R225). -/
def execMZero (t : BitVec 4) (n r : BitVec 9) (s : State) : Host.Outcome State Fault Refusal :=
  s.runM (.mZero t n r) t fun s => .done (s.modPiece fun p => p.zeroRows (tab (n.toNat + 1) fun k => r.toNat + k))

/-! ## Formats, scales, bindings -/

/-- `m.fmt` (R220). -/
def execMFmt (t : BitVec 4) (f : BitVec 2) (b a : BitVec 4) (s : State) : Host.Outcome State Fault Refusal :=
  s.runM (.mFmt t f b a) t fun s =>
    let mat (x : BitVec 4) : Bool := decide (1 ≤ x.toNat) && decide (x.toNat ≤ 6)
    if (mat a || a == 10) && mat b then
      .done (s.modMx fun m => { m with afmt := a.toNat, bfmt := b.toNat, form := f.toNat })
    else .trap s cFORMAT (wordOf (.mFmt t f b a)) 0

/-- The scales of a token: columns 16 k to 16 k + 15; an invalid lane sets 1.0 (R226). -/
def Matrix.setScales (m : Matrix) (k : Nat) (t : Token) : Matrix :=
  let vs := tab 16 fun i => (16 * k + i, if (t.lane i).valid then (t.lane i).val else wifOne)
  { m with scale := vs.foldl (fun c kv => SMap.set wifOne c kv.1 kv.2) m.scale }

/-- `m.scl` from a source (R226). -/
def execMScl (t : BitVec 4) (x : BitVec 10) (s : State) : Host.Outcome State Fault Refusal :=
  s.step5 2 (.mScl t x) t (!s.selHere x false) <|
  s.runM (.mScl t x) t fun s =>
      let k := s.piece.mx.cnt
      match s.mTake x 0 (wordOf (.mScl t x)) false with
      | .tok s tk =>
        let s := s.modMx fun m => m.setScales k tk
        if k + 1 < 8 * s.piece.mw then .hold (s.modMx fun m => { m with cnt := k + 1 })
        else .done (s.modMx fun m => { m with cnt := 0 })
      | .again s => .hold s
      | .wait s => .wait s
      | .trap s c v => .trap s c v 0

/-- `m.scl one` (R226). -/
def execMSclOne (t : BitVec 4) (s : State) : Host.Outcome State Fault Refusal :=
  s.runM (.mSclOne t) t fun s => .done (s.modMx fun m => { m with scale := [] })

/-- Binds or unbinds an operand role: A 0, C 1, result 2, B 3. -/
def Matrix.setBind (m : Matrix) (role row : Nat) (x : Option (BitVec 10)) : Matrix :=
  match role with
  | 0 => { m with bindA := SMap.set none m.bindA row x }
  | 1 => { m with bindC := x }
  | 2 => { m with memN := 0, res := match x with
      | some y => .sel y
      | none => .none }
  | _ => { m with bindB := SMap.set none m.bindB row x }

/-- `m.bind` of a selector (R221). -/
def execMBind (t : BitVec 4) (r : BitVec 3) (o : BitVec 2) (x : BitVec 10) (s : State) : Host.Outcome State Fault Refusal :=
  s.step5 2 (.mBind t r o x) t (decide (s.piece.mh ≤ r.toNat) || !s.selHere x (o == 2)) <|
  s.runM (.mBind t r o x) t fun s => .done (s.modMx fun m => m.setBind o.toNat r.toNat (some x))

/-- The field of a result descriptor that offends, by fld code (R204, R221). -/
def resDescBad (d : Desc) : Option Nat :=
  if dfld d 0 != 0 then some 0
  else if dfld d 2 = 10 then some 2
  else if dfld d 3 != 0 then some 3
  else if dfld d 15 != 0 then some 15
  else none

/-- `m.bind` of a descriptor as the result (R221): the descriptor is copied. -/
def execMBindMem (t : BitVec 4) (d : BitVec 4) (s : State) : Host.Outcome State Fault Refusal :=
  s.runM (.mBindMem t d) t fun s =>
    let x := SMap.get [] s.piece.sd d.toNat
    if !fmtOk (dfld x 2) || (fmtInt (dfld x 2) && dscale x != 0x3F800000) then .trap s cFORMAT (wordOf (.mBindMem t d)) 0
    else match resDescBad x with
      | some f => refuse s (BitVec.ofNat 64 f)
      | none => .done (s.modMx fun m => { m with res := .mem x, memN := 0 })

/-- `m.bind` with UNBIND (R221). -/
def execMUnbind (t : BitVec 4) (r : BitVec 3) (o : BitVec 2) (s : State) : Host.Outcome State Fault Refusal :=
  s.step5 2 (.mUnbind t r o) t (decide (s.piece.mh ≤ r.toNat)) <|
  s.runM (.mUnbind t r o) t fun s => .done (s.modMx fun m => m.setBind o.toNat r.toNat none)

/-! ## Planes across seams, and the toile product -/

/-- `m.keep` (R227): marks planes held. -/
def execMKeep (t : BitVec 4) (n f : BitVec 1) (s : State) : Host.Outcome State Fault Refusal :=
  s.runWord 2 (.mKeep t n f) t 0 anyLevel fun s =>
    let hold (b : BitVec 1) (x : BPlane) : BPlane := { x with hold := x.hold || b == 1 }
    .done (s.modPiece fun p => (p.eachPlane false (hold f)).eachPlane true (hold n))

/-- `m.keep release` (R227): marks planes Released and clears their hold. -/
def execMKeepRelease (t : BitVec 4) (n f : BitVec 1) (s : State) : Host.Outcome State Fault Refusal :=
  s.runWord 2 (.mKeepRelease t n f) t 0 anyLevel fun s =>
    let drop (b : BitVec 1) (x : BPlane) : BPlane := if b = 1 then {} else x
    .done (s.modPiece fun p => (p.eachPlane false (drop f)).eachPlane true (drop n))

/-- `m.toil` (R231). -/
def execMToil (t : BitVec 4) (s : State) : Host.Outcome State Fault Refusal :=
  s.runM (.mToil t) t fun s => .done s.toile

/-- `m.rep` (R215, R219). -/
def execMRep (t : BitVec 4) (l : BitVec 5) (c : BitVec 12) (s : State) : Host.Outcome State Fault Refusal :=
  s.runWord 2 (.mRep t l c) t 0 anyLevel fun s => s.rep 2 (.mRep t l c) l.toNat (c.toNat + 1)

end Sys2Proof.Machine
end

