-- ==== Sys2Proof/Machine/Saves.lean ====
section
/-! DEFINITION. Save areas: their size and layout (R350 to R353), the pool (R348), where a register image goes (R80), and
how each section is written and read back (R349, R354). -/

namespace Sys2Proof.Machine

/-! ## Tokens as bits (R233) -/

/-- The parity byte of a token's lower 151 bytes. -/
def parityOf (b : List Byte) : Byte := b.foldl (· ^^^ ·) 0

/-- The 152 bytes of a token. -/
def tokenBytes (t : Token) : List Byte :=
  let l (i : Nat) : LaneV := if (t.lane i).valid then t.lane i else {}
  let b := (tab 16 fun i => bytesOf 5 (l i).val.toNat).flatten ++ (tab 16 fun i => bytesOf 4 (l i).coord.toNat).flatten
    ++ bytesOf 2 t.mask ++ bytesOf 4 t.tag.toNat ++ bytesOf 1 (t.kind.code + 16 * t.level.toNat)
  b ++ [parityOf b]

/-- The kind of a code (R233). -/
def kindFrom (c : Nat) : TokKind :=
  match c with
  | 0 => .data
  | 1 => .sparse
  | 2 => .hem
  | 3 => .turn
  | 4 => .kset
  | _ => .control

/-- The token of 152 bytes. -/
def tokenFrom (b : List Byte) : Token :=
  let at_ (o n : Nat) : Nat := ofBytes ((b.drop o).take n)
  let m := at_ 144 2
  { kind := kindFrom (at_ 150 1 % 16), level := BitVec.ofNat 3 (at_ 150 1 / 16), tag := BitVec.ofNat 32 (at_ 146 4)
    lanes := tab 16 fun i =>
      { valid := bitAt m i, val := BitVec.ofNat 40 (at_ (5 * i) 5), coord := BitVec.ofNat 32 (at_ (80 + 4 * i) 4) } }

/-! ## The register image (R352) -/

/-- Descriptor fields packed into one 32-bit word: field code and its lowest bit. -/
def packFields (d : Desc) (fs : List (Nat × Nat)) : List Byte := bytesOf 4 (fs.foldl (fun n f => n + dfld d f.1 * 2 ^ f.2) 0)

/-- A packed descriptor. -/
def packDesc (d : Desc) : List Byte :=
  packFields d [(0, 0), (1, 3), (2, 6), (3, 10), (4, 11), (5, 12), (6, 14), (7, 15), (8, 16), (9, 20), (10, 23), (11, 24), (12, 30)]
    ++ packFields d [(13, 0), (14, 4), (15, 12), (16, 16), (17, 24)]
    ++ bytesOf 8 (dfld d 18) ++ bytesOf 8 (dfld d 19) ++ bytesOf 4 (dfld d 20) ++ bytesOf 4 (dfld d 21) ++ bytesOf 4 (dfld d 22)
    ++ bytesOf 4 (dfld d 23) ++ bytesOf 4 (dfld d 24)
    ++ (tab 12 fun k => bytesOf 4 (dfld d (25 + k))).flatten ++ bytesOf 4 0

/-- The register image of a piece's thread: 2,560 bytes. -/
def Piece.image (p : Piece) : List Byte :=
  let y := p.sys
  let win (n : Nat) : W64 := SMap.get 0 y.vwin n
  let d8 (xs : List W64) : List Byte := (xs.map fun v => bytesOf 8 v.toNat).flatten
  d8 (tab 31 fun i => SMap.get 0 p.regs (i + 1)) ++ List.replicate 8 0
    ++ (tab 16 fun i => packDesc (SMap.get [] p.sd i)).flatten
    ++ d8 (tab 64 fun i => SMap.get 0 y.cnt i) ++ (tab 64 fun i => bytesOf 1 (SMap.get 0 y.cntEv i)).flatten
    ++ d8 [y.slip, y.qtrap, y.lodc, y.lodlim, y.lodev, y.sem, y.fpflags, y.troot, win 0, win 1, win 2, win 3, y.stack, y.wdog, y.tvec]
    ++ List.replicate 72 0

/-- The system registers that an image gives back; the trap registers, which it does not hold, are free values, and the
thread is in no handler (log 31, DESIGN CHOICE). -/
def imageSys (b : List Byte) (fresh : Nat) : SysRegs :=
  let v (o : Nat) : W64 := BitVec.ofNat 64 (ofBytes ((b.drop o).take 8))
  let r (i : Nat) : W64 := v (0x940 + 8 * i)
  let f (i : Nat) : W64 := Config.freeWord (fresh + i)
  { slip := r 0, qtrap := r 1, qtrapNow := r 1, lodc := r 2, lodlim := r 3, lodev := r 4, sem := r 5, fpflags := r 6, troot := r 7
    vwin := (List.range 4).foldl (fun m n => SMap.set 0 m n (r (8 + n))) []
    stack := r 12, wdog := r 13, tvec := r 14
    cnt := (List.range 64).foldl (fun m n => SMap.set 0 m n (v (0x700 + 8 * n))) []
    cntEv := (List.range 64).foldl (fun m n => SMap.set 0 m n (ofBytes ((b.drop (0x900 + n)).take 1))) []
    tcause := f 0, tpcs := f 1, tpcc := f 2, tpcm := f 3, tpcf := f 4, tval := f 5, tloc := f 6 }

/-! ## Link queues of a sequence (R347, R350) -/

/-- The link queues a sequence keeps at a seam, with the buffer kept: 0 the send buffer, 1 the receive buffer of a
die-to-die queue that it pops. -/
def State.keptQueues (s : State) (l first : Nat) : List (Nat × Nat) :=
  (s.links.queues.map fun kv =>
    let q := kv.2
    if q.live && q.launch == l then
      (if q.seqOut == some first then [(kv.1, 0)] else [])
        ++ (if q.pair.isNone && q.seqIn == some first then [(kv.1, 1)] else [])
    else []).flatten

/-- The section of one kept link queue. -/
def LinkQ.section (q : LinkQ) (dir : Nat) : List Byte :=
  let ts := if dir = 0 then q.send else q.recv
  bytesOf 16 (q.lq % 256 + dir * 256 + ts.length % 32 * 512) ++ List.replicate 112 0
    ++ (tab 16 fun i => match ts[i]? with
      | some t => tokenBytes t
      | none => List.replicate 152 0).flatten

/-- The tokens of a link section. -/
def sectionTokens (b : List Byte) : List Token :=
  tab (bits (ofBytes (b.take 2)) 9 5) fun i => tokenFrom ((b.drop (128 + 152 * i)).take 152)

/-! ## Elements and B planes (R353) -/

/-- An element record. -/
def Elem.record (x : Elem) : List Byte :=
  bytesOf 8 x.face.addr.toNat ++ bytesOf 8 x.lining.addr.toNat
    ++ (tab 8 fun i => bytesOf 8 (x.face.const i).toNat).flatten ++ (tab 8 fun i => bytesOf 8 (x.lining.const i).toNat).flatten
    ++ bytesOf 8 x.face.tagLay.toNat ++ bytesOf 8 x.lining.tagLay.toNat ++ bytesOf 8 x.face.pleat ++ bytesOf 8 x.lining.pleat
    ++ List.replicate 16 0

/-- A matrix plane record; its plane stands at key `k`. -/
def BPlane.record (x : BPlane) (k : Nat) : List Byte :=
  (tab (96 * 128) fun i => bytesOf 2 (SMap.get 0 x.cells i).toNat).flatten
    ++ (tab 384 fun i => bytesOf 2 (SMap.get 0 x.exps i % 65536).toNat).flatten
    ++ bytesOf 2 (k / 32 % 8 + k / 2 % 16 * 8 + k % 2 * 256 + (if x.hold then 512 else 0)) ++ List.replicate 254 0

/-- The key of the plane that a record names. -/
def recordPlane (b : List Byte) : Nat :=
  let w := ofBytes ((b.drop 0x6300).take 2)
  planeKey (bits w 0 3) (bits w 3 4) (bitAt w 8)

/-- The plane of a record, with what the record has no room for (log 28, DEDUCED). -/
def BPlane.from (kept : BPlane) (b : List Byte) : BPlane :=
  { kept with
    cells := (List.range (96 * 128)).foldl (fun m i => SMap.set 0 m i (BitVec.ofNat 16 (ofBytes ((b.drop (2 * i)).take 2)))) []
    exps := (List.range 384).foldl (fun m i => SMap.set 0 m i (sgn 16 (ofBytes ((b.drop (0x6000 + 2 * i)).take 2)))) [] }

/-! ## Areas (R348, R350, R351) -/

/-- The counts of a save area: link queues, elements, held planes, vault units. -/
structure SaveShape where
  links  : Nat
  elems  : Nat
  planes : Nat
  vault  : Nat
deriving DecidableEq, Repr

/-- Offsets of the links, elements, matrix and vault sections, and the size of the area (R351). -/
def SaveShape.offs (h : SaveShape) : List Nat :=
  let links := 256 + 2560
  let elems := links + 2560 * h.links
  let planes := elems + 192 * h.elems
  let vault := planes + 25600 * h.planes
  [links, elems, planes, vault, vault + 65536 * h.vault]
/-- The size of an area. -/
def SaveShape.size (h : SaveShape) : Nat := nth 0 h.offs 4

/-- What a piece's seam context holds. -/
def State.saveShape (s : State) (p : Piece) : SaveShape :=
  { links := (s.keptQueues p.launch p.seqPos).length, elems := p.blk.side * p.blk.side
    planes := (p.mx.planes.filter fun kv => kv.2.hold).length, vault := p.vunits }

/-- The first place in the pool for a number of units (log 13, DESIGN CHOICE). -/
def Hub.poolFit (h : Hub) (n : Nat) : Option Nat :=
  (List.range (h.saveunits + 1 - n)).find? fun u => h.saves.all fun a => decide (u + n ≤ a.1) || decide (a.1 + a.2 ≤ u)

/-- Where a register image goes (R80): a pocket map entry with its kind, unit and column, or the save area. -/
def State.pocketFor (s : State) (p : Piece) : Option (Nat × Nat × Nat × Nat) :=
  let b := 8 * p.panel + p.bay
  let entries := s.hub.pockets.filter fun kv => kv.1 / 64 = b && kv.2.v
  match (List.range 64).find? fun e => !entries.any fun kv => kv.1 % 64 == e with
  | none => none
  | some e =>
    let ps := s.bayPieces p.panel p.bay none
    match (freeThreads ps).find? fun t => !entries.any fun kv => kv.2.kind == 1 && kv.2.unit == t with
    | some t => some (e, 1, t, 0)
    | none =>
      let core (u : Nat) : Nat × Nat := (p.bay / 4 * 4 + u / 4, p.bay % 4 * 4 + u % 4)
      let idle (u : Nat) : Bool :=
        let k := core u
        !s.coreHeld p.panel k.1 k.2 && !s.hub.unpicked p.panel k.1 k.2
          && s.hub.launches.all fun kv => !kv.2.reserves p.panel k.1 k.2
      ((List.range 16).filter idle).findSome? fun u =>
        ((List.range 128).find? fun c => !entries.any fun kv => kv.2.kind == 0 && kv.2.unit == u && kv.2.column == c).map
          fun c => (e, 0, u, c)

/-- The header of a save area (R350). -/
def saveHeader (h : SaveShape) (pocket : Option Nat) (slot first next cls : Nat) (tvec piece : Nat) : List Byte :=
  let o := h.offs
  bytesOf 8 (h.size % 2 ^ 32 + (match pocket with
    | some e => 2 ^ 32 + e % 64 * 2 ^ 33
    | none => 0))
    ++ bytesOf 8 (slot % 256 + first % 2 ^ 32 * 256) ++ bytesOf 8 (next % 2 ^ 32) ++ bytesOf 8 cls ++ bytesOf 8 tvec ++ bytesOf 8 piece
    ++ (tab 4 fun i => bytesOf 4 (nth 0 o i)).flatten ++ bytesOf 4 h.links ++ bytesOf 4 h.elems ++ bytesOf 4 h.planes ++ bytesOf 4 h.vault
    ++ List.replicate 176 0

/-- PIECE of a piece (R61). -/
def Piece.pieceWord (p : Piece) : Nat := p.shape + p.thread * 2 ^ 16 + p.bay * 2 ^ 20

/-- Writes a list of sections, each at its own address. -/
def State.saveAll (s : State) (dom : Nat) (secs : List (Nat × List Byte)) : State :=
  secs.foldl (fun s x => s.saveBytes x.1 dom x.2) s

/-- Saves a piece's seam context at an address (R105, R349), its vault as the writes that have performed leave it: the pocket entry or the image section, and the other sections. -/
def State.saveContext (s : State) (k area next : Nat) : State :=
  let p := s.pieceOf k
  let x := s.launch p.launch
  let dom := x.domain
  let h := s.saveShape p
  let o := h.offs
  let qs := s.keptQueues p.launch p.seqPos
  let spot := s.pocketFor p
  let header := saveHeader h (spot.map (·.1)) p.launch p.seqPos next (x.fld 0x30 0 64) p.sys.tvec.toNat p.pieceWord
  let held := p.mx.planes.filter fun kv => kv.2.hold
  let links := (qs.map fun q => (s.linkQ q.1).section q.2).flatten
  let elems := ((blockElems p.blk.side).map fun e => (p.elem e).record).flatten
  let planes := (held.map fun kv => kv.2.record kv.1).flatten
  let image := if spot.isNone then [(area + 256, p.image)] else []
  let s := s.saveAll dom ([(area, header)] ++ image ++ [(area + nth 0 o 0, links), (area + nth 0 o 1, elems),
    (area + nth 0 o 2, planes), (area + nth 0 o 3, (s.view (.thread k) true p.vbase (65536 * p.vunits) true s.opCount).data)])
  let s := qs.foldl (fun s q =>
    let y := s.linkQ q.1
    s.setLinkQ q.1 (if q.2 = 0 then { y with send := [] } else { y with recv := [] })) s
  match spot with
  | none => s
  | some (e, kind, unit, col) =>
    let key := 64 * (8 * p.panel + p.bay) + e
    let e : Pocket := { v := true, kind := kind, unit := unit, column := col, launch := p.launch, seq := p.seqPos
                        image := p.image, area := area }
    { s with hub := { s.hub with pockets := s.hub.pockets.insert key e } }

/-! ## Reading an area back (R354) -/

/-- Reads bytes of a save area line by line: the bytes, or the physical address of the first line that fails. -/
def State.openArea (s : State) : Nat → Nat → Except Nat (List Byte)
  | 0, _ => .ok []
  | n + 1, a =>
    if s.poisoned false a 128 then .error a
    else match s.plainLine a with
      | none => .error a
      | some b =>
        match State.openArea s n (a + 128) with
        | .ok r => .ok (b ++ r)
        | .error e => .error e

/-- The soft errors of an area are detected before it is read. -/
def State.detectArea (s : State) (a n : Nat) : State := s.detect false a n

/-- A plane record read again, with the edge bindings of the header of its image, and checked as `f.cfgl` checks it; an
address of 0 stands for an empty plane (R353, R354). -/
def State.rereadPlane (s : State) (e : Nat) (va : W64) : Option (State × Plane) :=
  if va = 0 then some (s, {})
  else
    let side := s.piece.blk.side
    let base := va - BitVec.ofNat 64 (0x100 + 256 * rowMajor side e)
    match State.imgBytes s.engAgent 4 base s with
    | .ok s h =>
      match s.header side h with
      | none => none
      | some edges =>
        match State.imgPlanes base s.piece.blk.y0 side edges [e] s with
        | .ok s m => some (s, SMap.get {} m e)
        | _ => none
    | _ => none

/-- A plane takes its constants, tag layout and pleat from the element record: the `i`-th plane of it. -/
def Plane.overlay (f : Plane) (b : List Byte) (i : Nat) : Plane :=
  let v (o : Nat) : W64 := BitVec.ofNat 64 (ofBytes ((b.drop o).take 8))
  { f with consts := (List.range 8).foldl (fun m c => SMap.set 0 m c (v (0x10 + 64 * i + 8 * c))) []
           tagLay := v (0x90 + 8 * i), pleat := (v (0xA0 + 8 * i)).toNat }

/-- Restores the element planes from their records in row-major order; none where a plane record fails: then the index
of its element. -/
def State.restoreElems : List Nat → Nat → List Byte → State → Except Nat State
  | [], _, _, s => .ok s
  | e :: es, i, b, s =>
    let v (o : Nat) : W64 := BitVec.ofNat 64 (ofBytes ((b.drop o).take 8))
    match s.rereadPlane e (v 0) with
    | none => .error i
    | some (s, f) =>
      match s.rereadPlane e (v 8) with
      | none => .error i
      | some (s, g) =>
        let x : Elem := { face := f.overlay b 0, lining := g.overlay b 1 }
        let s := if x = {} then s else s.modPiece fun p => p.setElem e x
        State.restoreElems es (i + 1) (b.drop 192) s

end Sys2Proof.Machine
end

