-- ==== Sys2Proof/Machine/Seam.lean ====
section
/-! DEFINITION. Seams: the end of a task and of a sequence (R18, R26, R35, R105, R347), reshaping (R59, R60), the abort of
a task (R344, R355), switching out and resuming (R57, R349, R354), the delivery of traps (R342, R343), the watchdog (R273,
R341, R380) and the end of a launch (R48, R317). -/

namespace Sys2Proof.Machine

/-! ## What is still under way -/

/-- Whether what a piece has handed to the memory system, a bank element or the hub has performed at package scope, and
remotely at system scope (R105, R355); its writes to vaults have reached them. -/
def State.quiet (s : State) (k : Nat) : Bool :=
  (s.ops.all fun o => o.piece != k || (o.remote.isNone && !o.vault && decide (4 ≤ o.level)))
    && (s.scatters.all fun u => u.piece != k) && (s.barEvs.all fun b => b.src != k)
    && (s.invokes.all fun v => v.piece != k || v.pair.isSome)
    && (s.hub.turns.all fun kv => kv.2.wait.all fun w => w.1 != k)

/-- Whether every engine of a piece has arrived at `s.end` and its arrival counts (R18, R250, R347). -/
def Piece.arrived (p : Piece) : Bool :=
  (p.s.atEnd && p.c.atEnd && p.m.atEnd && p.f.atEnd) && p.await == .none && p.qloads.isEmpty && p.pend.isEmpty
    && (p.slots.all fun kv => kv.2.st == .free)
    && p.mx.nest.isNone && p.mx.drains.isEmpty
    && !p.blk.turning && p.gives.isEmpty && (p.blk.edges.all fun kv => kv.2.kset.isEmpty)

/-- Whether the task of a piece is over. -/
def State.taskOver (s : State) (k : Nat) : Bool :=
  let p := s.pieceOf k
  p.live && !p.atSeam && p.abort.isNone && !p.active && !p.halted && p.traps.isEmpty && p.arrived && s.quiet k

/-- Whether a reservation of another launch takes a core of a piece (R57). -/
def State.overlapped (s : State) (p : Piece) : Bool :=
  s.hub.launches.any fun kv => kv.1 != p.launch && (rectCores p.row0 p.col0 (2 ^ p.hLog) (2 ^ p.wLog)).any fun c =>
    kv.2.reserves p.panel c.1 c.2

/-! ## Reshaping (R59, R198) -/

/-- A requested shape: row, column, log2 rows, W code. -/
structure Shape where
  row  : Nat
  col  : Nat
  h    : Nat
  w    : Nat
deriving DecidableEq, Repr

/-- The shape a request word names. -/
def shapeOf (v : W64) : Shape := { row := bits v.toNat 0 3, col := bits v.toNat 3 4, h := bits v.toNat 7 2, w := bits v.toNat 9 3 }
/-- Whether a shape is an aligned class shape. -/
def Shape.ok (g : Shape) : Bool :=
  decide (g.w ≤ 4) && g.row % 2 ^ g.h == 0 && g.col % 2 ^ g.w == 0 && decide (g.row + 2 ^ g.h ≤ 8) && decide (g.col + 2 ^ g.w ≤ 16)
/-- The cores of a shape. -/
def Shape.cores (g : Shape) : List (Nat × Nat) := rectCores g.row g.col (2 ^ g.h) (2 ^ g.w)
/-- Whether a shape lies inside another. -/
def Shape.inside (g o : Shape) : Bool :=
  decide (o.row ≤ g.row) && decide (g.row + 2 ^ g.h ≤ o.row + 2 ^ o.h) && decide (o.col ≤ g.col)
    && decide (g.col + 2 ^ g.w ≤ o.col + 2 ^ o.w)
/-- The present shape of a piece. -/
def Piece.here (p : Piece) : Shape := { row := p.row0, col := p.col0, h := p.hLog, w := p.wLog }

/-- Whether the drain rules 1 to 5 of R59 hold: which fails first, with its number. -/
def Piece.drainRule (p : Piece) : Option Nat :=
  if p.q.any (fun kv => !kv.2.isEmpty) || p.y.any (fun kv => !kv.2.isEmpty) then some 1
  else if p.blk.edges.any fun kv => kv.2.opened then some 2
  else if !p.mx.dirty.isEmpty then some 3
  else if p.mx.planes.any fun kv => kv.2.st != .released && !kv.2.hold then some 4
  else if p.tacks.any (fun kv => !kv.2.isEmpty) || p.steers.any (fun kv => !kv.2.isEmpty) then some 5
  else none

/-- The bay of a shape's origin. -/
def Shape.bay (g : Shape) : Nat := bayOf g.row g.col
/-- Whether the bay of a shape has the resources of a piece that comes to it from another bay. -/
def State.bayRoom (s : State) (k : Nat) (g : Shape) : Bool :=
  let p := s.pieceOf k
  g.bay == p.bay || bayFits (s.bayTaken 256 p.panel g.bay (some k))
    { h := 1, w := 1, side := p.blk.side, vault := p.vunits, cslot := p.cslot }

/-- Check 6 of R59: every added core is free, not reserved and not unpicked, and the new origin bay has room. A cut whose
origin moves to another bay needs that room as well (log 32, DEDUCED). A shape that names cores outside the panel fails here, with result
6, before check 7 finds that it is no class shape (log 67, DESIGN CHOICE). -/
def State.joinRoom (s : State) (k : Nat) (join : Bool) (g : Shape) : Bool :=
  let p := s.pieceOf k
  (!join || g.cores.all fun c => p.holds p.panel c.1 c.2
      || (!s.coreHeld p.panel c.1 c.2 && !s.coreReserved 256 p.panel c.1 c.2 && !s.hub.unpicked p.panel c.1 c.2
          && decide (c.1 < 8) && decide (c.2 < 16)))
    && s.bayRoom k g

/-- The result of a reshape request at a seam (R59). -/
def State.reshapeResult (s : State) (k : Nat) (join : Bool) (g : Shape) : Nat :=
  let p := s.pieceOf k
  match p.drainRule with
  | some r => r
  | none =>
    if !s.joinRoom k join g then 6
    else if !g.ok || !(if join then p.here.inside g else g.inside p.here) then 7
    else 0

/-- The B planes of a piece whose origin moves: a plane stays with its core, and a core given up takes its plane with it. -/
def movePlanes (p : Piece) (g : Shape) (m : SMap BPlane) : SMap BPlane :=
  m.foldl (fun out kv =>
    let r := p.row0 + kv.1 / 32
    let c := p.col0 + kv.1 / 2 % 16
    if inRect g.row g.col (2 ^ g.h) (2 ^ g.w) r c then out.insert (planeKey (r - g.row) (c - g.col) (kv.1 % 2 == 1)) kv.2 else out) []

/-- The new shape is taken (R59): cores given up return to the allocator; a piece whose origin lies in another bay then gets
its block, thread and share there, and its share's contents move with it. -/
def State.reshape (s : State) (k : Nat) (g : Shape) : State :=
  let p := s.pieceOf k
  let p' := { p with row0 := g.row, col0 := g.col, hLog := g.h, wLog := g.w, bay := g.bay
                     mx := { p.mx with planes := movePlanes p g p.mx.planes } }
  let added := g.cores.filter fun c => !p.holds p.panel c.1 c.2
  let s := added.foldl (fun s c => s.emptyCore p.panel c.1 c.2) (s.leaveCores p)
  if g.bay = p.bay then s.modPieceAt k fun _ => p'
  else
    let ps := s.bayTaken 256 p.panel g.bay (some k)
    let (blk, s) := s.pickOf (0, 0) (freeBlocks ps p.blk.side)
    let (thr, s) := s.pickOf 0 (freeThreads ps)
    let (u, s) := s.pickOf 0 (freeShares ps p.vunits)
    let s := s.emptyPockets fun b kd n => b == 8 * p.panel + g.bay && kd == 1 && n == thr
    let base := (8 * p.panel + g.bay) * 2 ^ 26 + u * 65536
    let n := p.vunits * 65536
    let d := s.bytes true p.vbase n
    let s := ((s.leaveBlocks p).clearVault p.vbase n).clearVault base n
    let s := s.putBytes true base d
    (s.modPieceAt k fun _ => { p' with thread := thr, vbase := base, blk := { p'.blk with x0 := blk.1, y0 := blk.2 } }).joinBlocks k

/-- The last request of the task is checked and applied at the seam; a seam that switches the piece out discards it
(R59, R60). -/
def State.applyReshape (s : State) (k : Nat) : State :=
  let p := s.pieceOf k
  match p.reshape with
  | none => s
  | some (join, v) =>
    let g := shapeOf v
    let r := if s.overlapped p || p.leave then 8 else s.reshapeResult k join g
    let s := if r = 0 then s.reshape k g else s
    s.modPieceAt k fun p => { p with reshape := none, result := r }

/-! ## The end of a task (R347) -/

/-- What the end of a task discards (R347), with the state a seam keeps. -/
def Piece.discard (p : Piece) : Piece :=
  { p with q := [], y := [], bq := [], qloads := [], steers := [], tacks := [], knots := [], pend := [], pois := [], gives := []
           slots := [], popped := [], acqs := [], fenceR := [], fenceW := [], relDeps := []
           mx := { p.mx with nest := none, drains := [], qtrap := [] }
           blk := { p.blk with
             armed := false, turning := false, sinks := [], edges := [], ctlNet := [], tagOps := []
             elems := p.blk.elems.map fun kv => (kv.1, kv.2.atTaskStart) } }

/-- A sequence is over: it gives up its piece (R52). -/
def State.release (s : State) (k : Nat) : State :=
  (s.leaveBlocks (s.pieceOf k)).modPieceAt k fun p => { launch := p.launch, seqPos := p.seqPos }

/-- One sequence of a launch is put in a place. -/
def Launch.placeSeq (x : Launch) (first : Nat) (f : Seq → Seq) : Launch :=
  { x with seqs := x.seqs.map fun q => if q.first = first then f q else q }

/-- The walker goes on past tasks that will never start, and the launch drains once none is left (R46, R344). -/
def Launch.skipOn (x : Launch) : Launch :=
  let n := x.from x.next
  { x with next := n, st := if x.st == .running && x.total ≤ n then .draining else x.st }

/-- A piece's sequence ends: its later tasks never start. -/
def State.endSeq (s : State) (k : Nat) : State :=
  let p := s.pieceOf k
  let x := (s.launch p.launch).placeSeq p.seqPos fun q => { q with place := .ended }
  (s.setLaunch p.launch x.skipOn).release k

/-- A task has ended: the launch has one less alive. -/
def State.taskGone (s : State) (l : Nat) : State :=
  let x := s.launch l
  s.setLaunch l { x with live := x.live - 1 }

/-- A deferred toile product runs at the end of a task where every lining is unheld (R231). -/
def State.endToile (s : State) (k : Nat) : State :=
  let p := s.pieceOf k
  if p.mx.toile && p.mx.planes.all (fun kv => kv.1 % 2 == 0 || !kv.2.hold) then ((s.at k).toile).at s.focusP else s

/-- The UNPICKED trap of a piece at the seam that ends its task (R389): the lowest failing core's signature. -/
def State.unpickedTrap (s : State) (k : Nat) : State :=
  let p := s.pieceOf k
  match p.mx.badSig with
  | none => s
  | some (i, j, sig) =>
    let r : TrapRec := { code := cUNPICKED, unit := 2, async := true, val := sig, loc := BitVec.ofNat 64 (mxLoc i 0 j) }
    s.modPieceAt k fun p => Piece.enter { p with mx := { p.mx with badSig := none } } r p.s.pc

/-- The task of a piece ends (R18, R347): reshape checks, the deferred toile product, what is discarded. A core that has
failed raises UNPICKED before the seam is passed (R389). -/
def State.endTask (s : State) (k : Nat) : State :=
  let s := s.endToile k
  if (s.pieceOf k).mx.badSig.isSome then s.unpickedTrap k
  else
    let s := s.applyReshape k
    let s := s.modPieceAt k fun p => { p.discard with atSeam := true }
    s.taskGone (s.pieceOf k).launch

/-- At a seam a piece's sequence goes on (R52): it ends with its last task or its launch, it waits to be switched out, or its
next task starts once every task ahead has (R33). -/
def State.leaveSeam (s : State) (k : Nat) : State :=
  let p := s.pieceOf k
  let x := s.launch p.launch
  match x.seq p.seqPos with
  | none => s.release k
  | some q =>
    if x.ended || x.total ≤ q.next then s.endSeq k
    else if p.leave || s.overlapped p then s
    else if x.next = q.next && s.quiet k then s.startTask k q.next
    else s

/-! ## Aborts (R344, R355) -/

/-- Whether everything an aborted task has handed on has performed: reads and their data are dropped. -/
def State.abortQuiet (s : State) (k : Nat) : Bool :=
  (s.ops.all fun o => o.piece != k || o.kind == .read || (o.remote.isNone && !o.vault && decide (4 ≤ o.level)))
    && (s.scatters.all fun u => u.piece != k) && (s.barEvs.all fun b => b.src != k)
    && (s.invokes.all fun v => v.piece != k || v.pair.isSome)
    && (s.hub.turns.all fun kv => kv.2.wait.all fun w => w.1 != k)

/-- The traps that outlive an aborted task: those of the hub and of the matrix cores' seam (R389, R400). -/
def TrapRec.outlives (r : TrapRec) : Bool := r.unit == 6

/-- An aborted task ends (R344, R355): ACT 1 starts it again, with a reshape request it has recorded still pending (R59), ACT 2 ends its sequence, ACT 3 ends its launch. A handler of
KEY_REVOKED ends the launch whatever ACT holds (R400). -/
def State.finishAbort (s : State) (k act : Nat) : State :=
  let p := s.pieceOf k
  let l := p.launch
  let revoked := (p.cur.map (·.code)) == some cKEY_REVOKED
  let s := { s with ops := s.ops.filter fun (o : MemOp) => !(o.piece == k && o.kind == OpKind.read) }
  let s := s.modPieceAt k Piece.discard
  let keep := p.traps.filter TrapRec.outlives
  if act = 1 && !revoked then
    s.modPieceAt k fun p => { p.startTask (s.launch l) p.taskPos with traps := keep, reshape := p.reshape }
  else
    let s := s.taskGone l
    let s := if act = 3 || revoked then
        State.sourceErr ((s.endUnfit l).err { cls := 1, src := 1, code := if revoked then 6 else 2, launch := s.launchWord l })
          (s.launch l).src
      else s
    s.endSeq k

/-- The end of a task and what follows at its seam (R18, R52, R347), and the end of an aborted one (R355). -/
def execTaskEnd (k : Nat) (s : State) : Host.Outcome State Fault Refusal :=
  let p := s.pieceOf k
  if !p.live then .next s
  else match p.abort with
    | some act => .next (if s.abortQuiet k then s.finishAbort k act else s)
    | none =>
      let s := if s.taskOver k then s.endTask k else s
      .next (if (s.pieceOf k).atSeam then s.leaveSeam k else s)

/-! ## Switching out and resuming -/

/-- The launch whose reservation waits for room in the save pool writes one record (R348). -/
def State.poolShort (s : State) (p : Piece) : State :=
  match s.hub.launches.find? fun kv => kv.1 != p.launch && !kv.2.poolRec
      && (rectCores p.row0 p.col0 (2 ^ p.hLog) (2 ^ p.wLog)).any fun c => kv.2.reserves p.panel c.1 c.2 with
  | none => s
  | some (l, x) => (s.setLaunch l { x with poolRec := true }).err { cls := 1, src := 8, code := 0, launch := s.launchWord l }

/-- A piece at its seam that a reservation or an unpicked core makes leave is switched out (R57, R349, R389): its context
is saved and its resources return to the allocator. -/
def execSwitchOut (k : Nat) (s : State) : Host.Outcome State Fault Refusal :=
  let p := s.pieceOf k
  let x := s.launch p.launch
  if !p.live || !p.atSeam || p.active || !p.traps.isEmpty || !(p.leave || s.overlapped p) || x.ended || !s.quiet k then .next s
  else match x.seq p.seqPos with
    | none => .next s
    | some q =>
      if x.total ≤ q.next then .next s
      else
        let size := (s.saveShape p).size
        let units := (size + 65535) / 65536
        match s.hub.poolFit units with
        | none => .next (s.poolShort p)
        | some u =>
          let area := s.hub.savebase.toNat + 65536 * u
          let s := { s with hub := { s.hub with saves := s.hub.saves ++ [(u, units)] } }
          let s := s.saveContext k area q.next
          let kept := (p.mx.planes.filter fun kv => kv.2.hold).map fun kv => (kv.1, { kv.2 with cells := [], exps := [] })
          let s := s.setLaunch p.launch ((s.launch p.launch).placeSeq p.seqPos fun q =>
            { q with place := .saved area, panel := p.panel, kept := kept, result := p.result })
          .next (s.release k)

/-- The pocket that holds a sequence's register image. -/
def State.pocketOf (s : State) (l first : Nat) : Option (Nat × Pocket) :=
  s.hub.pockets.find? fun kv => kv.2.v && kv.2.launch == l && kv.2.seq == first

/-- What reading back a context comes to. -/
inductive Restored where
  | ok (s : State)
  | bad (s : State) (line : Nat)

/-- Restores the link queues from their section; a queue lost meanwhile takes nothing back (R394). -/
def State.restoreLinks : List (Nat × Nat) → List Byte → State → State
  | [], _, s => s
  | (k, dir) :: qs, b, s =>
    let ts := sectionTokens (b.take 2560)
    let q := s.linkQ k
    State.restoreLinks qs (b.drop 2560)
      (s.setLinkQ k (if q.lost then q else if dir = 0 then { q with send := ts ++ q.send } else { q with recv := ts ++ q.recv }))

/-- Restores the held B planes from their section. -/
def restorePlanes (kept : SMap BPlane) : Nat → List Byte → SMap BPlane
  | 0, _ => []
  | n + 1, b =>
    let k := recordPlane b
    (restorePlanes kept n (b.drop 25600)).insert k (BPlane.from (SMap.get {} kept k) (b.take 25600))

/-- Restores a sequence's context from its area onto piece `k` (R354, step 2): everything is read before anything becomes
visible. -/
def State.restoreContext (s : State) (k first area : Nat) : Restored :=
  let p := s.pieceOf k
  let x := s.launch p.launch
  let h : SaveShape := { s.saveShape p with planes := ((x.seq first).map fun q : Seq => q.kept.length).getD 0 }
  let o := h.offs
  let s := s.detectArea area h.size
  let image : Except Nat (List Byte) := match s.pocketOf p.launch first with
    | some e => .ok e.2.image
    | none => s.openArea 20 (area + 256)
  match image, s.openArea ((h.size - nth 0 o 0) / 128) (area + nth 0 o 0) with
  | .ok im, .ok b =>
    let elems := (b.drop (nth 0 o 1 - nth 0 o 0)).take (192 * h.elems)
    match State.restoreElems (blockElems p.blk.side) 0 elems (s.at k) with
    | .error i => .bad s (area + nth 0 o 1 + 192 * i)
    | .ok t =>
      let t := t.at s.focusP
      let (n, t) := (t.fresh, { t with fresh := t.fresh + 7 })
      let t := t.putBytes true p.vbase (b.drop (nth 0 o 3 - nth 0 o 0))
      let planes := restorePlanes (((x.seq first).map fun q : Seq => q.kept).getD []) h.planes (b.drop (nth 0 o 2 - nth 0 o 0))
      let t := State.restoreLinks (t.keptQueues p.launch first) b t
      .ok (t.modPieceAt k fun p => { p with sys := imageSys im n, mx := { p.mx with planes := planes } })
  | .error a, _ => .bad s a
  | _, .error a => .bad s a

/-- A restore has failed (R354): the thread enters the handler of the saved TVEC without starting its task. -/
def State.restoreFails (s : State) (k pos line : Nat) (tvec : W64) : State :=
  let p := s.pieceOf k
  let x := s.launch p.launch
  let s := s.setLaunch p.launch { x with live := x.live + 1 }
  let r : TrapRec := { code := cRESTORE_FAIL, unit := 6, async := true, val := BitVec.ofNat 64 line, loc := 0 }
  s.modPieceAt k fun p =>
    let p := { p with sys := { s.freshSys x (8 * p.panel + p.bay) p.thread with tvec := tvec } }
    let p := p.startTask x pos
    Piece.enter { p with restore := true, c := { p.c with stopped := true }, m := { p.m with stopped := true }, f := { p.f with stopped := true } }
      r p.s.pc

/-- A switched-out sequence resumes on a piece of its class (R53, R354): a header that cannot be read ends it; its next task
then starts at that seam. The save area and the pocket are given back. -/
def execSequenceResume (l : Nat) (s : State) : Host.Outcome State Fault Refusal :=
  match s.want l with
  | some (.resume first area) =>
    match s.firstFit l (.resume first area) with
    | none => .next s
    | some at_ =>
      if !s.granteeIs l then .next s
      else
        let s := s.detectArea area 256
        match s.openArea 2 area with
        | .error _ =>
          let x := (s.launch l).placeSeq first fun q => { q with place := .ended }
          let s := s.setLaunch l { x.skipOn with reserve := none, poolRec := false }
          let s := { s with hub := { s.hub.freeSave area with
            pockets := s.hub.pockets.filter fun kv => !(kv.2.launch == l && kv.2.seq == first) } }
          .next (s.err { cls := 1, src := 1, code := 4, launch := s.launchWord l })
        | .ok h =>
          let q := ((s.launch l).seq first).getD { first := first, next := 0 }
          let (k, s) := (s.noteGrant l).placePiece l first at_
          let s := s.setLaunch l ((s.launch l).placeSeq first fun q => { q with place := .held k, panel := at_.1 })
          let p := s.pieceOf k
          let s := s.clearVault p.vbase (p.vunits * 65536)
          let r := s.restoreContext k first area
          let give (s : State) : State := { s with hub := { s.hub.freeSave area with
            pockets := s.hub.pockets.filter fun kv => !(kv.2.launch == l && kv.2.seq == first) } }
          match r with
          | .ok s =>
            .next (give (s.modPieceAt k fun p => { p with result := q.result }))
          | .bad s line =>
            .next (give (s.restoreFails k q.next line (BitVec.ofNat 64 (dword h 4))))
  | _ => .next s

/-! ## Traps are delivered -/

/-- Whether S stands at an instruction boundary at which a trap may be taken (R165): a word whose request has left it, or
whose effect is complete, comes to its end first. A load or queue load whose reads have been sent is such a word (R164), though
S waits at it for the answers of another package (R365, log 17: DEDUCED). -/
def Piece.mayTrap (p : Piece) : Bool :=
  p.s.done.isNone && !p.s.stopped && !p.halted && (match p.await with
    | .invoke _ => false
    | .load _ => false
    | .qload _ => false
    | .turn _ => false
    | .result _ => false
    | .failed _ _ => false
    | _ => true)

/-- A raised trap is delivered to S at an instruction boundary (R342, R343). -/
def execTrapDelivery (k : Nat) (s : State) : Host.Outcome State Fault Refusal :=
  let p := s.pieceOf k
  if !p.live || p.active || p.traps.isEmpty || p.abort.isSome || p.atSeam || !p.mayTrap then .next s
  else .next (s.modPieceAt k Piece.deliver)

/-! ## The watchdog -/

/-- The blocked element with the lowest y, then x (R273): one where a move, an operation or an edge port was held in the cycle
before `time`, or that a trap has stopped. -/
def Piece.blockedElem (p : Piece) (time : Nat) : Option Nat :=
  (blockElems p.blk.side).find? fun e => (p.elem e).stopped || (time != 0 && (p.elem e).heldAt == time)

/-- WATCHDOG is raised when the stall count reaches its limit (R273, R341): the record names a blocked element, with no port or
slot, or says that only engines are blocked. -/
def execWatchdog (k : Nat) (s : State) : Host.Outcome State Fault Refusal :=
  let p := s.pieceOf k
  let lim := p.sys.wdog.toNat % 2 ^ 40
  if !p.live || lim = 0 || p.stall < lim || p.active || p.abort.isSome || p.traps.any fun r => r.code == cWATCHDOG then .next s
  else
    let (unit, loc, e) := match p.blockedElem s.time with
      | some e => (4, elemLoc e 0 0 ((p.pleat e false).member != 0), 256)
      | none => (0, 0xFFFFF, 256)
    .next (s.modPieceAt k (·.raise
      { code := cWATCHDOG, unit := unit, async := true, val := BitVec.ofNat 64 lim, loc := loc, elem := e }))

/-! ## The end of a launch (R46, R48, R317) -/

/-- Whether every token of a launch's external queues has been sent and acknowledged (R317); a lost pair holds nothing
open (R394). -/
def State.linksDone (s : State) (l : Nat) : Bool :=
  s.links.queues.all fun kv => kv.2.launch != l || !kv.2.live || kv.2.lost || (match kv.2.pair with
    | none => true
    | some n => kv.2.send.isEmpty && (s.pairOf n).replay.isEmpty)

/-- Whether every write of a launch's tasks has performed at system scope (R48). -/
def State.launchQuiet (s : State) (l : Nat) : Bool :=
  (s.ops.all fun o => (s.pieceOf o.piece).launch != l || o.kind == .read)
    && s.scatters.all fun u => (s.pieceOf u.piece).launch != l

/-- The die-to-die and lost link queues of a launch are gone with it. -/
def State.dropQueues (s : State) (l : Nat) : State :=
  let qs := s.links.queues.filter fun kv => !(kv.2.launch == l && (kv.2.pair.isNone || kv.2.lost))
  { s with links := { s.links with queues := qs } }

/-- A launch all of whose tasks have ended reaches DONE (R48): the notify register DONE is advanced, and a host source gets its
completion interrupt. -/
def execLaunchDone (l : Nat) (s : State) : Host.Outcome State Fault Refusal :=
  let x := s.launch l
  if x.st != .draining || x.live != 0 || x.next < x.total || !s.linksDone l || !s.launchQuiet l then .next s
  else
    let s := (s.setLaunch l { x with st := .done }).dropQueues l
    let s := if x.fld 0x50 24 1 = 1 then
        let n := x.fld 0x50 16 8
        s.setNotify n (s.notifyVal n + 1)
      else s
    .next (match x.src with
      | 0 => s.hostIrq false (1 + x.queue)
      | 1 => s.hostIrq true (1 + x.queue)
      | _ => s)

end Sys2Proof.Machine
end

