-- ==== Sys2Proof/Machine/HubSec.lean ====
section
/-! DEFINITION. The trust domains and their keys (R299, R399, R400), debug (R301, R306, R307, R402), the lifecycle (R300),
attestation (R298) and measurements (R297). -/

namespace Sys2Proof.Machine

/-- Whether the management core serves requests: its firmware runs, and the package is in ACTIVE or QUIET (R296, R303). -/
def Hub.served (h : Hub) : Bool := 2 ≤ h.boot && h.power ≤ 1

/-! ## Keys -/

/-- Domain 0 takes new keys from the random-number generator (R299, log 9, DESIGN CHOICE). -/
def State.newSystemKeys (s : State) : State :=
  let (n, s) := s.takeFresh
  let (m, s) := s.takeFresh
  let k : KeyDom := { prov := true, xts := Config.randomBits n, cmac := (Config.randomBits m).truncate 256 }
  { s with hub := { s.hub with keys := s.hub.keys.insert 0 k } }

/-- Replaces a domain of the key store. -/
def State.setKeyDom (s : State) (d : Nat) (k : KeyDom) : State := { s with hub := { s.hub with keys := s.hub.keys.insert d k } }

/-- The provisioned domains. -/
def Hub.provisioned (h : Hub) : List Nat := (List.range 16).filter fun d => (SMap.get ({} : KeyDom) h.keys d).prov

/-- Whether D2 or D3 is granted to a part that holds keys (R306, R399). -/
def Hub.keysShut (h : Hub) : Bool := 2 ≤ h.dbg.toNat && (h.lc == 1 || h.lc == 2)

/-- The STATUS with which a key request is refused at once, or 0 (R399). -/
def Hub.keyRefusal (h : Hub) (v : Nat) : Nat :=
  let d := bits v 2 4
  let k := SMap.get ({} : KeyDom) h.keys d
  if h.lc == 0 || h.lc == 3 then 5
  else if h.keysShut then 4
  else if bits v 0 2 = 1 then (if k.ending then 6 else if k.prov then 2 else 0)
  else if d = 0 || !k.prov || k.ending then 3 else 0

/-- KEY_REVOKED of a domain, as each piece of it receives it (R341, R400). -/
def revokedTrap (d : Nat) : TrapRec :=
  { code := cKEY_REVOKED, unit := 6, async := true, val := BitVec.ofNat 64 d, loc := 0 }

/-- Whether a piece runs a task of a launch. -/
def State.runsOf (s : State) (l : Nat) : Bool := s.pieces.any fun kv => kv.2.live && kv.2.launch == l && !kv.2.atSeam

/-- A switched-out sequence ends. -/
def Seq.dropSaved (q : Seq) : Seq :=
  match q.place with
  | .saved _ => { q with place := .ended }
  | _ => q

/-- The switched-out sequences of a launch end with no restore; their areas and pockets are freed (R400). -/
def State.dropSaved (s : State) (l : Nat) : State :=
  let x := s.launch l
  let h := (savedAreas x.seqs).foldl Hub.freeSave s.hub
  let ps := h.pockets.filter fun kv => !(kv.2.launch == l && (x.seqs.any fun q => q.first == kv.2.seq && q.dropSaved != q))
  State.setLaunch { s with hub := { h with pockets := ps } } l { x with seqs := x.seqs.map Seq.dropSaved }

/-- What the revocation of a domain does to one launch of it (R400, steps 3 and 4). -/
def State.revokeLaunch (s : State) (d l : Nat) : State :=
  let x := s.launch l
  if !x.open || x.domain != d then s
  else if s.runsOf l then
    let s := s.dropSaved l
    { s with pieces := s.pieces.map fun kv =>
      (kv.1, if kv.2.live && kv.2.launch == l then kv.2.raise (revokedTrap d) else kv.2) }
  else
    let s := (s.endUnfit l).err { cls := 1, src := 1, code := 6, launch := s.launchWord l }
    s.sourceErr x.src

/-- The first four steps of a revocation (R400): records and bind flits of the domain are rejected, requests that need
its keys refused, its pieces trapped, its other launches and switched-out sequences ended. -/
def State.startRevoke (s : State) (d : Nat) : State :=
  let s := s.setKeyDom d { s.keyDom d with ending := true }
  s.hub.launches.foldl (fun s kv => s.revokeLaunch d kv.1) s

/-- The last two steps: the bindings of the domain are lost and its keys are zeroed (R400). -/
def State.finishRevoke (s : State) (d : Nat) : State :=
  let ps := s.links.pairs.filter fun kv => (kv.2.launch.isSome && kv.2.dom == d) || (kv.2.server && kv.2.served == d)
  let s := ps.foldl (fun s kv => s.losePair kv.1 6 (d % 16 * 2 ^ 16)) s
  s.setKeyDom d {}

/-- Every domain's keys are destroyed at once, and domain 0 takes new ones (R299, R300, R306). -/
def State.destroyKeys (s : State) : State :=
  let ds := s.hub.provisioned
  let s := ds.foldl State.startRevoke s
  (ds.foldl State.finishRevoke s).newSystemKeys

/-- A write of KEYREQ (R399): a request starts, or is refused, unless one is in progress. -/
def State.keyReqWrite (s : State) (ag : HubAgent) (v : W64) : State :=
  let op := bits v.toNat 0 2
  if !(ag == .host0 || ag == .mgmt) || !s.hub.served || s.hub.keybusy || op = 0 || op = 3 then s
  else match s.hub.keyRefusal v.toNat with
    | 0 =>
      let s := { s with hub := { s.hub with keybusy := true, keyreq := v } }
      if op = 2 then s.startRevoke (bits v.toNat 2 4) else s
    | c => { s with hub := { s.hub with keystat := c } }

/-- A write of KEYREQ that asks for a load (R399). -/
def execKeyLoad (ag : HubAgent) (v : W64) (s : State) : Host.Outcome State Fault Refusal :=
  s.byAgent ag fun s => (s.keyReqWrite ag (BitVec.ofNat 64 (putBits v.toNat 0 2 1)))
/-- A write of KEYREQ that asks for a revocation (R399, R400). -/
def execKeyRevoke (ag : HubAgent) (v : W64) (s : State) : Host.Outcome State Fault Refusal :=
  s.byAgent ag fun s => (s.keyReqWrite ag (BitVec.ofNat 64 (putBits v.toNat 0 2 2)))

/-- The keys that a blob unwraps to (R299, log 10, DESIGN CHOICE). -/
def State.unwrapKeys (s : State) (tool : Bool) (a : Nat) : KeyDom × State :=
  let blob := ofBytes (s.bytes false a 128)
  let (n, s) := s.takeFresh
  let (m, s) := s.takeFresh
  ({ prov := true, tool := tool, xts := Config.unwrapped n blob, cmac := (Config.unwrapped m blob).truncate 256 }, s)

/-- The local physical address of the wrapped blob (R399). -/
def blobAddr (v : Nat) : Nat := bits v 12 33 * 4096

/-- A key request finishes (R399): `ok` says whether the blob of a load unwraps and verifies. -/
def execKeyRequestComplete (ok : Bool) (s : State) : Host.Outcome State Fault Refusal :=
  let v := s.hub.keyreq.toNat
  let d := bits v 2 4
  let ends (s : State) (st : Nat) : State := { s with hub := { s.hub with keybusy := false, keystat := st } }
  if !s.hub.keybusy then .next s
  else if bits v 0 2 = 2 then .next (ends (s.finishRevoke d) 0)
  else if s.hub.keyRefusal v != 0 then .next (ends s (s.hub.keyRefusal v))
  else if !ok || !s.inMem (blobAddr v) then .next (ends s 1)
  else
    let r := s.unwrapKeys (bitAt v 6) (blobAddr v)
    .next (ends (r.2.setKeyDom d r.1) 0)

/-! ## Debug -/

/-- Every byte of the vaults is zeroed (R306). -/
def State.zeroVaults (s : State) : State :=
  { s with vault := [], poison := s.poison.filter fun kv => kv.1 % 2 == 0, upset := s.upset.filter fun kv => kv.1 % 2 == 0 }

/-- Whether the combined table allows a debug level (R306), in ACTIVE or QUIET. -/
def Hub.dbgAllowed (h : Hub) (level : Nat) : Bool := level < 3 || h.lc == 0 || h.lc == 3
/-- Whether it takes a token (R306). -/
def Hub.dbgToken (h : Hub) (level : Nat) : Bool := level == 2 && (h.lc == 1 || h.lc == 2)

/-- A debug level comes into force, with what the combined table makes of keys, launches and vaults (R306). -/
def State.grantDebug (s : State) (level : Nat) : State :=
  let set (s : State) : State := { s with hub := { s.hub with dbg := BitVec.ofNat 2 level, dstat := 0 } }
  let free (s : State) : State := { s with pieces := s.pieces.map fun kv => (kv.1, { kv.2 with halted := false, stepping := false }) }
  if level < 2 then set (free s)
  else if s.hub.dbgToken level then set s.destroyKeys.zeroVaults
  else
    let s := if s.hub.lc == 3 || level = 3 then s.endLaunches else s
    set s.zeroVaults

/-- Sets DSTAT of a refused request (R402). -/
def State.dstatus (s : State) (c : Nat) : State := { s with hub := { s.hub with dstat := BitVec.ofNat 8 c } }
/-- A refusal that counts toward the limit of 64 (R402). -/
def State.tokenRefused (s : State) (c : Nat) : State :=
  State.dstatus { s with hub := { s.hub with dbgFails := s.hub.dbgFails + 1 } } c

/-- A read of DBGREQ by an agent that obtains nonces (R68, R301, R402): a fresh nonce, which makes every earlier one
invalid. -/
def State.readNonce (s : State) : W64 × State :=
  let (n, s) := s.takeFresh
  let v : W64 := (Config.randomBits n).truncate 64
  (v, { s with hub := { s.hub with nonce := v, nonceOk := true, nonceN := s.hub.nonceN + 1 } })

/-- Whether an agent obtains nonces and may ask for debug: a host function or the management core (R68, R294). -/
def mayDebug (ag : HubAgent) : Bool := ag == .host0 || ag == .host1 || ag == .mgmt

/-- What a read of DBGREQ answers (R301): only the host functions and the management core obtain a nonce, others read 0
(R68). -/
def State.nonceAnswer (s : State) (ag : HubAgent) : State :=
  if mayDebug ag then
    let r := s.readNonce
    r.2.emit (.readData (bytesOf 8 r.1.toNat) false)
  else s.emit (.readData (List.replicate 8 0) false)

/-- A read of DBGREQ. -/
def execDebugNonceRead (ag : HubAgent) (s : State) : Host.Outcome State Fault Refusal := s.byAgent ag fun s => s.nonceAnswer ag

/-- A write of DBGREQ (R301, R306, R307, R402). A D2 of a part that holds keys lasts until D0 is requested. -/
def State.dbgWrite (s : State) (ag : HubAgent) (v : W64) : State :=
  let h := s.hub
  let level := bits v.toNat 0 2
  if !mayDebug ag || h.boot < 2 || h.dbgReq.isSome then s
  else if h.entering != 0 || 2 ≤ h.power then s.dstatus 4
  else if !h.dbgAllowed level then s.dstatus 1
  else if level = 1 && h.keysShut then s.dstatus 0
  else if !h.dbgToken level then s.grantDebug level
  else if 64 ≤ h.dbgFails then s.dstatus 2
  else { s with hub := { h with dbgReq := some v, dbgAt := s.time } }

/-- A write of DBGREQ. -/
def execDebugRequest (ag : HubAgent) (v : W64) (s : State) : Host.Outcome State Fault Refusal :=
  s.byAgent ag fun s => s.dbgWrite ag v

/-! ## Power requests, which the same core serves (R303, R307) -/

/-- Whether a launch holds a piece or is READY, or is under way (R303, R306: in RETAIN only WAITING launches exist). -/
def State.inUse (s : State) : Bool :=
  (s.pieces.any fun kv => kv.2.live) || s.hub.launches.any fun kv => kv.2.open && kv.2.st != .waiting

/-- A request to enter RETAIN (2) or DOWN (3) is served (R303, R306). -/
def State.enterPower (s : State) (st : Nat) : State :=
  if s.inUse then { s with hub := { s.hub with refused := true } }
  else
    let s := { s with hub := { s.hub with entering := st, dbg := 0 } }
    { s with pieces := s.pieces.map fun kv => (kv.1, { kv.2 with halted := false, stepping := false }) }

/-- Serves one PWRCTL request (R303): 1 RETAIN, 2 DOWN, 3 wake. -/
def State.servePower (s : State) (req : Nat) : State :=
  let h := s.hub
  match req with
  | 1 => if h.power ≤ 1 && h.entering = 0 then s.enterPower 2 else s
  | 2 => if h.entering = 0 then s.enterPower 3 else s
  | 3 => if h.power = 2 || h.entering = 2 then { s with hub := { h with wakeDue := true } } else s
  | _ => s

/-- A write of PWRCTL (R303, R307): served in arrival order with debug requests; one that arrives in the cycle of a debug
request is served first. -/
def State.pwrWrite (s : State) (ag : HubAgent) (req : Nat) : State :=
  if !(ag == .host0 || ag == .mgmt) || s.hub.boot < 2 then s
  else match s.hub.dbgReq with
    | none => s.servePower req
    | some _ =>
      if s.hub.dbgAt = s.time then
        let t := s.servePower req
        if t.hub.entering != 0 then State.dstatus { t with hub := { t.hub with dbgReq := none } } 4 else t
      else { s with hub := { s.hub with pwrWait := s.hub.pwrWait ++ [req] } }

/-- Requests entry to RETAIN. -/
def execPwrEnterRetain (ag : HubAgent) (s : State) : Host.Outcome State Fault Refusal := s.byAgent ag fun s => s.pwrWrite ag 1
/-- Requests entry to DOWN. -/
def execPwrEnterDown (ag : HubAgent) (s : State) : Host.Outcome State Fault Refusal := s.byAgent ag fun s => s.pwrWrite ag 2
/-- Requests a wake from RETAIN. -/
def execPwrWake (ag : HubAgent) (s : State) : Host.Outcome State Fault Refusal := s.byAgent ag fun s => s.pwrWrite ag 3

/-- The verification of an unlock token ends (R402): it spends the nonce, and grants or refuses the level. A token that
fails is refused as a bad one or as one over another nonce; where no nonce is valid, as the latter. The power requests
that came behind it are served (R307). -/
def execDebugVerificationComplete (ok : Bool) (s : State) : Host.Outcome State Fault Refusal :=
  match s.hub.dbgReq with
  | none => .next s
  | some v =>
    let valid := s.hub.nonceOk
    let s := { s with hub := { s.hub with dbgReq := none, nonceOk := false } }
    let s := if !valid then s.tokenRefused 3
      else if ok then s.grantDebug (bits v.toNat 0 2)
      else
        let (c, s) := s.choose
        s.tokenRefused (2 + c % 2)
    let reqs := s.hub.pwrWait
    .next (reqs.foldl State.servePower { s with hub := { s.hub with pwrWait := [] } })

/-- Whether S stands where a debugger may halt it (R165, R301). -/
def Piece.mayHalt (p : Piece) : Bool := p.live && !p.atSeam && p.abort.isNone && p.mayTrap

/-- S halts at an instruction boundary (R165, R301, R341): a word it waits in is abandoned, and DEBUG_HALT is recorded. -/
def Piece.halt (p : Piece) : Piece :=
  let pc := p.spc
  let p := p.abandon.dropAwait
  { p with
    halted := true, stepping := false, await := .none, parked := false, pre := .none
    s := { p.s with pc := pc, issued := false, counted := false, slip := false, waitQ := false, tdeps := [], tfrom := none,
                    word := none, tackWait := none, ending := false }
    sys := { p.sys with tcause := BitVec.ofNat 64 (cDEBUG_HALT + 2048), tval := 0, tloc := 0 } }

/-- A D2 debugger halts an access thread (R301). -/
def execDebugHalt (p : Nat) (s : State) : Host.Outcome State Fault Refusal :=
  if s.hub.dbg.toNat < 2 || !(s.pieceOf p).mayHalt then .next s else .next (s.modPieceAt p Piece.halt)

/-- A D2 debugger resumes a halted thread, or lets it run one word (R301). -/
def execDebugStep (p : Nat) (resume : Bool) (s : State) : Host.Outcome State Fault Refusal :=
  let x := s.pieceOf p
  if s.hub.dbg.toNat < 2 || !x.live || !x.halted then .next s
  else .next (s.modPieceAt p fun x => { x with halted := false, stepping := !resume })

/-! ## Lifecycle and measurements -/

/-- The DRAM stacks and LPDDR6 are zeroed (R300), the wall table at the reset value of WALLBASE with them; the host windows are the
hosts' own memory. -/
def State.zeroMemory (s : State) : State :=
  { s with mem := (tab (2 ^ 20) fun a => (a, (0 : Byte))) ++ s.mem.filter fun kv => 2 ^ 41 ≤ kv.1, lmeta := [], poison := s.poison.filter fun kv => kv.1 % 2 == 1
           upset := s.upset.filter fun kv => kv.1 % 2 == 1 }

/-- A lifecycle command (R300): signed, it moves the state on by one. Entry to RMA destroys the keys and zeroes all memory
before the fuse is blown. -/
def execLifecycleTransition (lc : BitVec 2) (signed : Bool) (s : State) : Host.Outcome State Fault Refusal :=
  if !signed || !s.hub.served || lc.toNat != s.hub.lc.toNat + 1 then .next s
  else
    let s := if lc = 3 then s.destroyKeys.zeroVaults.zeroMemory else s
    .next { s with hub := { s.hub with lc := lc } }

/-- A signed request extends a measurement register 4 to 15; register 3 is extended when firmware loads the supervisor
image (R297). -/
def execMeasurementExtend (i : Nat) (digest : BitVec 256) (s : State) : Host.Outcome State Fault Refusal :=
  if i < 3 || 16 ≤ i || !s.hub.served then .next s else .next (s.extend i digest)

/-! ## Attestation (R298) -/

/-- Whether the wall lets a host function reach every granule of a range (R78). -/
def State.hostMay (s : State) (a n : Nat) (wr : Bool) : Bool :=
  (List.range (n / 2 ^ 21 + 2)).all fun i =>
    let g := a / 2 ^ 21 + i
    (a + n - 1) / 2 ^ 21 < g || (match s.wallKind (g * 2 ^ 21) with
      | 0 => true
      | 1 => wr
      | 2 => true
      | _ => false)

/-- Where the report for a nonce at `a` goes: the following 64-byte-aligned address. -/
def reportAddr (a : Nat) : Nat := (a + 32 + 63) / 64 * 64

/-- A write of ATTREQ (R298). -/
def State.attWrite (s : State) (ag : HubAgent) (v : W64) : State :=
  let a := v.toNat
  if !(ag == .host0 || ag == .host1) || !s.hub.served || s.hub.attReq.isSome then s
  else if !s.inMem a || !s.hostMay a 32 false || !s.inMem (reportAddr a) || !s.hostMay (reportAddr a) 6284 true then
    { s with hub := { s.hub with attStat := 1 } }
  else if 2 ^ 40 ≤ s.hub.sigCtr then { s with hub := { s.hub with attStat := 2 } }
  else { s with hub := { s.hub with attReq := some v } }

/-- An ATTREQ write asks for a report. -/
def execAttestRequest (ag : HubAgent) (v : W64) (s : State) : Host.Outcome State Fault Refusal :=
  s.byAgent ag fun s => s.attWrite ag v

/-- The fields of a report (R298): IDENT, the nonce, the measurement registers, SECSTAT and the signature counter, in
that order (log 36, PRESUMED). -/
def State.report (s : State) (nonce : List Byte) : List Byte :=
  bytesOf 8 s.hub.ident.toNat ++ nonce
    ++ ((List.range 16).flatMap fun i => bytesOf 32 (SMap.get (0 : BitVec 256) s.hub.meas i).toNat)
    ++ bytesOf 8 s.hub.secstat ++ bytesOf 8 s.hub.sigCtr

/-- The bytes of a signature over a report (log 10, DESIGN CHOICE). -/
def signatureBytes (n report : Nat) : List Byte :=
  ((List.range 90).flatMap fun i => bytesOf 64 (Config.signature (n + i) report).toNat).take 5716

/-- A report is signed and written (R298): the counter is advanced first. -/
def execAttestationReportDone (s : State) : Host.Outcome State Fault Refusal :=
  match s.hub.attReq with
  | none => .next s
  | some v =>
    let s := { s with hub := { s.hub with attReq := none, sigCtr := s.hub.sigCtr + 1, attStat := 0 } }
    let nonce := (s.read false v.toNat 32).data
    let r := s.report nonce
    let n := s.fresh
    let s := { s with fresh := s.fresh + 90 }
    .next (s.hubWrite (reportAddr v.toNat) (r ++ signatureBytes n (ofBytes r)))

end Sys2Proof.Machine
end

