-- ==== Sys2Proof/Machine/HubPower.lean ====
section
/-! DEFINITION. Boot and bring-up (R296, R403, R412), the package power states (R303, R306, R307, R404), and blocks that
halve their cadence or gate themselves (R302). -/

namespace Sys2Proof.Machine

/-! ## Boot -/

/-- What outlives a loss of power: fuses, straps and nonvolatile counters (R13, R293, R298, R300, R388), the host's own
memory, and the model's own agenda, choices, counters and outbox. -/
def State.powerless (s : State) : State :=
  let h := s.hub
  let hub : Hub := {
    form := h.form, step := h.step, toilref := h.toilref, unpick := h.unpickFuse, unpickFuse := h.unpickFuse, lc := h.lc
    sigCtr := h.sigCtr, hostEn := h.hostEn, cxl := h.cxl, pkg := h.pkg }
  { State.reset with
    agenda := s.agenda, choices := s.choices, focusP := s.focusP, focusE := s.focusE, focusS := s.focusS, fresh := s.fresh
    opCount := s.opCount, outbox := s.outbox, mem := s.mem.filter fun kv => 2 ^ 41 ≤ kv.1, hub := hub }

/-- Power-good: step 1 of R296, with new keys for domain 0 (R299) and the strap CXLSEL read once (R293): its level is the next
choice (log 4, DESIGN CHOICE). -/
def execPowerGood (s : State) : Host.Outcome State Fault Refusal :=
  let (c, s) := s.powerless.choose
  .next (State.newSystemKeys { s with hub := { s.hub with boot := 1, cxl := c % 2 == 1 } })

/-- DOWN: everything is lost (R303, R306). -/
def State.powerOff (s : State) : State :=
  let s := s.powerless
  { s with hub := { s.hub with power := 3 } }

/-- The supply is removed. -/
def execPowerRemoved (s : State) : Host.Outcome State Fault Refusal := .next s.powerOff

/-- A fatal record of bring-up or boot: it goes to the always-on buffer, since the ring needs LPDDR6 (R296, R403). -/
def State.bootFails (s : State) (src code detail : Nat) : State :=
  let r : ErrRec := { cls := 2, src := src, code := code, detail := detail }
  let h := { s.hub with aonbuf := r.bytes s.hub.errseq.toNat s.time, errseq := s.hub.errseq + 1, boot := 0 }
  let s := (State.endLaunches { s with hub := h }).setLevel 0
  { s with hub := { s.hub with fatal := true } }

/-- Step 2 of R296: the ROM verifies and measures the management core's firmware. -/
def execManagementFirmwareVerify (ok : Bool) (digest : BitVec 256) (s : State) : Host.Outcome State Fault Refusal :=
  if s.hub.boot != 1 then .next s
  else if !ok then .next (s.bootFails 7 0 0)
  else
    let s := s.extend 0 digest
    .next { s with hub := { s.hub with boot := 2 } }

/-- Clears the vaults of a panel (R412). -/
def State.clearPanel (s : State) (p : Nat) : State :=
  let mine (a : Nat) : Bool := a / 2 ^ 29 == p
  let drop (k : Nat) : Bool := k % 2 == 1 && mine (k / 2)
  { s with vault := s.vault.filter fun kv => !mine kv.1
           poison := s.poison.filter fun kv => !drop kv.1, upset := s.upset.filter fun kv => !drop kv.1 }

/-- Sets a bit of SVC. -/
def State.svcBit (s : State) (i : Nat) (b : Bool) : State :=
  { s with hub := { s.hub with svc := BitVec.ofNat 8 (putBits s.hub.svc.toNat i 1 (if b then 1 else 0)), fused := s.hub.fusesUp || b } }

/-- Panel 0 starts, in basting service (R296, step 3). -/
def State.startBasting (s : State) : State :=
  let s := (s.clearPanel 0).svcBit 2 true
  State.setLevel { s with hub := { s.hub with boot := 4 } } 1

/-- A panel fails bring-up (R403): it is fenced, and a record is written. -/
def State.panelFails (s : State) (p : Nat) : State :=
  (s.err { cls := 1, src := 9, code := 2, detail := p }).fencePanel p

/-- Step 3 of R296 and its failures (R403). `lpcap` is the LPDDR6 found, at most 1 TiB (R7, R13); a channel mask is a value the manual leaves to
the failure, free here. -/
def execBastingStart (fwOk lpOk p0Ok : Bool) (lpcap : BitVec 8) (dSide dBank : BitVec 256) (s : State) :
    Host.Outcome State Fault Refusal :=
  if s.hub.boot != 2 then .next s
  else if !lpOk then
    let (n, s) := s.takeFresh
    .next (s.bootFails 9 1 ((Config.freeWord n).toNat % 2 ^ 32))
  else
    let s := { s with hub := { s.hub with lpcap := BitVec.ofNat 8 (Nat.min lpcap.toNat 128) } }
    if !fwOk then .next (s.bootFails 7 0 0)
    else
      let s := (s.extend 1 dSide).extend 2 dBank
      if p0Ok then .next s.startBasting
      else
        let s := s.panelFails 0
        .next { s with hub := { s.hub with boot := 3 } }

/-- A panel of step 4: it becomes grantable with a cleared vault, or is fenced. Panel 0 has been started or fenced at step
3; after a failed step 3 it stays fenced. -/
def State.startPanel (s : State) (panels : BitVec 4) (p : Nat) : State :=
  if s.hub.fenced.contains p then s
  else if p = 0 then s
  else if bitAt panels.toNat p then (s.clearPanel p).svcBit (2 + p) true
  else s.panelFails p

/-- The stacks of step 4 (R403): one that fails is lost, as is one lost on a wake. -/
def State.startStacks (s : State) (stk : BitVec 8) : State :=
  let up := stk &&& ~~~s.hub.stkLost
  let s := (List.range 8).foldl (fun s k =>
    if bitAt stk.toNat k || bitAt s.hub.stkLost.toNat k then s else s.err { cls := 1, src := 9, code := 3, detail := k }) s
  State.svcBit { s with hub := { s.hub with stkstat := up } } 6 true

/-- A lane as training leaves it, where `dirs` has the bits of the port's outgoing lanes: its own group follows from its place among
the lanes of its direction (R275). -/
def trainedLane (dirs i : Nat) (up : Bool) : LaneSt :=
  let out := bitAt dirs i
  { out := out, homeOut := out, up := up, home := ((List.range i).filter fun j => bitAt dirs j == out).length / 2 }

/-- The outgoing lanes that training gives a port (R275): lanes 0 to 7, or another eight, as the next choice says (log 69, DESIGN
CHOICE). A wake keeps the directions of power-good (R404). -/
def State.trainDirs (s : State) (port : Nat) : Nat × State :=
  match SMap.get 0 s.hub.dirs port with
  | 0 =>
    let (c, s) := s.choose
    let d := if ((List.range 16).filter (bitAt c)).length = 8 then c else 0xFF
    (d, { s with hub := { s.hub with dirs := s.hub.dirs.insert port d } })
  | d => (d, s)

/-- Training of the 16 lanes of a port. -/
def State.startPort (lanes : BitVec 512) (s : State) (port : Nat) : State :=
  let (d, s) := s.trainDirs port
  (List.range 16).foldl (fun s i =>
    let up := bitAt lanes.toNat (16 * port + i)
    let s := s.setLane port i (trainedLane d i up)
    if up then s
    else s.err { cls := 0, src := 9, code := 4, loc := errLoc 0 0 port i, detail := port + i * 32 }) s

/-- The lanes of step 4 (R275, R403). -/
def State.startLanes (s : State) (lanes : BitVec 512) : State :=
  let s := (List.range 32).foldl (State.startPort lanes) s
  ((List.range 32).foldl State.refreshPort s).svcBit 7 true

/-- Step 4 of R296: the stacks, the links and the other panels, giving FULL or DEGRADED (R304, R403), or 0 where every
panel has failed. -/
def execFullServiceStart (stk : BitVec 8) (panels : BitVec 4) (lanes : BitVec 512) (s : State) :
    Host.Outcome State Fault Refusal :=
  if !(s.hub.boot == 3 || s.hub.boot == 4) || 2 ≤ s.hub.power || s.hub.entering != 0 then .next s
  else
    let s := (((List.range 4).foldl (fun s p => s.startPanel panels p) s).startStacks stk).startLanes lanes
    let h := s.hub
    let whole := h.fenced.isEmpty && h.unpick.all (fun kv => !kv.2) && h.stkstat == 0xFF && lanes == BitVec.allOnes 512
    let level := if 4 ≤ h.fenced.length then 0 else if whole then 2 else 3
    .next (State.setLevel { s with hub := { h with boot := 5 } } level)

/-! ## RETAIN, DOWN and the wake -/

/-- The package has reached RETAIN (R303, R306): the vaults are lost, the links and caches are off, SVC reads 0. -/
def State.retain (s : State) : State :=
  let s := s.zeroVaults
  let s := s.setLevel 0
  let h := { s.hub with power := 2, entering := 0, fused := s.hub.fusesUp, svc := 0, tlbs := [], gtlbs := [], pockets := [], held := []
                        hot := [], gated := [], used := [], waking := [], stkstat := 0, sgbusy := false, attReq := none }
  { s with hub := h, links := {}, pieces := [], ops := [], scatters := [], barEvs := [], invokes := [], side := [], resv := [] }

/-- Whether everything the hub has handed on has performed, so that an entry may complete. -/
def State.memQuiet (s : State) : Bool := s.ops.isEmpty && s.scatters.isEmpty && s.barEvs.isEmpty && s.invokes.isEmpty

/-- A commanded entry completes (R303, R307). -/
def execPowerStateEntryComplete (s : State) : Host.Outcome State Fault Refusal :=
  if !s.memQuiet then .next s
  else match s.hub.entering with
    | 2 => .next s.retain
    | 3 => .next s.powerOff
    | _ => .next s

/-- The re-measurement of a wake fails (R404): the fatal record, the keys destroyed, the waiting launches dropped. -/
def State.wakeFails (s : State) : State :=
  let dropped := s.hub.launches.map fun (kv : Nat × Launch) => (kv.1, { kv.2 with st := LState.none })
  State.bootFails { s with hub := { s.hub with keys := [], launches := dropped, power := 0, wakeDue := false } } 7 0 0

/-- A wake from RETAIN repeats steps 2 and 3 of R296 (R303, R404): the measurement registers are cleared, the firmware is
measured again, and stacks that do not leave self-refresh are lost. -/
def execWakeRemeasure (ok : Bool) (lost : BitVec 8) (dMgmt dSide dBank : BitVec 256) (s : State) :
    Host.Outcome State Fault Refusal :=
  if s.hub.power != 2 || !s.hub.wakeDue then .next s
  else
    let s := { s with hub := { s.hub with meas := [] } }
    if !ok then .next s.wakeFails
    else
      let s := ((s.extend 0 dMgmt).extend 1 dSide).extend 2 dBank
      let s := (List.range 8).foldl (fun s k => if bitAt lost.toNat k then s.err { cls := 1, src := 9, code := 3, detail := k } else s) s
      let s := { s with hub := { s.hub with stkLost := s.hub.stkLost ||| lost, power := 0, wakeDue := false } }
      if s.hub.fenced.contains 0 then .next { s with hub := { s.hub with boot := 4 } } else .next s.startBasting

/-! ## Blocks (R302, R303) -/

/-- A block passes 105 degrees and halves its cadence (R8, R302). -/
def execBlockCadenceHalve (b : Nat) (s : State) : Host.Outcome State Fault Refusal :=
  if blockCount ≤ b || s.hub.hot.contains b || 2 ≤ s.hub.power then .next s
  else .next { s with hub := { s.hub with hot := s.hub.hot ++ [b] } }

/-- A block below 95 degrees returns to full cadence (R302). -/
def execBlockCadenceRestore (b : Nat) (s : State) : Host.Outcome State Fault Refusal :=
  .next { s with hub := { s.hub with hot := s.hub.hot.filter fun x => x != b } }

/-- A block that has been idle for 2^16 cycles power-gates with retention; once every compute block is gated the package is
QUIET (R302, R303). -/
def execBlockPowerGate (b : Nat) (s : State) : Host.Outcome State Fault Refusal :=
  if blockCount ≤ b || s.hub.gated.contains b || 2 ≤ s.hub.power || s.hub.boot < 3 || !s.blockIdle b then .next s
  else match s.elemOfBlock b with
    | some (k, e) => .next (s.modPieceAt k fun p => p.setElem e { p.elem e with gate := 2 }).requiet
    | none => .next (State.requiet { s with hub := { s.hub with gated := s.hub.gated ++ [b] } })

/-- A power-gated block has woken; the first brings the package back to ACTIVE (R303). -/
def execBlockWake (b : Nat) (s : State) : Host.Outcome State Fault Refusal :=
  if !s.hub.gated.contains b || 2 ≤ s.hub.power then .next s else .next (s.wakeBlock b)

end Sys2Proof.Machine
end

