-- ==== Sys2Proof/Machine/HubAccess.lean ====
section
/-! DEFINITION. What the host functions, the sidecar and the management core do at the hub and in memory: register writes
(R3, R39, R40, R89, R294, R357), host reads and writes (R117, R292), sidecar accesses (R118, R294), and the writes that
start a subgraph load (R85) or a page move (R363); and how a write of any agent performs (R95). -/

namespace Sys2Proof.Machine

/-! ## Registers -/

/-- A write of ERRTAIL: host function 0, the sidecar or the management core (R357). -/
def State.errtail (s : State) (ag : HubAgent) (v : W64) : State :=
  if ag == .host0 || ag == .sidecar || ag == .mgmt then s.hubSet 0x3818 v else s

/-- A write of ERRTAIL (R357). -/
def execErrtailWrite (ag : HubAgent) (v : W64) (s : State) : Host.Outcome State Fault Refusal :=
  s.byAgent ag fun s => s.errtail ag v

/-- Offsets that a host function may write beside the notify registers and the tails: LQSTAT and PWRSTAT, whose fields are
cleared by writing 1 (R39, R303). The manual gives all others to firmware, the supervisor or nobody. -/
def hostOff (off : Nat) : Bool := (decide (0x1000 ≤ off) && decide (off < 0x2000) && off % 64 == 0x20) || off == 0x3208

/-- Whether a step of its own serves a register. -/
def ownStep (off : Nat) : Bool := off == 0x3818 || off == 0x3320 || off == 0x3308 || off == 0x3200 || off == 0x3310

/-- Writes of the registers that have a step of their own: ERRTAIL, KEYREQ, DBGREQ, PWRCTL, ATTREQ. -/
def State.ownWrite (s : State) (ag : HubAgent) (off : Nat) (v : W64) : State :=
  match off with
  | 0x3818 => s.errtail ag v
  | 0x3320 => s.keyReqWrite ag v
  | 0x3308 => s.dbgWrite ag v
  | 0x3200 => s.pwrWrite ag (v.toNat % 4)
  | _ => s.attWrite ag v

/-- A write into the hub window that the sidecar may not make (R294, R361). -/
def State.sidecarRefused (s : State) (core : Nat) (wr : Bool) (a : Nat) : State :=
  (s.err { cls := 1, src := 3, code := if wr then 2 else 1, addr := a, detail := core }).emit (.accessFault core wr)

/-- A write of a hub register by an agent outside the pieces, on core `core` where it is the sidecar. -/
def State.agentWrite (s : State) (ag : HubAgent) (core off : Nat) (v : W64) : State :=
  if off % 8 != 0 || 2 ^ 24 ≤ off then s
  else if isNotifyOff off then s.agentNotify ag ((off - 0x4000) / 0x800) (off % 0x800 / 8) v
  else if 0x1000 ≤ off && off < 0x2000 && off % 64 = 0x18 then
    s.tailWrite ag ((off - 0x1000) / 64) v
  else match ag with
    | .mgmt => if ownStep off then s.ownWrite ag off v else s.hubSet off v
    | .sidecar => if off = 0x3818 then s.errtail ag v else s.sidecarRefused core true (2 ^ 42 + off)
    | .host0 => if ownStep off then s.ownWrite ag off v else if hostOff off then s.hubSet off v else s
    | .host1 => if ownStep off then s.ownWrite ag off v else if hostOff off then s.hubSet off v else s
    | .thread => s

/-- A register write by an agent outside the pieces (R3). A function that is not enabled reaches nothing (R292). -/
def execRegisterWrite (ag : HubAgent) (off : Nat) (v : W64) (s : State) : Host.Outcome State Fault Refusal :=
  s.byAgent ag fun s => s.agentWrite ag 0 off v

/-- A write of SGLOAD by the management core or a thread (R85). -/
def State.sgWrite (s : State) (ag : HubAgent) (v : W64) : State :=
  if ag == .mgmt then s.sgStart none v else if ag == .thread then s.sgStart (some s.domain) v else s

/-- A write of SGLOAD that loads a subgraph (R85). -/
def execSubgraphLoad (ag : HubAgent) (v : W64) (s : State) : Host.Outcome State Fault Refusal :=
  .next (s.sgWrite ag (BitVec.ofNat 64 (putBits v.toNat 15 1 0)))
/-- A write of SGLOAD that unloads one (R85). -/
def execSubgraphUnload (ag : HubAgent) (v : W64) (s : State) : Host.Outcome State Fault Refusal :=
  .next (s.sgWrite ag (BitVec.ofNat 64 (putBits v.toNat 15 1 1)))

/-- A write of a MOVCTL by the management core or a thread (R363). -/
def State.movByAgent (s : State) (ag : HubAgent) (i : Nat) (v : W64) : State :=
  if (ag == .mgmt || ag == .thread) && i < 8 then s.movCtl i v else s

/-- A move entry takes force, holding (R363, R366). -/
def execMoveHold (ag : HubAgent) (i : Nat) (s : State) : Host.Outcome State Fault Refusal := .next (s.movByAgent ag i 1)
/-- A move entry forwards (R363, R366). -/
def execMoveForward (ag : HubAgent) (i : Nat) (s : State) : Host.Outcome State Fault Refusal := .next (s.movByAgent ag i 3)
/-- A move entry ends (R363, R364). -/
def execMoveEnd (ag : HubAgent) (i : Nat) (s : State) : Host.Outcome State Fault Refusal := .next (s.movByAgent ag i 0)

/-! ## Host accesses (R66, R117, R292, R293) -/

/-- A host function as an agent of the hub. -/
def hostAgent (f : Bool) : HubAgent := if f then .host1 else .host0
/-- Whether a host function is enabled. -/
def Hub.hostUp (h : Hub) (f : Bool) : Bool := h.present (hostAgent f)

/-- Whether an address lies in the 1 TiB that BAR2 shows (R292). -/
def inBar2 (a : Nat) : Bool := a / 2 ^ 40 == 1

/-- A host read of memory (R78, R117, R361, R370). -/
def State.hostRead (s : State) (f : Bool) (a n : Nat) : State :=
  let ones := List.replicate n (0xFF : Byte)
  if !s.inLpddr a || !s.inLpddr (a + n - 1) then s.emit (.readData ones false)
  else if !s.hostMay a n false then
    (s.err { cls := 1, src := 3, code := 3, addr := s.fullPa a, detail := if f then 1 else 0 }).emit (.readData ones false)
  else
    let s := s.detect false a n
    let r := s.view (.host f) false a n false 0
    match r.integ with
    | none => s.emit (.readData r.data r.pois)
    | some _ =>
      let (c, s) := s.choose
      let (k, s) := (s.fresh, { s with fresh := s.fresh + n })
      s.emit (.readData (tab n fun i => (Config.freeWord (k + i)).truncate 8) (c % 2 == 1))

/-- The bytes of the register window from an offset on. -/
def State.barRead (s : State) (off n : Nat) : List Byte :=
  ((((List.range ((off % 8 + n + 7) / 8)).map fun i => bytesOf 8 (s.hubRead (off / 8 * 8 + 8 * i)).toNat).flatten).drop (off % 8)).take n

/-- A host function reads through BAR0 or BAR2: the hub register window, or LPDDR6. -/
def execHostMemoryRead (f : Bool) (addr n : Nat) (s : State) : Host.Outcome State Fault Refusal :=
  if !s.hub.hostUp f || n = 0 then .next s
  else if inHubWin addr then
    let off := addr - 2 ^ 42
    if off / 8 = 0x3308 / 8 then .next (s.nonceAnswer (hostAgent f))
    else .next (s.emit (.readData (s.barRead off n) false))
  else if inBar2 addr then .next (s.hostRead f addr n)
  else .next s

/-- Writes bytes into the register window, a whole aligned doubleword at a time; anything less is discarded (log 37, DEDUCED). -/
def State.barWrite (s : State) (ag : HubAgent) : Nat → Nat → List Byte → State
  | 0, _, _ => s
  | n + 1, off, b =>
    if b.length < 8 then s
    else State.barWrite (s.agentWrite ag 0 off (BitVec.ofNat 64 (ofBytes (b.take 8)))) ag n (off + 8) (b.drop 8)

/-- A posted write of a host function to LPDDR6: it performs as it arrives, or, where its Relaxed Ordering attribute is set or it comes
through CXL, later, unordered with every other (R117, R293), as the next choice says (log 70, DESIGN CHOICE). -/
def State.hostPost (s : State) (f : Bool) (a : Nat) (d : List Byte) : State :=
  let (c, s) := s.choose
  if c % 2 = 0 then State.hubWrite (s.detect false a d.length) a d
  else s.addOp { blankOp noPiece (.host f) .write false a (BitVec.ofNat 64 a) d.length with data := d, scope := 4 }

/-- A host function writes through BAR0 or BAR2 (R66, R78, R117, R292, R361). -/
def execHostMemoryWrite (f : Bool) (addr : Nat) (bytes : List Byte) (s : State) : Host.Outcome State Fault Refusal :=
  let n := bytes.length
  if !s.hub.hostUp f || n = 0 then .next s
  else if inHubWin addr then .next (s.barWrite (hostAgent f) n (addr - 2 ^ 42) bytes)
  else if !inBar2 addr || !s.inLpddr addr || !s.inLpddr (addr + n - 1) then .next s
  else if !s.hostMay addr n true then
    .next (s.err { cls := 1, src := 3, code := 4, addr := s.fullPa addr, detail := if f then 1 else 0 })
  else .next (s.hostPost f addr bytes)

/-! ## Sidecar accesses (R78, R118, R294) -/

/-- Whether the wall lets a sidecar core reach an address: a memory granule of the general or the sandbox kind. A host window has no
granule, and is open to it (log 68, DESIGN CHOICE). -/
def State.sidecarMay (s : State) (a : Nat) : Bool :=
  (s.inMem a && (s.wallKind a == 0 || s.wallKind a == 2)) || (s.hostWin a).isSome

/-- The registers a sidecar core may read: SVC, LNKSTAT, SECSTAT, the error record registers and the always-on buffer,
and the notify registers (R89, R276, R294, R301, R304). -/
def sidecarReads (off : Nat) : Bool :=
  off == 8 || (decide (0x2000 ≤ off) && decide (off < 0x2400)) || off == 0x3300
    || (decide (0x3380 ≤ off) && decide (off < 0x33C0)) || (decide (0x3800 ≤ off) && decide (off < 0x3828)) || isNotifyOff off

/-- Whether an operation of a sidecar core writes, for the access fault it may raise. -/
def sideWrites : SideOp → Bool
  | .load => false
  | .lr _ _ => false
  | _ => true
/-- Whether it is an atomic, which must be aligned. -/
def sideAtomic : SideOp → Bool
  | .amo _ _ _ => true
  | .lr _ _ => true
  | .sc _ _ => true
  | _ => false

/-- Operations of a sidecar core in flight. -/
def State.sideOps (s : State) (core : Nat) : List MemOp := s.ops.filter fun o => o.agent == .sidecar core
/-- Whether an operation of a sidecar core is one on the hub window. -/
def MemOp.onHub (o : MemOp) : Bool := o.kind == .notify || (!o.vault && inHubWin o.addr)
/-- Whether an operation is in a set of a FENCE: bit 0 writes, 1 reads, 2 output, 3 input. -/
def MemOp.inSet (o : MemOp) (x : Nat) : Bool :=
  if o.onHub then (if o.kind == .notify then bitAt x 2 else bitAt x 3)
  else (bitAt x 1 && o.kind != .write) || (bitAt x 0 && o.kind != .read)

/-- A FENCE of a sidecar core (R118): the operations of its successor set follow those of its predecessor set, and the writes that
these have observed, at system scope. -/
def State.sideFence (s : State) (core : Nat) (pred succ : Nat) : State :=
  let x := SMap.get ({} : SideCore) s.side core
  let new := s.prune (cumDeps 4 (((s.sideOps core).filter (·.inSet pred)).map (·.id) ++ (if bitAt pred 1 then x.seen else [])))
  let add (b : Nat) (ds : List Dep) : List Dep := if bitAt succ b then s.prune ds ++ new else ds
  { s with side := s.side.insert core { x with onW := add 0 x.onW, onR := add 1 x.onR, onO := add 2 x.onO, onI := add 3 x.onI } }

/-- What an operation of a sidecar core follows (R118): the orders of its FENCEs and acquires, its own earlier operations on the same
bytes, or on the hub window, and, with rl, all of them and what they have observed. -/
def State.sideDeps (s : State) (core : Nat) (o : MemOp) (rl : Bool) : List Dep :=
  let x := SMap.get ({} : SideCore) s.side core
  let mine := s.sideOps core
  let same := mine.filter fun w =>
    if o.onHub then w.onHub else !w.onHub && overlap w.addr w.size o.addr o.size && (o.kind != .read || w.kind != .write)
  let on := (if o.inSet 1 then x.onW else []) ++ (if o.inSet 2 then x.onR else []) ++ (if o.inSet 4 then x.onO else [])
    ++ (if o.inSet 8 then x.onI else [])
  s.prune (on ++ cumDeps 4 (same.map (·.id)) ++ (if rl then cumDeps 4 (mine.map (·.id) ++ x.seen) else []))

/-- The hub takes a write of a sidecar core to the register window (R118, R294). -/
def State.applySide (s : State) (core : Nat) (o : MemOp) : State :=
  (s.dropOp o.id).agentWrite .sidecar core (o.addr - 2 ^ 42) (BitVec.ofNat 64 (ofBytes o.data))

/-- Hands out an operation of a sidecar core: a read, an atomic or a register access is tried at once; later operations follow one
with aq. -/
def State.sideIssue (s : State) (core : Nat) (o : MemOp) (aq rl : Bool) : State :=
  let id := s.opCount
  let o := { o with deps := s.sideDeps core o rl, id := id }
  let s := s.addOp o
  let x := SMap.get ({} : SideCore) s.side core
  let later : List Dep := [{ op := id, scope := 4 }]
  let s := if aq then
      { s with side := s.side.insert core { x with onR := x.onR ++ later, onW := x.onW ++ later, onI := x.onI ++ later, onO := x.onO ++ later } }
    else s
  if !s.depsMet o.deps then s
  else match o.kind with
    | .read => s.performOp o true
    | .rmw => s.performOp o true
    | .notify => s.applySide core o
    | _ => s

/-- An access of a sidecar core to the hub window: a whole doubleword, loaded or stored. -/
def State.sidecarHub (s : State) (core : Nat) (op : SideOp) (off n : Nat) (v : W64) : State :=
  let a := 2 ^ 42 + off
  let o := blankOp noPiece (.sidecar core) .read false a (BitVec.ofNat 64 a) 8
  if off % 8 != 0 || n != 8 then s.sidecarRefused core (sideWrites op) a
  else match op with
    | .load => if sidecarReads off then s.sideIssue core { o with scope := 4 } false false else s.sidecarRefused core false a
    | .store => s.sideIssue core { o with kind := .notify, data := bytesOf 8 v.toNat, scope := 4 } false false
    | _ => s.sidecarRefused core true a

/-- An access of a sidecar core to memory (R118): it is an operation at system scope. -/
def State.sidecarMem (s : State) (core : Nat) (op : SideOp) (a n : Nat) (v : W64) : State :=
  let o := { blankOp noPiece (.sidecar core) .read false a (BitVec.ofNat 64 a) n with scope := 4 }
  let d := bytesOf n v.toNat
  match op with
  | .load => s.sideIssue core o false false
  | .store => s.sideIssue core { o with kind := .write, data := d } false false
  | .amo k aq rl => s.sideIssue core { o with kind := .rmw, data := d, fn := k } aq rl
  | .lr aq rl => s.sideIssue core { o with fn := 1 } aq rl
  | .sc aq rl => s.sideIssue core { o with kind := .rmw, data := d, fn := storeCondFn } aq rl
  | .fence _ _ => s

/-- A sidecar core loads, stores or updates `n` bytes at a physical address, or executes a FENCE (R118, R294, R361). An atomic takes
4 or 8 aligned bytes. -/
def execSidecarMemoryAccess (core : Nat) (op : SideOp) (addr n : Nat) (v : W64) (s : State) : Host.Outcome State Fault Refusal :=
  let a := addr % 2 ^ 45
  if 16 ≤ core || s.hub.boot < 3 || 2 ≤ s.hub.power then .next s
  else match op with
    | .fence pred succ => .next (s.sideFence core pred.toNat succ.toNat)
    | _ =>
      if n = 0 || 8 < n || (sideAtomic op && ((n != 4 && n != 8) || a % n != 0)) then .next s
      else if addr / 2 ^ 45 != s.hub.pkg.toNat then .next (s.sidecarRefused core (sideWrites op) addr)
      else if inHubWin a then .next (s.sidecarHub core op (a - 2 ^ 42) n v)
      else if !s.sidecarMay a || !s.sidecarMay (a + n - 1) then .next (s.sidecarRefused core (sideWrites op) addr)
      else .next (s.sidecarMem core op a n v)

/-! ## Writes -/

/-- A write handed earlier to the memory system performs at a scope instance (R95); a versioned word or a notify write is
applied by its bank element or the hub; a remote write leaves the package. -/
def execMemoryWritePerform (id : Nat) (sc : BitVec 3) (s : State) : Host.Outcome State Fault Refusal :=
  match s.opOf id with
  | none => .next s
  | some o =>
    match o.kind with
    | .write =>
      if o.remote.isSome then .next (s.sendRequest o)
      else .next (s.performWrite o (Nat.min sc.toNat 4))
    | .vstore => .next (if s.depsMet o.deps then s.applyCell o else s)
    | .notify =>
      match o.agent with
      | .sidecar core => .next (if s.depsMet o.deps then s.applySide core o else s)
      | _ => .next (if s.depsMet o.deps then s.applyNotify o else s)
    | _ => .next s

end Sys2Proof.Machine
end

