-- ==== Sys2Proof/Machine/Dispatch.lean ====
section
/-! DEFINITION. The dispatch of an instruction or event to its meaning: one arm per constructor of Instr. -/

namespace Sys2Proof.Machine

/-- The meaning of every row of the opcode table. -/
def exec (i : Instr) (s : State) : Host.Outcome State Fault Refusal :=
  match i with
  | .sAdd t d a b => Sys2Proof.Machine.execSAdd t d a b s
  | .sSub t d a b => Sys2Proof.Machine.execSSub t d a b s
  | .sAnd t d a b => Sys2Proof.Machine.execSAnd t d a b s
  | .sOr t d a b => Sys2Proof.Machine.execSOr t d a b s
  | .sXor t d a b => Sys2Proof.Machine.execSXor t d a b s
  | .sAndn t d a b => Sys2Proof.Machine.execSAndn t d a b s
  | .sSll t d a b => Sys2Proof.Machine.execSSll t d a b s
  | .sSrl t d a b => Sys2Proof.Machine.execSSrl t d a b s
  | .sSra t d a b => Sys2Proof.Machine.execSSra t d a b s
  | .sMul t d a b => Sys2Proof.Machine.execSMul t d a b s
  | .sMulh t d a b => Sys2Proof.Machine.execSMulh t d a b s
  | .sMulhu t d a b => Sys2Proof.Machine.execSMulhu t d a b s
  | .sDiv t d a b => Sys2Proof.Machine.execSDiv t d a b s
  | .sDivu t d a b => Sys2Proof.Machine.execSDivu t d a b s
  | .sRem t d a b => Sys2Proof.Machine.execSRem t d a b s
  | .sRemu t d a b => Sys2Proof.Machine.execSRemu t d a b s
  | .sMin t d a b => Sys2Proof.Machine.execSMin t d a b s
  | .sMax t d a b => Sys2Proof.Machine.execSMax t d a b s
  | .sMinu t d a b => Sys2Proof.Machine.execSMinu t d a b s
  | .sMaxu t d a b => Sys2Proof.Machine.execSMaxu t d a b s
  | .sSlt t d a b => Sys2Proof.Machine.execSSlt t d a b s
  | .sSltu t d a b => Sys2Proof.Machine.execSSltu t d a b s
  | .sSeq t d a b => Sys2Proof.Machine.execSSeq t d a b s
  | .sSne t d a b => Sys2Proof.Machine.execSSne t d a b s
  | .sClz t d a => Sys2Proof.Machine.execSClz t d a s
  | .sCtz t d a => Sys2Proof.Machine.execSCtz t d a s
  | .sPopc t d a => Sys2Proof.Machine.execSPopc t d a s
  | .sSextB t d a => Sys2Proof.Machine.execSSextB t d a s
  | .sSextH t d a => Sys2Proof.Machine.execSSextH t d a s
  | .sSextW t d a => Sys2Proof.Machine.execSSextW t d a s
  | .sZextW t d a => Sys2Proof.Machine.execSZextW t d a s
  | .sAddi t d a x1 => Sys2Proof.Machine.execSAddi t d a x1 s
  | .sAndi t d a x1 => Sys2Proof.Machine.execSAndi t d a x1 s
  | .sOri t d a x1 => Sys2Proof.Machine.execSOri t d a x1 s
  | .sXori t d a x1 => Sys2Proof.Machine.execSXori t d a x1 s
  | .sSlti t d a x1 => Sys2Proof.Machine.execSSlti t d a x1 s
  | .sSltiu t d a x1 => Sys2Proof.Machine.execSSltiu t d a x1 s
  | .sSlli t d a h => Sys2Proof.Machine.execSSlli t d a h s
  | .sSrli t d a h => Sys2Proof.Machine.execSSrli t d a h s
  | .sSrai t d a h => Sys2Proof.Machine.execSSrai t d a h s
  | .sLui t d x1 => Sys2Proof.Machine.execSLui t d x1 s
  | .sSwz t d a m => Sys2Proof.Machine.execSSwz t d a m s
  | .sBfx t d a p w => Sys2Proof.Machine.execSBfx t d a p w s
  | .sBfi t d a p w => Sys2Proof.Machine.execSBfi t d a p w s
  | .sMadd t d a b => Sys2Proof.Machine.execSMadd t d a b s
  | .sImx x1 => Sys2Proof.Machine.execSImx x1 s
  | .sSem o x0 w k => Sys2Proof.Machine.execSSem o x0 w k s
  | .sLdB t d a w k => Sys2Proof.Machine.execSLdB t d a w k s
  | .sLdH t d a w k => Sys2Proof.Machine.execSLdH t d a w k s
  | .sLdW t d a w k => Sys2Proof.Machine.execSLdW t d a w k s
  | .sLdD t d a w k => Sys2Proof.Machine.execSLdD t d a w k s
  | .sLdBu t d a w k => Sys2Proof.Machine.execSLdBu t d a w k s
  | .sLdHu t d a w k => Sys2Proof.Machine.execSLdHu t d a w k s
  | .sLdWu t d a w k => Sys2Proof.Machine.execSLdWu t d a w k s
  | .sStB t d a w k => Sys2Proof.Machine.execSStB t d a w k s
  | .sStH t d a w k => Sys2Proof.Machine.execSStH t d a w k s
  | .sStW t d a w k => Sys2Proof.Machine.execSStW t d a w k s
  | .sStD t d a w k => Sys2Proof.Machine.execSStD t d a w k s
  | .sQld t q a b => Sys2Proof.Machine.execSQld t q a b s
  | .sQld1 t q a b => Sys2Proof.Machine.execSQld1 t q a b s
  | .sQlds t q a b => Sys2Proof.Machine.execSQlds t q a b s
  | .sQst t q a b => Sys2Proof.Machine.execSQst t q a b s
  | .sQst1 t q a b => Sys2Proof.Machine.execSQst1 t q a b s
  | .sQpop t q a b => Sys2Proof.Machine.execSQpop t q a b s
  | .sQpeek t q a b => Sys2Proof.Machine.execSQpeek t q a b s
  | .sQpsh t q a => Sys2Proof.Machine.execSQpsh t q a s
  | .sQcnt t q a c => Sys2Proof.Machine.execSQcnt t q a c s
  | .sQdisc t q a c => Sys2Proof.Machine.execSQdisc t q a c s
  | .sQhem t q l => Sys2Proof.Machine.execSQhem t q l s
  | .sVld t d a b => Sys2Proof.Machine.execSVld t d a b s
  | .sVst t d a b => Sys2Proof.Machine.execSVst t d a b s
  | .sVrc t a b => Sys2Proof.Machine.execSVrc t a b s
  | .sAmoAdd t d a b w => Sys2Proof.Machine.execSAmoAdd t d a b w s
  | .sAmoAnd t d a b w => Sys2Proof.Machine.execSAmoAnd t d a b w s
  | .sAmoOr t d a b w => Sys2Proof.Machine.execSAmoOr t d a b w s
  | .sAmoXor t d a b w => Sys2Proof.Machine.execSAmoXor t d a b w s
  | .sAmoMin t d a b w => Sys2Proof.Machine.execSAmoMin t d a b w s
  | .sAmoMax t d a b w => Sys2Proof.Machine.execSAmoMax t d a b w s
  | .sAmoMinu t d a b w => Sys2Proof.Machine.execSAmoMinu t d a b w s
  | .sAmoMaxu t d a b w => Sys2Proof.Machine.execSAmoMaxu t d a b w s
  | .sAmoSwap t d a b w => Sys2Proof.Machine.execSAmoSwap t d a b w s
  | .sAmoFadd t d a b w => Sys2Proof.Machine.execSAmoFadd t d a b w s
  | .sCas t d a b w => Sys2Proof.Machine.execSCas t d a b w s
  | .sFence t o x0 => Sys2Proof.Machine.execSFence t o x0 s
  | .sKwait t k => Sys2Proof.Machine.execSKwait t k s
  | .sKclr t k => Sys2Proof.Machine.execSKclr t k s
  | .sRinv t d a b x1 => Sys2Proof.Machine.execSRinv t d a b x1 s
  | .sB t f d => Sys2Proof.Machine.execSB t f d s
  | .sBeqz t f a d => Sys2Proof.Machine.execSBeqz t f a d s
  | .sBnez t f a d => Sys2Proof.Machine.execSBnez t f a d s
  | .sBltz t f a d => Sys2Proof.Machine.execSBltz t f a d s
  | .sBgez t f a d => Sys2Proof.Machine.execSBgez t f a d s
  | .sBgtz t f a d => Sys2Proof.Machine.execSBgtz t f a d s
  | .sBlez t f a d => Sys2Proof.Machine.execSBlez t f a d s
  | .sBqb t f a d => Sys2Proof.Machine.execSBqb t f a d s
  | .sBqbEqz t f a d => Sys2Proof.Machine.execSBqbEqz t f a d s
  | .sBqbNez t f a d => Sys2Proof.Machine.execSBqbNez t f a d s
  | .sBqbLtz t f a d => Sys2Proof.Machine.execSBqbLtz t f a d s
  | .sBqbGez t f a d => Sys2Proof.Machine.execSBqbGez t f a d s
  | .sBqbGtz t f a d => Sys2Proof.Machine.execSBqbGtz t f a d s
  | .sBqbLez t f a d => Sys2Proof.Machine.execSBqbLez t f a d s
  | .sJal t d x1 => Sys2Proof.Machine.execSJal t d x1 s
  | .sJalr t d a x1 => Sys2Proof.Machine.execSJalr t d a x1 s
  | .sSdw t x0 f a => Sys2Proof.Machine.execSSdw t x0 f a s
  | .sMtw t l f a => Sys2Proof.Machine.execSMtw t l f a s
  | .sInj t a x y p => Sys2Proof.Machine.execSInj t a x y p s
  | .sEcall t => Sys2Proof.Machine.execSEcall t s
  | .sEret t => Sys2Proof.Machine.execSEret t s
  | .sPark t => Sys2Proof.Machine.execSPark t s
  | .sYield t => Sys2Proof.Machine.execSYield t s
  | .sBreak t => Sys2Proof.Machine.execSBreak t s
  | .sEnd t => Sys2Proof.Machine.execSEnd t s
  | .sNop t => Sys2Proof.Machine.execSNop t s
  | .sMvfs t d r => Sys2Proof.Machine.execSMvfs t d r s
  | .sMvts t a r => Sys2Proof.Machine.execSMvts t a r s
  | .sBarInit t a b => Sys2Proof.Machine.execSBarInit t a b s
  | .sBarArv t d a => Sys2Proof.Machine.execSBarArv t d a s
  | .sBarWait t a b => Sys2Proof.Machine.execSBarWait t a b s
  | .sBarAddb t a b => Sys2Proof.Machine.execSBarAddb t a b s
  | .sLnch t d a b => Sys2Proof.Machine.execSLnch t d a b s
  | .sWfn t d a b => Sys2Proof.Machine.execSWfn t d a b s
  | .sNsig t a b => Sys2Proof.Machine.execSNsig t a b s
  | .sNclr t a b => Sys2Proof.Machine.execSNclr t a b s
  | .sPcut t a => Sys2Proof.Machine.execSPcut t a s
  | .sPjoin t a => Sys2Proof.Machine.execSPjoin t a s
  | .sPqry t d => Sys2Proof.Machine.execSPqry t d s
  | .sTlbiVa t a b => Sys2Proof.Machine.execSTlbiVa t a b s
  | .sTlbiAsid t b => Sys2Proof.Machine.execSTlbiAsid t b s
  | .sTlbiAll t => Sys2Proof.Machine.execSTlbiAll t s
  | .sTurn t d a => Sys2Proof.Machine.execSTurn t d a s
  | .sCnt t a b => Sys2Proof.Machine.execSCnt t a b s
  | .cGo t x0 => Sys2Proof.Machine.execCGo t x0 s
  | .cStop t x0 => Sys2Proof.Machine.execCStop t x0 s
  | .cWait t x0 => Sys2Proof.Machine.execCWait t x0 s
  | .cWaitAll t => Sys2Proof.Machine.execCWaitAll t s
  | .cAdv t x0 n => Sys2Proof.Machine.execCAdv t x0 n s
  | .cBar t x0 => Sys2Proof.Machine.execCBar t x0 s
  | .cJrnl t x0 => Sys2Proof.Machine.execCJrnl t x0 s
  | .cFlush t x0 => Sys2Proof.Machine.execCFlush t x0 s
  | .cLnk t l q => Sys2Proof.Machine.execCLnk t l q s
  | .cFence t x0 => Sys2Proof.Machine.execCFence t x0 s
  | .cPri t x0 p => Sys2Proof.Machine.execCPri t x0 p s
  | .cRep t l c => Sys2Proof.Machine.execCRep t l c s
  | .mGo t l r => Sys2Proof.Machine.execMGo t l r s
  | .mWait t => Sys2Proof.Machine.execMWait t s
  | .mLdb t k => Sys2Proof.Machine.execMLdb t k s
  | .mSwb t => Sys2Proof.Machine.execMSwb t s
  | .mMma t n r => Sys2Proof.Machine.execMMma t n r s
  | .mDrn t n r => Sys2Proof.Machine.execMDrn t n r s
  | .mZero t n r => Sys2Proof.Machine.execMZero t n r s
  | .mFmt t f b a => Sys2Proof.Machine.execMFmt t f b a s
  | .mScl t x0 => Sys2Proof.Machine.execMScl t x0 s
  | .mSclOne t => Sys2Proof.Machine.execMSclOne t s
  | .mBind t r o x0 => Sys2Proof.Machine.execMBind t r o x0 s
  | .mBindMem t d => Sys2Proof.Machine.execMBindMem t d s
  | .mUnbind t r o => Sys2Proof.Machine.execMUnbind t r o s
  | .mKeep t n f => Sys2Proof.Machine.execMKeep t n f s
  | .mKeepRelease t n f => Sys2Proof.Machine.execMKeepRelease t n f s
  | .mToil t => Sys2Proof.Machine.execMToil t s
  | .mRep t l c => Sys2Proof.Machine.execMRep t l c s
  | .fCfgl t o => Sys2Proof.Machine.execFCfgl t o s
  | .fTurn t => Sys2Proof.Machine.execFTurn t s
  | .fTurnNow t => Sys2Proof.Machine.execFTurnNow t s
  | .fKset t e => Sys2Proof.Machine.execFKset t e s
  | .fHem t n l e => Sys2Proof.Machine.execFHem t n l e s
  | .fArm t => Sys2Proof.Machine.execFArm t s
  | .fStop t => Sys2Proof.Machine.execFStop t s
  | .fWdr t => Sys2Proof.Machine.execFWdr t s
  | .fSink t y x n => Sys2Proof.Machine.execFSink t y x n s
  | .fSinkClr t n => Sys2Proof.Machine.execFSinkClr t n s
  | .fTag t w f => Sys2Proof.Machine.execFTag t w f s
  | .fTagClr t => Sys2Proof.Machine.execFTagClr t s
  | .fTagSetClr t w f => Sys2Proof.Machine.execFTagSetClr t w f s
  | .fPleat t p y x => Sys2Proof.Machine.execFPleat t p y x s
  | .move g x0 d l t => Sys2Proof.Machine.execMove g x0 d l t s
  | .isect x0 p => Sys2Proof.Machine.execIsect x0 p s
  | .add g x0 l t x1 => Sys2Proof.Machine.execAdd g x0 l t x1 s
  | .sub g x0 l t x1 => Sys2Proof.Machine.execSub g x0 l t x1 s
  | .and g x0 l t x1 => Sys2Proof.Machine.execAnd g x0 l t x1 s
  | .or g x0 l t x1 => Sys2Proof.Machine.execOr g x0 l t x1 s
  | .xor g x0 l t x1 => Sys2Proof.Machine.execXor g x0 l t x1 s
  | .shl g x0 l t x1 => Sys2Proof.Machine.execShl g x0 l t x1 s
  | .shr g x0 l t x1 => Sys2Proof.Machine.execShr g x0 l t x1 s
  | .sar g x0 l t x1 => Sys2Proof.Machine.execSar g x0 l t x1 s
  | .min g x0 l t x1 => Sys2Proof.Machine.execMin g x0 l t x1 s
  | .max g x0 l t x1 => Sys2Proof.Machine.execMax g x0 l t x1 s
  | .ceq g x0 l t x1 => Sys2Proof.Machine.execCeq g x0 l t x1 s
  | .clt g x0 l t x1 => Sys2Proof.Machine.execClt g x0 l t x1 s
  | .cle g x0 l t x1 => Sys2Proof.Machine.execCle g x0 l t x1 s
  | .adds g x0 l t x1 => Sys2Proof.Machine.execAdds g x0 l t x1 s
  | .subs g x0 l t x1 => Sys2Proof.Machine.execSubs g x0 l t x1 s
  | .mulsr g x0 l t k r => Sys2Proof.Machine.execMulsr g x0 l t k r s
  | .sel g x0 l t => Sys2Proof.Machine.execSel g x0 l t s
  | .abs g x0 l t => Sys2Proof.Machine.execAbs g x0 l t s
  | .neg g x0 l t => Sys2Proof.Machine.execNeg g x0 l t s
  | .cvtIf g x0 l t => Sys2Proof.Machine.execCvtIf g x0 l t s
  | .cvtFi g x0 l t => Sys2Proof.Machine.execCvtFi g x0 l t s
  | .pass g x0 l t => Sys2Proof.Machine.execPass g x0 l t s
  | .fadd g x0 l t x1 => Sys2Proof.Machine.execFadd g x0 l t x1 s
  | .fsub g x0 l t x1 => Sys2Proof.Machine.execFsub g x0 l t x1 s
  | .fmul g x0 l t x1 => Sys2Proof.Machine.execFmul g x0 l t x1 s
  | .fma g x0 l t => Sys2Proof.Machine.execFma g x0 l t s
  | .fnma g x0 l t => Sys2Proof.Machine.execFnma g x0 l t s
  | .fmin g x0 l t x1 => Sys2Proof.Machine.execFmin g x0 l t x1 s
  | .fmax g x0 l t x1 => Sys2Proof.Machine.execFmax g x0 l t x1 s
  | .fclip g x0 l t h lo => Sys2Proof.Machine.execFclip g x0 l t h lo s
  | .fclt g x0 l t x1 => Sys2Proof.Machine.execFclt g x0 l t x1 s
  | .fcle g x0 l t x1 => Sys2Proof.Machine.execFcle g x0 l t x1 s
  | .fceq g x0 l t x1 => Sys2Proof.Machine.execFceq g x0 l t x1 s
  | .exp2 g x0 l t => Sys2Proof.Machine.execExp2 g x0 l t s
  | .log2 g x0 l t => Sys2Proof.Machine.execLog2 g x0 l t s
  | .rcp g x0 l t => Sys2Proof.Machine.execRcp g x0 l t s
  | .rsqrt g x0 l t => Sys2Proof.Machine.execRsqrt g x0 l t s
  | .sqrt g x0 l t => Sys2Proof.Machine.execSqrt g x0 l t s
  | .tanh g x0 l t => Sys2Proof.Machine.execTanh g x0 l t s
  | .sigm g x0 l t => Sys2Proof.Machine.execSigm g x0 l t s
  | .lsum g x0 l t f => Sys2Proof.Machine.execLsum g x0 l t f s
  | .lmax g x0 l t f => Sys2Proof.Machine.execLmax g x0 l t f s
  | .lmin g x0 l t f => Sys2Proof.Machine.execLmin g x0 l t f s
  | .cnt g x0 l t => Sys2Proof.Machine.execCnt g x0 l t s
  | .acc g x0 l t f => Sys2Proof.Machine.execAcc g x0 l t f s
  | .accm g x0 l t f => Sys2Proof.Machine.execAccm g x0 l t f s
  | .scan g x0 l t f => Sys2Proof.Machine.execScan g x0 l t f s
  | .pack g x0 l t z c => Sys2Proof.Machine.execPack g x0 l t z c s
  | .unpk g x0 l t => Sys2Proof.Machine.execUnpk g x0 l t s
  | .reord g x0 l t k => Sys2Proof.Machine.execReord g x0 l t k s
  | .merge2 g x0 l t => Sys2Proof.Machine.execMerge2 g x0 l t s
  | .union g x0 l t => Sys2Proof.Machine.execUnion g x0 l t s
  | .steer g x0 l t => Sys2Proof.Machine.execSteer g x0 l t s
  | .mrg g x0 l t => Sys2Proof.Machine.execMrg g x0 l t s
  | .dup g x0 l t => Sys2Proof.Machine.execDup g x0 l t s
  | .topk g x0 l t k => Sys2Proof.Machine.execTopk g x0 l t k s
  | .spa g x0 l t => Sys2Proof.Machine.execSpa g x0 l t s
  | .tile g x0 l t x => Sys2Proof.Machine.execTile g x0 l t x s
  | .swst g x0 l t => Sys2Proof.Machine.execSwst g x0 l t s
  | .gthr g x0 l t => Sys2Proof.Machine.execGthr g x0 l t s
  | .sctr g x0 l t o => Sys2Proof.Machine.execSctr g x0 l t o s
  | .rmw g x0 l t o => Sys2Proof.Machine.execRmw g x0 l t o s
  | .queueLoadDeliver p id => Sys2Proof.Machine.execQueueLoadDeliver p id s
  | .loadDataReturn p id fwd => Sys2Proof.Machine.execLoadDataReturn p id fwd s
  | .controlTokenArrive p => Sys2Proof.Machine.execControlTokenArrive p s
  | .hubTurn n => Sys2Proof.Machine.execHubTurn n s
  | .streamTransfer p k => Sys2Proof.Machine.execStreamTransfer p k s
  | .streamEnd p k => Sys2Proof.Machine.execStreamEnd p k s
  | .scatterUpdate id => Sys2Proof.Machine.execScatterUpdate id s
  | .barrierEventApply id => Sys2Proof.Machine.execBarrierEventApply id s
  | .nestPass p => Sys2Proof.Machine.execNestPass p s
  | .drainTokenPush p => Sys2Proof.Machine.execDrainTokenPush p s
  | .operationResult p e u => Sys2Proof.Machine.execOperationResult p e u s
  | .tokenLinkHop p e d => Sys2Proof.Machine.execTokenLinkHop p e d s
  | .edgePortTransfer p port => Sys2Proof.Machine.execEdgePortTransfer p port s
  | .elementTurn p e => Sys2Proof.Machine.execElementTurn p e s
  | .ksetHandle p e d => Sys2Proof.Machine.execKsetHandle p e d s
  | .elementClockGate p e => Sys2Proof.Machine.execElementClockGate p e s
  | .elementPowerGate p e => Sys2Proof.Machine.execElementPowerGate p e s
  | .elementWake p e => Sys2Proof.Machine.execElementWake p e s
  | .watchdog p => Sys2Proof.Machine.execWatchdog p s
  | .trapDelivery p => Sys2Proof.Machine.execTrapDelivery p s
  | .taskEnd p => Sys2Proof.Machine.execTaskEnd p s
  | .lqtailWrite ag n v => Sys2Proof.Machine.execLqtailWrite ag n v s
  | .launchRecordRead n => Sys2Proof.Machine.execLaunchRecordRead n s
  | .launchWaitMet l => Sys2Proof.Machine.execLaunchWaitMet l s
  | .agingStep l => Sys2Proof.Machine.execAgingStep l s
  | .pieceReserve l => Sys2Proof.Machine.execPieceReserve l s
  | .pieceGrant l => Sys2Proof.Machine.execPieceGrant l s
  | .switchOut p => Sys2Proof.Machine.execSwitchOut p s
  | .sequenceResume l => Sys2Proof.Machine.execSequenceResume l s
  | .launchDone l => Sys2Proof.Machine.execLaunchDone l s
  | .notifyWriteReplace ag n v => Sys2Proof.Machine.execNotifyWriteReplace ag n v s
  | .notifyWriteOr ag n v => Sys2Proof.Machine.execNotifyWriteOr ag n v s
  | .notifyWriteAdd ag n v => Sys2Proof.Machine.execNotifyWriteAdd ag n v s
  | .subgraphLoad ag v => Sys2Proof.Machine.execSubgraphLoad ag v s
  | .subgraphUnload ag v => Sys2Proof.Machine.execSubgraphUnload ag v s
  | .subgraphLoadDone => Sys2Proof.Machine.execSubgraphLoadDone s
  | .remoteSubgraphFire id => Sys2Proof.Machine.execRemoteSubgraphFire id s
  | .moveHold ag x1 => Sys2Proof.Machine.execMoveHold ag x1 s
  | .moveForward ag x1 => Sys2Proof.Machine.execMoveForward ag x1 s
  | .moveEnd ag x1 => Sys2Proof.Machine.execMoveEnd ag x1 s
  | .moveHoldExpire id => Sys2Proof.Machine.execMoveHoldExpire id s
  | .keyLoad ag v => Sys2Proof.Machine.execKeyLoad ag v s
  | .keyRevoke ag v => Sys2Proof.Machine.execKeyRevoke ag v s
  | .keyRequestComplete ok => Sys2Proof.Machine.execKeyRequestComplete ok s
  | .debugNonceRead ag => Sys2Proof.Machine.execDebugNonceRead ag s
  | .debugRequest ag v => Sys2Proof.Machine.execDebugRequest ag v s
  | .debugHalt p => Sys2Proof.Machine.execDebugHalt p s
  | .attestRequest ag v => Sys2Proof.Machine.execAttestRequest ag v s
  | .lifecycleTransition lc signed => Sys2Proof.Machine.execLifecycleTransition lc signed s
  | .measurementExtend x1 digest => Sys2Proof.Machine.execMeasurementExtend x1 digest s
  | .pwrEnterRetain ag => Sys2Proof.Machine.execPwrEnterRetain ag s
  | .pwrEnterDown ag => Sys2Proof.Machine.execPwrEnterDown ag s
  | .pwrWake ag => Sys2Proof.Machine.execPwrWake ag s
  | .wakeRemeasure ok lost dMgmt dSide dBank => Sys2Proof.Machine.execWakeRemeasure ok lost dMgmt dSide dBank s
  | .powerGood => Sys2Proof.Machine.execPowerGood s
  | .powerRemoved => Sys2Proof.Machine.execPowerRemoved s
  | .managementFirmwareVerify ok digest => Sys2Proof.Machine.execManagementFirmwareVerify ok digest s
  | .bastingStart fwOk lpOk p0Ok lpcap dSide dBank => Sys2Proof.Machine.execBastingStart fwOk lpOk p0Ok lpcap dSide dBank s
  | .fullServiceStart stk panels lanes => Sys2Proof.Machine.execFullServiceStart stk panels lanes s
  | .blockCadenceHalve b => Sys2Proof.Machine.execBlockCadenceHalve b s
  | .blockCadenceRestore b => Sys2Proof.Machine.execBlockCadenceRestore b s
  | .blockPowerGate b => Sys2Proof.Machine.execBlockPowerGate b s
  | .errtailWrite ag v => Sys2Proof.Machine.execErrtailWrite ag v s
  | .registerWrite ag off v => Sys2Proof.Machine.execRegisterWrite ag off v s
  | .hostMemoryRead f addr n => Sys2Proof.Machine.execHostMemoryRead f addr n s
  | .hostMemoryWrite f addr bytes => Sys2Proof.Machine.execHostMemoryWrite f addr bytes s
  | .sidecarMemoryAccess core op addr n v => Sys2Proof.Machine.execSidecarMemoryAccess core op addr n v s
  | .pairClaim l x1 => Sys2Proof.Machine.execPairClaim l x1 s
  | .bindFlitReceive pair pkg bindid dom what => Sys2Proof.Machine.execBindFlitReceive pair pkg bindid dom what s
  | .bindingTimeout l => Sys2Proof.Machine.execBindingTimeout l s
  | .pairRelease pair => Sys2Proof.Machine.execPairRelease pair s
  | .linkTokenSend k => Sys2Proof.Machine.execLinkTokenSend k s
  | .flitReceive g payload trailer => Sys2Proof.Machine.execFlitReceive g payload trailer s
  | .replayTimeout g => Sys2Proof.Machine.execReplayTimeout g s
  | .groupRetrainComplete g failed => Sys2Proof.Machine.execGroupRetrainComplete g failed s
  | .laneLost port lane => Sys2Proof.Machine.execLaneLost port lane s
  | .laneTurnaroundComplete port lane ok => Sys2Proof.Machine.execLaneTurnaroundComplete port lane ok s
  | .streamFrameReceive pair => Sys2Proof.Machine.execStreamFrameReceive pair s
  | .dieToDieTokenArrive k => Sys2Proof.Machine.execDieToDieTokenArrive k s
  | .remoteStoreLine pair => Sys2Proof.Machine.execRemoteStoreLine pair s
  | .remoteStorePartial pair => Sys2Proof.Machine.execRemoteStorePartial pair s
  | .remoteLoad pair => Sys2Proof.Machine.execRemoteLoad pair s
  | .remoteInvoke pair => Sys2Proof.Machine.execRemoteInvoke pair s
  | .loadReply pair => Sys2Proof.Machine.execLoadReply pair s
  | .storeAcknowledgement pair => Sys2Proof.Machine.execStoreAcknowledgement pair s
  | .invokeResult pair => Sys2Proof.Machine.execInvokeResult pair s
  | .remoteReplyTimeout id => Sys2Proof.Machine.execRemoteReplyTimeout id s
  | .memoryWritePerform id scope => Sys2Proof.Machine.execMemoryWritePerform id scope s
  | .blockLockLoss port lane => Sys2Proof.Machine.execBlockLockLoss port lane s
  | .blockLockRegain port lane => Sys2Proof.Machine.execBlockLockRegain port lane s
  | .idleFlit g => Sys2Proof.Machine.execIdleFlit g s
  | .blockWake b => Sys2Proof.Machine.execBlockWake b s
  | .powerStateEntryComplete => Sys2Proof.Machine.execPowerStateEntryComplete s
  | .debugVerificationComplete ok => Sys2Proof.Machine.execDebugVerificationComplete ok s
  | .debugStep p resume => Sys2Proof.Machine.execDebugStep p resume s
  | .attestationReportDone => Sys2Proof.Machine.execAttestationReportDone s

end Sys2Proof.Machine
end

