-- ==== Sys2Proof/Machine/Turns.lean ====
section
/-! DEFINITION. What a step does around `exec` (log 3, DESIGN CHOICE): an engine's turn, which fetches, skips and decodes (R16 to R19,
R144, R145); an element's turn (R241); the steps that the part's own units take; the end of a fabric cycle (R30, R51,
R273); and the order in which a cycle's turns come. Each takes the meaning of instructions, `run`, as an argument. -/

namespace Sys2Proof.Machine

/-- A meaning of instructions. -/
abbrev Run := Instr → State → Host.Outcome State Fault Refusal

/-! ## Engines -/

/-- Whether an engine of a piece does not act: the piece is at a seam or aborting, or the engine has reached `s.end`, has
raised a trap, or is halted. -/
def Piece.engIdle (p : Piece) (e : Nat) : Bool :=
  !p.live || p.atSeam || p.abort.isSome || (p.eng e).atEnd || (p.eng e).stopped || (e == 0 && p.halted)

/-- Whether a word is a fanned branch, as every engine reads it (R145). -/
def isFanned (w : Nat) : Bool := (bits w 20 6 == 0x20 || bits w 20 6 == 0x21) && bitAt w 19
/-- Whether a word is `s.end`, as every engine reads it (R18, R145). -/
def isEnd (w : Nat) : Bool := bits w 20 6 == 0x30 && bits w 0 5 == 5

/-- An engine goes to an address without executing a word. -/
def Piece.goTo (p : Piece) (e : Nat) (pc : W64) : Piece := p.setEng e { p.eng e with pc := pc }

/-- C, M or F passes an S word (R16, R18, R19): it stops at `s.end`, follows a fanned branch by its steer queue, and skips
any other. -/
def Piece.passS (p : Piece) (e w : Nat) : Piece :=
  let x := p.eng e
  if isEnd w then p.setEng e { x with atEnd := true }
  else if isFanned w then
    match p.steerQ e with
    | [] => { p with blocked := true }
    | b :: rest => (p.setSteer e rest).goTo e (if b then dispTarget x.pc 11 (w % 2 ^ 11) else x.pc + 4)
  else p.goTo e (x.pc + 4)

/-- An engine passes a word that is not its own. -/
def Piece.pass1 (p : Piece) (e w : Nat) : Piece :=
  if e != 0 && engOf w == 0 then p.passS e w
  else (if e = 0 then p.count 5 1 else p).goTo e ((p.eng e).pc + 4)

/-- Whether an S word is `s.qdisc`, which acts behind the consumers of its cycle (R181). -/
def isQdisc (w : Nat) : Bool := bits w 20 6 == 0x14 && bits w 0 5 == 4
/-- An engine's own word: it is decoded and executed; one that R144 rejects raises ILLEGAL. An `s.qdisc` takes its turn at the end
of the cycle. -/
def State.ownWord (run : Run) (s : State) (e w : Nat) : Host.Outcome State Fault Refusal :=
  if e = 0 && isQdisc w && !s.piece.s.late then .next (s.modPiece fun p => { p with s := { p.s with late := true } })
  else match decodeText w with
    | .ok i => run i s
    | .error _ => .next (s.wordTrap e 0 cILLEGAL (BitVec.ofNat 64 w) 0)

/-- What an engine finds at its program counter. -/
inductive AtWord where
  /-- It does not act, or its fetch has raised a trap. -/
  | over (s : State)
  /-- A word of its own: fetched now, or held since it was fetched. -/
  | own (s : State) (w : Nat)
  /-- A word of another engine. -/
  | foreign (s : State) (w : Nat)

/-- An engine looks at its next word. A word of its own is fetched once, and held until it ends. -/
def State.atWord (s : State) (e : Nat) : AtWord :=
  if s.piece.engIdle e then .over s
  else
    match (s.piece.eng e).word with
    | some w => .own s w.toNat
    | none =>
      let pc := (s.piece.eng e).pc
      match s.fetch pc with
      | .bad s c l => .over (s.wordTrap e 0 c pc l)
      | .word s w =>
        if engOf w != e then .foreign s w
        else .own (s.modPiece fun p => p.setEng e { p.eng e with word := some (BitVec.ofNat 32 w) }) w

/-- An engine goes on from its program counter: it passes at most `n` words of other engines, and executes the word of its own
that it then comes to. -/
def State.engineRun (run : Run) (e : Nat) : Nat → State → Host.Outcome State Fault Refusal
  | n, s =>
    match s.atWord e with
    | .over s => .next s
    | .own s w => s.ownWord run e w
    | .foreign s w =>
      match n with
      | 0 => .next s
      | n + 1 =>
        let t := s.modPiece fun p => p.pass1 e w
        if (t.piece.eng e).pc = (s.piece.eng e).pc then .next t else State.engineRun run e n t

/-- The blocks an engine needs: S and C their access core, M its matrix cores (R302). -/
def Piece.engBlocks (p : Piece) (e : Nat) : List Nat :=
  match e with
  | 0 => [accessBlock p.bayKey]
  | 1 => [accessBlock p.bayKey]
  | 2 => p.coreBlocks
  | _ => []
/-- Whether an engine of a piece acts in this cycle: no block it needs is power-gated, or out of its halved cadence. -/
def State.engineOn (s : State) (k e : Nat) : Bool := s.allOn || s.unitsOn ((s.pieceOf k).engBlocks e)

/-- One turn of an engine (R16): it skips up to 8 words of other engines and executes one of its own. F loads the image at
FIMG before its first word (R247). -/
def State.engineTurn (run : Run) (k e : Nat) (s : State) : Host.Outcome State Fault Refusal :=
  if !s.engineOn k e then .next s
  else
    let s := s.at k
    if e = 3 && s.piece.faceDue && !s.piece.engIdle 3 then .next s.loadFace else s.engineRun run e 8

/-- A further turn, in the same cycle, of an engine that a tack has stalled: a pop and a push on one FIFO in one cycle both
take effect (R24). -/
def State.retryTurn (run : Run) (k e : Nat) (s : State) : Host.Outcome State Fault Refusal :=
  let x := (s.pieceOf k).eng e
  if x.tackWait.isNone then .next s
  else ((s.at k).modPiece fun p => p.setEng e { p.eng e with tackWait := none }).engineRun run e 0

/-- The turn of an `s.qdisc` (R181). -/
def State.lateTurn (run : Run) (k : Nat) (s : State) : Host.Outcome State Fault Refusal :=
  if (s.pieceOf k).s.late then (s.at k).engineRun run 0 0 else .next s

/-! ## Elements -/

/-- The slot whose word an element runs next in this cycle (R241): a ready `isect` configuration, the first ready move,
the first that is held, an `isect` configuration that is held, or else the first, which then waits. -/
def State.slotNow (s : State) (e : Nat) : Option Nat :=
  let p := s.piece
  let pl := (p.pleat e false).plane
  let isect (f : Nat → Nat → Bool) : Option Nat := match pl.isectPair with
    | some (a, b) => if f a b then (pl.slots.find? fun kv => mvDst kv.2.toNat == portIsect).map (·.1) else none
    | none => none
  let moves := pl.slots.filter fun kv => mvDst kv.2.toNat != portIsect
  let state (kv : Nat × Word32) : MoveState := p.moveState e kv.1 (mvOf kv.2.toNat) s.time
  let ready : Option Nat := (moves.find? fun kv => match state kv with
      | .ready _ => true
      | _ => false).map (·.1)
  let held : Option Nat := (moves.find? fun kv => state kv == .held).map (·.1)
  (isect fun a b => p.isectReady e a b s.time).orElse fun _ => ready.orElse fun _ => held.orElse fun _ =>
    (isect fun a b => p.isectHeld e a b s.time).orElse fun _ => (pl.slots.head?).map (·.1)

/-- One turn of an element: at most one of its moves fires (R241); one of a gated element goes on waiting (R273). -/
def State.elementTurn (run : Run) (k e : Nat) (s : State) : Host.Outcome State Fault Refusal :=
  let s := s.at k
  if !s.piece.live || s.piece.atSeam || s.piece.abort.isSome then .next s
  else match s.slotNow e with
    | none => .next s
    | some i =>
      match decodeMoveWord ((s.piece.pleat e false).plane.slot i) with
      | .ok m => run m { s with focusE := e, focusS := i }
      | .error _ => .next s

/-! ## The part's own steps -/

/-- The meaning of a step of the part's own units. -/
def runAuto (a : Auto) (s : State) : Host.Outcome State Fault Refusal :=
  match a with
  | .queueLoadDeliver p id => execQueueLoadDeliver p id s
  | .loadDataReturn p id fwd => execLoadDataReturn p id fwd s
  | .controlTokenArrive p => execControlTokenArrive p s
  | .hubTurn n => execHubTurn n s
  | .streamTransfer p k => execStreamTransfer p k s
  | .streamEnd p k => execStreamEnd p k s
  | .scatterUpdate id => execScatterUpdate id s
  | .barrierEventApply id => execBarrierEventApply id s
  | .nestPass p => execNestPass p s
  | .drainTokenPush p => execDrainTokenPush p s
  | .operationResult p e u => execOperationResult p e u s
  | .tokenLinkHop p e d => execTokenLinkHop p e d s
  | .edgePortTransfer p port => execEdgePortTransfer p port s
  | .elementTurn p e => execElementTurn p e s
  | .ksetHandle p e d => execKsetHandle p e d s
  | .elementClockGate p e => execElementClockGate p e s
  | .elementPowerGate p e => execElementPowerGate p e s
  | .elementWake p e => execElementWake p e s
  | .watchdog p => execWatchdog p s
  | .trapDelivery p => execTrapDelivery p s
  | .taskEnd p => execTaskEnd p s
  | .launchRecordRead n => execLaunchRecordRead n s
  | .launchWaitMet l => execLaunchWaitMet l s
  | .agingStep l => execAgingStep l s
  | .pieceReserve l => execPieceReserve l s
  | .pieceGrant l => execPieceGrant l s
  | .switchOut p => execSwitchOut p s
  | .sequenceResume l => execSequenceResume l s
  | .launchDone l => execLaunchDone l s
  | .subgraphLoadDone => execSubgraphLoadDone s
  | .remoteSubgraphFire id => execRemoteSubgraphFire id s
  | .moveHoldExpire id => execMoveHoldExpire id s
  | .pairClaim l i => execPairClaim l i s
  | .bindingTimeout l => execBindingTimeout l s
  | .pairRelease pair => execPairRelease pair s
  | .linkTokenSend k => execLinkTokenSend k s
  | .replayTimeout g => execReplayTimeout g s
  | .streamFrameReceive pair => execStreamFrameReceive pair s
  | .dieToDieTokenArrive k => execDieToDieTokenArrive k s
  | .remoteStoreLine pair => execRemoteStoreLine pair s
  | .remoteStorePartial pair => execRemoteStorePartial pair s
  | .remoteLoad pair => execRemoteLoad pair s
  | .remoteInvoke pair => execRemoteInvoke pair s
  | .loadReply pair => execLoadReply pair s
  | .storeAcknowledgement pair => execStoreAcknowledgement pair s
  | .invokeResult pair => execInvokeResult pair s
  | .remoteReplyTimeout id => execRemoteReplyTimeout id s
  | .memoryWritePerform id scope => execMemoryWritePerform id scope s
  | .blockLockLoss port lane => execBlockLockLoss port lane s
  | .idleFlit g => execIdleFlit g s
  | .powerStateEntryComplete => execPowerStateEntryComplete s
  | .laneLost port lane => execLaneLost port lane s

/-! ## The end of a fabric cycle -/

/-- Injected control tokens enter the ports of the elements that are awake (R243). -/
def Piece.injectAll (p : Piece) (time : Nat) : Piece :=
  (blockElems p.blk.side).foldl (fun p e =>
    let x := p.elem e
    if x.gate = 0 && !x.ctlb.isEmpty then p.setElem e (x.inject time) else p) p

/-- What the end of a cycle makes of a tack that has stalled an engine (R24): a movement has not happened; S waits on a tack of
M or F for the Mutual case (R30), and its cycle is counted (R201). -/
def Piece.countTacks (p : Piece) : Piece :=
  let stall (x : EngSt) : Bool := x.tackWait.isSome
  let clear (x : EngSt) : EngSt := { x with tackWait := none, late := false }
  let p := if stall p.s || stall p.c || stall p.m || stall p.f then { p with blocked := true } else p
  let p := match p.s.tackWait with
    | some (some q) => Piece.count { p with s := { p.s with waitQ := p.s.waitQ || q != 1 } } 10 1
    | _ => p
  { p with s := clear p.s, c := clear p.c, m := clear p.m, f := clear p.f }

/-- The Mutual case (R30): it is counted in the first cycle of a run in which its condition holds. -/
def Piece.mutual (p : Piece) : Piece :=
  let now := (p.m.waitQ || p.f.waitQ) && p.s.waitQ
  let p := if now && !p.mutualOn then p.lod .stuck else p
  { p with mutualOn := now, s := { p.s with waitQ := false }, m := { p.m with waitQ := false }, f := { p.f with waitQ := false } }

/-- The stall count (R273, R380). -/
def Piece.countStall (p : Piece) : Piece :=
  if p.active then p
  else if p.moved then { p with stall := 0 }
  else if p.blocked || (blockElems p.blk.side).any (fun e => (p.elem e).stopped) then { p with stall := p.stall + 1 }
  else p

/-- The first cycle of a face, in which `?turn` moves fire, ends with the first cycle in which its element can act
(R242, log 39, DEDUCED). -/
def Elem.endFirst (x : Elem) (time : Nat) : Elem :=
  if x.faceNew && x.gate == 0 && !x.stopped && decide (x.faceAt ≤ time) then { x with faceNew := false } else x
/-- That end for the elements of a block. -/
def Piece.endFirsts (p : Piece) (time : Nat) : Piece :=
  if p.blk.runs time && p.blk.elems.any (fun kv => kv.2.faceNew) then
    { p with blk := { p.blk with elems := p.blk.elems.map fun kv => (kv.1, kv.2.endFirst time) } }
  else p

/-- What the end of cycle `time` does to a piece. -/
def Piece.tick (p : Piece) (time : Nat) : Piece :=
  if !p.live then p
  else
    let p := ((p.injectAll time).endFirsts time |>.applyTags time).flushGives
    let p := if p.blk.armed && p.blk.lastMove = time && p.moved then p.count 17 1 else p
    let p := p.countTacks.mutual.countStall
    { p with
      moved := false, blocked := false, pushes := [], lastRun := if p.atSeam then p.lastRun else time
      sys := { p.sys with qtrapNow := p.sys.qtrap, flagsNow := 0 }
      mx := { p.mx with mtwLast := none, lastUse := if p.mBusy then time else p.mx.lastUse } }

/-- The age of a launch (R51): cycles in a row with a startable task that no piece has been granted. -/
def State.age (s : State) (l : Nat) (x : Launch) : Launch := { x with age := if s.ages l then x.age + 1 else 0 }

/-- The end of a fabric cycle. -/
def State.tick (s : State) : State :=
  let launches := s.hub.launches.map fun kv => (kv.1, if kv.2.open then s.age kv.1 kv.2 else kv.2)
  let s := if s.hub.gated.isEmpty then s else s.wakeBlocks
  { s with
    time := s.time + 1
    pieces := s.pieces.map fun kv => (kv.1, kv.2.tick s.time)
    hub := { s.hub with launches := launches } }

/-! ## The turns of a cycle (log 3, DESIGN CHOICE) -/

/-- A write performs at system scope, at a narrower one, or not in this cycle, as the next choice says (R95, log 4, DESIGN CHOICE). -/
def writeTurns : List MemOp → State → List Turn × State
  | [], s => ([], s)
  | o :: os, s =>
    let skip := o.kind == .read || o.kind == .rmw
    let (c, s) := if skip then (0, s) else s.choose
    let (ts, s) := writeTurns os s
    if skip || c % 6 = 5 then (ts, s)
    else (.auto (.memoryWritePerform o.id (BitVec.ofNat 3 (if c % 6 = 0 then 4 else c % 6 - 1))) :: ts, s)

/-- A read performs, or not in this cycle, and takes a value from the thread's own earlier writes or from memory, as the
next choice says (R102). -/
def readTurns : List MemOp → State → List Turn × State
  | [], s => ([], s)
  | o :: os, s =>
    let (c, s) := if o.kind == .read then s.choose else (0, s)
    let (ts, s) := readTurns os s
    if o.kind != .read || c % 3 = 2 then (ts, s) else (.auto (.loadDataReturn o.piece o.id (c % 3 == 0)) :: ts, s)

/-- The memory system's turns. -/
def State.memTurns (s : State) : List Turn × State :=
  let (w, s) := writeTurns s.ops s
  let (r, s) := readTurns s.ops s
  let rest : List Turn :=
    (s.ops.filter fun o => o.kind == .rmw).map (fun o => .auto (.loadDataReturn o.piece o.id true))
      ++ (s.pieces.flatMap fun kv => kv.2.qloads.map fun q => .auto (.queueLoadDeliver kv.1 q.id))
      ++ s.scatters.map (fun u => .auto (.scatterUpdate u.id))
      ++ s.barEvs.map (fun b => .auto (.barrierEventApply b.id))
      ++ s.invokes.map (fun v => .auto (.remoteSubgraphFire v.id))
      ++ (s.hub.turns.filter fun kv => !kv.2.wait.isEmpty).map (fun kv => .auto (.hubTurn kv.1))
  (w ++ r ++ rest, s)

/-- The turns of a piece's matrix engine, which comes before the edge ports (R237). -/
def Piece.mTurns (k : Nat) (p : Piece) : List Turn :=
  (if p.mx.nest.isSome then [.auto (.nestPass k)] else []) ++ (if p.mx.drains.isEmpty then [] else [.auto (.drainTokenPush k)])
/-- The turns of a piece's streams. -/
def Piece.streamTurns (k : Nat) (p : Piece) : List Turn :=
  (p.slots.filter fun kv => kv.2.st != .free).flatMap fun kv => [.auto (.streamTransfer k kv.1), .auto (.streamEnd k kv.1)]
/-- A piece's turns outside its block: its watchdog, on the stall count of the last cycle, its engines, the matrix engine, its
streams, and, three times, engines that a tack has stalled. -/
def State.coreTurns (s : State) (k : Nat) (p : Piece) : List Turn :=
  [.auto (.watchdog k), .engine k 0, .engine k 1, .engine k 2, .engine k 3]
    ++ (if s.engineOn k 2 then p.mTurns k else []) ++ (if s.engineOn k 1 then p.streamTurns k else [])
    ++ (List.range 3).flatMap fun _ => [.retry k 0, .retry k 1, .retry k 2, .retry k 3]

/-- The turns of one element before its moves: results, the right stream of the exchange unit, links, ksets. -/
def Piece.inTurns (k : Nat) (p : Piece) (e : Nat) : List Turn :=
  let x := p.elem e
  let xu := (x.port 33).tok.isSome || x.part.mg.short || x.part.un.short
  x.flight.map (fun f => .auto (.operationResult k e (unitOf f.fam)))
    ++ (if xu && x.flight.all (fun f => unitOf f.fam != 55) then [.auto (.operationResult k e 55)] else [])
    ++ ((List.range 4).flatMap fun d => [.auto (.tokenLinkHop k e d), .auto (.ksetHandle k e d)])
/-- The turns of one element after its links: three moves, the `isect` configuration and a memory node that waits, the turn,
and its gating. -/
def actTurns (k e : Nat) : List Turn :=
  [.element k e, .element k e, .element k e, .element k e, .element k e, .auto (.elementTurn k e), .auto (.elementClockGate k e)
  , .auto (.elementPowerGate k e)]

/-- Whether nothing in a block has anything to do: no plane was ever loaded into it and nothing was asked of it. -/
def Block.bare (b : Block) : Bool := b.elems.isEmpty && b.edges.isEmpty && b.ctlNet.isEmpty && !b.turning
/-- A piece's turns in its block, and that of an `s.qdisc`. A block of elements at halved cadence acts in every second cycle
(R302). -/
def State.blockTurns (s : State) (k : Nat) (p : Piece) : List Turn :=
  let es := if p.blk.bare then [] else (blockElems p.blk.side).filter fun e => s.hub.hot.isEmpty || s.unitsOn [p.elemBlock e]
  es.map (fun e => .auto (.elementWake k e)) ++ p.blk.ctlNet.map (fun _ => .auto (.controlTokenArrive k)) ++ es.flatMap (p.inTurns k)
    ++ (if p.blk.bare then [] else (List.range (4 * p.blk.side)).map (fun port => .auto (.edgePortTransfer k port)))
    ++ es.flatMap (actTurns k) ++ [.late k]

/-- A piece's seams and traps. -/
def seamTurns (k : Nat) : List Turn := [.auto (.trapDelivery k), .auto (.taskEnd k), .auto (.switchOut k)]

/-- Whether the package is in RETAIN or DOWN, or enters it: nothing is read, granted or made READY then (R303, R307). -/
def State.asleep (s : State) : Bool := s.hub.entering != 0 || decide (2 ≤ s.hub.power)
/-- Launches whose waits were met in earlier cycles leave WAITING (R47): these turns come first in a cycle. -/
def State.waitTurns (s : State) : List Turn :=
  if s.asleep then [] else (s.hub.launches.filter fun kv => kv.2.st == .waiting).map fun kv => .auto (.launchWaitMet kv.1)
/-- The hub's turns for launches. -/
def State.launchTurns (s : State) : List Turn :=
  (s.hub.lq.flatMap fun kv => List.replicate (kv.2.tail - kv.2.head).toNat (.auto (.launchRecordRead kv.1)))
    ++ (s.hub.launches.filter fun kv => kv.2.open).flatMap (fun kv =>
        (List.range kv.2.binds.length).map (fun i => .auto (.pairClaim kv.1 i))
        ++ [.auto (.bindingTimeout kv.1), .auto (.agingStep kv.1)])
    ++ (s.hub.launches.filter fun kv => kv.2.open).flatMap (fun kv =>
        [.auto (.pieceReserve kv.1), .auto (.sequenceResume kv.1), .auto (.pieceGrant kv.1), .auto (.launchDone kv.1)])
/-- The hub's turns. -/
def State.hubTurns (s : State) : List Turn :=
  (if s.asleep then [] else s.launchTurns) ++ (if s.hub.sgbusy then [.auto .subgraphLoadDone] else [])
    ++ s.hub.held.map (fun h => .auto (.moveHoldExpire h.id))
    ++ (if s.hub.entering != 0 then [.auto .powerStateEntryComplete] else [])

/-- The turns of one pair in use. -/
def pairTurns (n : Nat) (p : Pair) : List Turn :=
  if !(p.launch.isSome || p.server) then []
  else
    (if p.rx.isEmpty then [] else [.auto (.streamFrameReceive n), .auto (.loadReply n), .auto (.storeAcknowledgement n)
      , .auto (.invokeResult n)])
    ++ (if p.server then [.auto (.remoteStoreLine n), .auto (.remoteStorePartial n), .auto (.remoteLoad n)
      , .auto (.remoteInvoke n)] else [])
    ++ [.auto (.replayTimeout n), .auto (.idleFlit n), .auto (.pairRelease n)]

/-- The turns of the links. -/
def State.linkTurns (s : State) : List Turn :=
  s.links.queues.flatMap (fun kv => [.auto (.linkTokenSend kv.1), .auto (.dieToDieTokenArrive kv.1)])
    ++ s.links.pairs.flatMap (fun kv => pairTurns kv.1 kv.2)
    ++ s.links.requests.map (fun r => .auto (.remoteReplyTimeout r.id))
    ++ (s.links.lanes.filter fun kv => kv.2.unlock.isSome).map (fun kv => .auto (.laneLost (kv.1 / 16) (kv.1 % 16)))

/-- The turns of a fabric cycle, in the order of log 3, and the state with the choices they took. -/
def State.round (s : State) : List Turn × State :=
  let live := s.pieces.filter fun kv => kv.2.live
  let (m, s) := s.memTurns
  (s.waitTurns ++ m ++ s.linkTurns ++ live.flatMap (fun kv => s.coreTurns kv.1 kv.2)
    ++ live.flatMap (fun kv => s.blockTurns kv.1 kv.2)
    ++ live.flatMap (fun kv => seamTurns kv.1) ++ s.hubTurns ++ [.tick], s)

/-- Takes one turn. -/
def takeTurn (run : Run) (t : Turn) (s : State) : Host.Outcome State Fault Refusal :=
  match t with
  | .engine k e => s.engineTurn run k e
  | .retry k e => s.retryTurn run k e
  | .late k => s.lateTurn run k
  | .element k e => s.elementTurn run k e
  | .auto a => runAuto a s
  | .event i => run i s
  | .tick => .next s.tick

/-! ## Placing one instruction (log 5, DESIGN CHOICE) -/

/-- Where the placed text stands, and the tables that map it: a 1 GiB page of DRAM at virtual address 0. -/
def probeText : Nat := 0x600000
/-- Stores a doubleword in a cleared line. -/
def State.putLine (s : State) (a v : Nat) : State := s.hubWrite a (bytesOf 8 v ++ List.replicate 120 0)

/-- Full service, with tables that map one readable text page for address space 0 and no cached translation. -/
def State.probeMemory (s : State) : State :=
  let h := { s.hub with svc := 254, stkstat := 0xFF, boot := 5, power := 0, wallbase := 0x100000, tlbs := [], gtlbs := [], gated := [], hot := [] }
  let s := State.putLine { s with hub := h } 0x100000 0
  (s.putLine 0x200000 (1 + 0x400 * 65536)).putLine 0x400000 8219

/-- An engine as it stands before the word at the placed text. -/
def probeEng : EngSt := { pc := BitVec.ofNat 64 probeText, late := true }

/-- A piece as it stands before its engine `e` runs the placed word. -/
def Piece.probe (p : Piece) (e : Nat) : Piece :=
  let p : Piece := { p with
    live := true, atSeam := false, halted := false, stepping := false, abort := none, pre := .none, await := .none, parked := false
    faceDue := false, sys := { p.sys with troot := 0x200000 } }
  let p := p.setEng e probeEng
  if p.blk.side = 0 then { p with blk := { p.blk with side := 4 } } else p

/-- A text word placed as the next word of its engine, on piece 0. -/
def State.placeText (s : State) (w : Nat) : State :=
  let t := s.probeMemory.putLine probeText w
  { t with pieces := t.pieces.insert 0 ((t.pieceOf 0).probe (engOf w)), agenda := Turn.engine 0 (engOf w) :: t.agenda }

/-- A token of 16 valid lanes, each 1. -/
def probeTok : Token := { lanes := List.replicate 16 { valid := true, val := 1 } }
/-- An element whose only move is `w`, with a token at its source and at every operand. -/
def probeElem (w : Nat) : Elem :=
  let ports := ([18, 19, 20, 21, 23, 24, 25, 27, 28, 31, 33, 34, 37, 42].filter (· != mvDst w)) ++ resultPorts.filter (· == mvSrc w)
  { face := { slots := [(0, BitVec.ofNat 32 w)] }
    inb := (List.range 4).map fun d => (d, [{ tok := probeTok, avail := 0 }])
    ctlb := [(8, [{ tok := probeTok, avail := 0 }])]
    ports := ports.map fun c => (c, { tok := some probeTok }) }

/-- A move word placed as the only move of element 0 of piece 0, in an armed block. -/
def State.placeMove (s : State) (w : Nat) : State :=
  let p := s.pieceOf 0
  let b := { p.blk with side := if p.blk.side = 0 then 4 else p.blk.side, armed := true, elems := p.blk.elems.insert 0 (probeElem w) }
  let p := { p with live := true, atSeam := false, abort := none, blk := b }
  { s with pieces := s.pieces.insert 0 p, agenda := .element 0 0 :: s.agenda }

end Sys2Proof.Machine
end

