-- ==== Sys2Proof/Machine/Step.lean ====
section
/-! DEFINITION. One step of the package (log 3, DESIGN CHOICE): it takes the next turn of the agenda, or, where the agenda is empty, lists
the turns of the next fabric cycle; and the placing of one instruction where the next step runs it (log 5, DESIGN CHOICE). -/

namespace Sys2Proof.Machine

/-- One step. -/
def step (s : State) : Host.Outcome State Fault Refusal :=
  match s.agenda with
  | [] =>
    let r := s.round
    .next { r.2 with agenda := r.1 }
  | t :: ts => takeTurn exec t { s with agenda := ts }

/-- `s` with the instruction of the opcode-table word `w` placed so that the very next step runs it: a move word as the move
of an element, any other word as text (log 5, log 6, DESIGN CHOICE). -/
def State.withFetchWord (s : State) (nbits w : Nat) : State :=
  match Sys2Proof.decodeTableWord nbits w with
  | none => s.placeText w
  | some i => if (encodeText i).isSome then s.placeText w else s.placeMove w

end Sys2Proof.Machine
end

