-- ==== Sys2Proof/Safety.lean ====
section
/-! DEFINITION. The terms in which the statements speak: what counts as a safe run, when a text word can issue, and what a
word leaves as it was. -/

namespace Sys2Proof.Machine

/-! ## Safe runs -/

/-- A state from which a number of steps can be taken without a fault or a refusal. -/
def SafeFor (k : Nat) (s : State) : Prop := ∃ t, Host.Core.run core k s = .next t

/-- Memory and vaults are in canonical form. -/
def MemOk (s : State) : Prop := Memory.wf false s.mem = true ∧ Memory.wf true s.vault = true

/-! ## When a text word issues (R23, R24, R144, R164) -/

/-- The word of engine `e` with tack field `t` can issue and retire in this step: the piece exists, the tack field is one
the engine may hold (R23), the effect of the word is not complete already, the tack it pops is there (or popped), and
there is room for the tack it gives. -/
structure CanRun (s : State) (e : Nat) (t : BitVec 4) : Prop where
  live : s.piece.live = true
  field : tackOk e t = true
  going : (s.piece.eng e).done = none
  take : (s.piece.eng e).issued = true ∨ tackW t = false ∨ s.piece.tackQ (tackP t) e ≠ []
  room : tackG t = false ∨ (s.piece.tackQ e (tackP t)).length < 15

/-- The acting piece once its word has issued: the tack popped, and an M word counted. -/
def Piece.begun (p : Piece) (e : Nat) (t : BitVec 4) : Piece :=
  match p.popTack e t with
  | none => p
  | some q => if (p.eng e).issued then q else { q.countIssue e with moved := true }

/-- The state in which the effect of a word is taken: its acting piece once the word has issued. -/
def State.begun (s : State) (e : Nat) (t : BitVec 4) : State := s.setPiece (s.piece.begun e t)

/-- The registers a word reads hold their values: no earlier load is to write them, and none is poisoned. -/
def RegsReady (p : Piece) (rs : List (BitVec 5)) : Prop := ∀ r ∈ rs, p.busy r = false ∧ p.poisonOf r = none

/-! ## What a text word leaves as it was -/

/-- The FIFO of tacks from engine `a` to engine `b` after a word of engine `e` with tack field `t` has completed (R24,
R104): with W the oldest tack of its partner is gone (unless an earlier attempt took it), with G one more stands in the
partner's FIFO, carrying some orders. -/
def tacksAfter (p : Piece) (e : Nat) (t : BitVec 4) (new : List Dep) (a b : Nat) : List (List Dep) :=
  if tackW t && !(p.eng e).issued && a == tackP t && b == e then (p.tackQ a b).tail
  else if tackG t && a == e && b == tackP t then p.tackQ a b ++ [new]
  else p.tackQ a b

/-- Where engine `e` goes on after a word that does not transfer control: the next word, or the first of a block that C
or M repeats (R215). -/
def Piece.nextPc (p : Piece) (e : Nat) : W64 := (p.advance e).2

/-- A word of engine `e` has completed, and the engine goes on at `pc`: nothing of the word is left over, the tacks have
moved, and the other engines are where they were. -/
structure WordDone (s u : State) (e : Nat) (t : BitVec 4) (pc : W64) : Prop where
  pc : (u.piece.eng e).pc = pc
  clear : (u.piece.eng e).issued = false ∧ (u.piece.eng e).done = none
  tacks : ∃ new, ∀ a b, a < 4 → b < 4 → u.piece.tackQ a b = tacksAfter s.piece e t new a b
  others : ∀ k, k < 4 → k ≠ e → u.piece.eng k = s.piece.eng k
  prefixGone : e = 0 → u.piece.pre = .none

/-- A piece without what every completing word may change: the engines, tacks, the pending prefix, what a tack of the
word carries, the event counters' values, and the marks of the cycle and of stepping. -/
def Piece.besidesWord (p : Piece) : Piece :=
  { p with s := {}, c := {}, m := {}, f := {}, tacks := [], pre := .none, relDeps := [], sys := { p.sys with cnt := [] }
           moved := false, blocked := false, parkEv := false, halted := false, stepping := false }

/-- The system registers without the event counters' values. -/
def SysRegs.besidesCounts (y : SysRegs) : SysRegs := { y with cnt := [] }

/-- A piece without its S registers. -/
def Piece.besidesRegs (p : Piece) : Piece := { p with regs := [], pend := [], pois := [] }

/-- Only the acting piece has changed. -/
def OnlyPiece (s u : State) : Prop := u = { s with pieces := s.pieces.insert s.focusP u.piece }

/-- A word of S has completed with the only effect that register `d` takes the value `v`; a write to s0 is discarded
(R164). No other register, no special register, and no byte of memory has changed. -/
structure WroteReg (s u : State) (t : BitVec 4) (d : BitVec 5) (v : W64) : Prop where
  done : WordDone s u 0 t (s.piece.s.pc + 4)
  only : OnlyPiece s u
  value : u.piece.reg d = if d = 0 then 0 else v
  ready : d ≠ 0 → u.piece.busy d = false ∧ u.piece.poisonOf d = none
  regs : ∀ r, r ≠ d → u.piece.reg r = s.piece.reg r ∧ u.piece.busy r = s.piece.busy r
    ∧ u.piece.poisonOf r = s.piece.poisonOf r
  rest : u.piece.besidesRegs.besidesWord = s.piece.besidesRegs.besidesWord
  memory : ∀ v a, u.byte v a = s.byte v a

/-- A word of engine `e` has completed and the engine goes on at `pc`. Besides what every word changes, the acting piece
is as `p`, and all the rest of the machine, with every byte of memory, is as in `x`. -/
structure Ran (s u : State) (e : Nat) (t : BitVec 4) (pc : W64) (p : Piece) (x : State) : Prop where
  done : WordDone s u e t pc
  piece : u.piece.besidesWord = p.besidesWord
  rest : u = { x with pieces := x.pieces.insert x.focusP u.piece }
  memory : ∀ v a, u.byte v a = x.byte v a

/-- A word of S with tack field `t` that reads the registers `rs` and accepts prefixes of kind `acc` (0 none, 1 `s.imx`,
2 `s.sem`) takes its effect in this step. -/
structure CanS (s : State) (t : BitVec 4) (acc : Nat) (rs : List (BitVec 5)) : Prop where
  run : CanRun s 0 t
  fits : s.piece.pre.fits acc = true
  regs : RegsReady s.piece rs

/-- The state once a read that performs at S's word has observed the writes its thread sees (R104, R108): orders that hold the
read are extended by them, and nothing else changes. -/
def State.noted (s : State) : State := s.noteSeen (.thread s.focusP) s.opCount

/-- S waits for nothing at its word: the word is at its start. -/
def Fresh (s : State) : Prop := s.piece.await = .none

end Sys2Proof.Machine
end

