-- ==== Sys2Proof/Certificates/Slice0/Obligations.lean ====
section
/-! DEFINITION. The statements for the provers, one definition each. -/

namespace Sys2Proof.Machine

/-! ## The integer words of S -/

/-- The three-register words of major 0x00 and what R169 gives rd for the operands x (ra) and y (rb). -/
def aluRows (t : BitVec 4) (d a b : BitVec 5) (x y : W64) : List (Instr × W64) :=
  [(.sAdd t d a b, x + y), (.sSub t d a b, x - y), (.sAnd t d a b, x &&& y), (.sOr t d a b, x ||| y),
   (.sXor t d a b, x ^^^ y), (.sAndn t d a b, x &&& ~~~y),
   (.sSll t d a b, x <<< (y.toNat % 64)), (.sSrl t d a b, x >>> (y.toNat % 64)),
   (.sSra t d a b, x.sshiftRight (y.toNat % 64)),
   (.sMul t d a b, BitVec.ofNat 64 (x.toNat * y.toNat)), (.sMulh t d a b, BitVec.ofInt 64 (x.toInt * y.toInt / 2 ^ 64)),
   (.sMulhu t d a b, BitVec.ofNat 64 (x.toNat * y.toNat / 2 ^ 64)),
   (.sDiv t d a b, if y = 0 then BitVec.allOnes 64 else x.sdiv y),
   (.sDivu t d a b, if y = 0 then BitVec.allOnes 64 else x / y),
   (.sRem t d a b, if y = 0 then x else x.srem y), (.sRemu t d a b, if y = 0 then x else x % y),
   (.sMin t d a b, if x.toInt < y.toInt then x else y), (.sMax t d a b, if x.toInt < y.toInt then y else x),
   (.sMinu t d a b, if x.toNat < y.toNat then x else y), (.sMaxu t d a b, if x.toNat < y.toNat then y else x),
   (.sSlt t d a b, if x.toInt < y.toInt then 1 else 0), (.sSltu t d a b, if x.toNat < y.toNat then 1 else 0),
   (.sSeq t d a b, if x = y then 1 else 0), (.sSne t d a b, if x = y then 0 else 1)]

/-- The value of an immediate that is sign-extended (R146), under the 20 bits of a pending `s.imx` (R147). -/
def immS (p : Piece) (i : BitVec 10) : W64 :=
  match p.pre with
  | .imx h _ => BitVec.signExtend 64 (h ++ i)
  | _ => BitVec.signExtend 64 i

/-- The value of an immediate that is zero-extended. -/
def immU (p : Piece) (i : BitVec 10) : W64 :=
  match p.pre with
  | .imx h _ => BitVec.setWidth 64 (h ++ i)
  | _ => BitVec.setWidth 64 i

/-- X of the swizzle for a mode and a vault offset, by the table of R71. -/
def swizzleBits (m : BitVec 3) (x : W64) : BitVec 4 :=
  match m.toNat with
  | 0 => 0
  | 1 => x.extractLsb' 10 4
  | 2 => x.extractLsb' 14 4
  | 3 => x.extractLsb' 10 4 ^^^ x.extractLsb' 14 4
  | 4 => x.extractLsb' 11 4
  | 5 => x.extractLsb' 12 4
  | 6 => (x.extractLsb' 10 4).reverse
  | _ => x.extractLsb' 18 4

/-- The words of major 0x01, the shifts by an immediate and `s.swz`, and what R170, R171 and R174 give rd for the operand
x (ra). -/
def unaryRows (t : BitVec 4) (d a : BitVec 5) (h : BitVec 6) (m : BitVec 3) (x : W64) : List (Instr × W64) :=
  [(.sClz t d a, x.clz), (.sCtz t d a, x.ctz), (.sPopc t d a, x.cpop),
   (.sSextB t d a, (x.setWidth 8).signExtend 64), (.sSextH t d a, (x.setWidth 16).signExtend 64),
   (.sSextW t d a, (x.setWidth 32).signExtend 64), (.sZextW t d a, (x.setWidth 32).setWidth 64),
   (.sSlli t d a h, x <<< h.toNat), (.sSrli t d a h, x >>> h.toNat), (.sSrai t d a h, x.sshiftRight h.toNat),
   (.sSwz t d a m, x ^^^ ((swizzleBits m x).setWidth 64 <<< 6))]

/-- The words that take an immediate of 10 or, after `s.imx`, 30 bits, and what R171 gives rd for the operand x (ra). -/
def immRows (p : Piece) (t : BitVec 4) (d a : BitVec 5) (i : BitVec 10) (x : W64) : List (Instr × W64) :=
  [(.sAddi t d a i, x + immS p i), (.sAndi t d a i, x &&& immU p i), (.sOri t d a i, x ||| immU p i),
   (.sXori t d a i, x ^^^ immU p i), (.sSlti t d a i, if x.toInt < (immS p i).toInt then 1 else 0),
   (.sSltiu t d a i, if x.toNat < (immS p i).toNat then 1 else 0), (.sLui t d i, immU p i <<< 30)]

/-- The width of the bit field of `s.bfx` and `s.bfi` (R149), where the prefix leaves the reserved bits 0. -/
inductive FieldWidth (p : Piece) (w : BitVec 3) : Nat → Prop where
  | coded (h : p.pre = .none ∨ ∃ a, p.pre = .imx 0 a) : w.toNat < 7 → FieldWidth p w (2 ^ w.toNat)
  | one : p.pre = .none → w.toNat = 7 → FieldWidth p w 1
  | given (h : BitVec 20) (a : W64) : p.pre = .imx h a → w.toNat = 7 → h.toNat < 64 → FieldWidth p w (h.toNat + 1)

/-- The ones of a bit field of `n` bits at `pos`. -/
def fieldMask (pos n : Nat) : W64 := BitVec.ofNat 64 (2 ^ n - 1) <<< pos

end Sys2Proof.Machine

section
open Sys2Proof Sys2Proof.Machine

/-- Every three-register integer word completes and writes to rd what R169 gives; nothing else changes. The function code
numbers the words as R169's table does. -/
def Obligations.AluWordsWriteTheirResult : Prop :=
  ∀ (s : State) (t : BitVec 4) (d a b : BitVec 5), CanRun s 0 t → s.piece.pre = .none → RegsReady s.piece [a, b] →
    ∀ k iv, (aluRows t d a b (s.piece.reg a) (s.piece.reg b))[k]? = some iv →
      decodeText (0#2 ++ t ++ 0x00#6 ++ d ++ a ++ b ++ BitVec.ofNat 5 k).toNat = .ok iv.1
      ∧ ∃ u, exec iv.1 s = .next u ∧ WroteReg s u t d iv.2

/-- The words of one operand, the shifts by an immediate, `s.swz` and `s.madd` complete with the results of R170, R171,
R172 and R174. -/
def Sys2Proof.UnaryWordsWriteTheirResultPart : Prop :=
  ∀ (s : State) (t : BitVec 4) (d a b : BitVec 5) (h : BitVec 6) (m : BitVec 3), CanRun s 0 t → s.piece.pre = .none →
    (RegsReady s.piece [a] →
      ∀ iv ∈ unaryRows t d a h m (s.piece.reg a), ∃ u, exec iv.1 s = .next u ∧ WroteReg s u t d iv.2)
    ∧ (RegsReady s.piece [d, a, b] → ∃ u, exec (.sMadd t d a b) s = .next u
      ∧ WroteReg s u t d (s.piece.reg d + s.piece.reg a * s.piece.reg b))

/-- The immediate words complete with the results of R171, with and without `s.imx` before them (R147). -/
def Sys2Proof.ImmediateWordsWriteTheirResultPart : Prop :=
  ∀ (s : State) (t : BitVec 4) (d a : BitVec 5) (i : BitVec 10), CanRun s 0 t →
    (s.piece.pre = .none ∨ ∃ h x, s.piece.pre = .imx h x) → RegsReady s.piece [a] →
    ∀ iv ∈ immRows s.piece t d a i (s.piece.reg a), ∃ u, exec iv.1 s = .next u ∧ WroteReg s u t d iv.2

/-- `s.bfx` and `s.bfi` complete with the results of R173, for every width R149 gives; a field that would pass bit 63 is
cut there. -/
def Obligations.BitFieldWordsWriteTheirResult : Prop :=
  ∀ (s : State) (t : BitVec 4) (d a : BitVec 5) (pos : BitVec 6) (w : BitVec 3) (k : Nat), CanRun s 0 t →
    FieldWidth s.piece w k → RegsReady s.piece [a] →
    let n := Nat.min k (64 - pos.toNat)
    decodeText (0#2 ++ t ++ 0x0B#6 ++ d ++ a ++ 0#1 ++ pos ++ w).toNat = .ok (.sBfx t d a pos w)
    ∧ decodeText (0#2 ++ t ++ 0x0B#6 ++ d ++ a ++ 1#1 ++ pos ++ w).toNat = .ok (.sBfi t d a pos w)
    ∧ (∃ u, exec (.sBfx t d a pos w) s = .next u
      ∧ WroteReg s u t d ((s.piece.reg a >>> pos.toNat) &&& fieldMask 0 n))
    ∧ (RegsReady s.piece [d] → ∃ u, exec (.sBfi t d a pos w) s = .next u
      ∧ WroteReg s u t d ((s.piece.reg d &&& ~~~(fieldMask pos.toNat n))
          ||| ((s.piece.reg a <<< pos.toNat) &&& fieldMask pos.toNat n)))

/-- `s.imx` and `s.sem` complete: the prefix waits for the next word of S, with its own address kept for a trap (R93,
R147), and nothing else changes but S's program counter, past which S holds no word yet. -/
def Sys2Proof.PrefixesWaitForTheirWordPart : Prop :=
  ∀ (s : State) (h : BitVec 20) (o : BitVec 2) (sc kw kt : BitVec 3), s.piece.live = true → s.piece.pre = .none →
    exec (.sImx h) s = .next (s.setPiece { s.piece with
      pre := .imx h s.piece.s.pc, s := { s.piece.s with pc := s.piece.s.pc + 4, word := none } })
    ∧ exec (.sSem o sc kw kt) s = .next (s.setPiece { s.piece with
      pre := .sem o sc kw kt s.piece.s.pc, s := { s.piece.s with pc := s.piece.s.pc + 4, word := none } })

end

namespace Sys2Proof.Machine

/-! ## Loads, stores and atomics -/

/-- The loads with their size in bytes and whether they sign-extend (R175). -/
def loadRows (t : BitVec 4) (d a : BitVec 5) (kw kt : BitVec 3) : List (Instr × Nat × Bool) :=
  [(.sLdB t d a kw kt, 1, true), (.sLdH t d a kw kt, 2, true), (.sLdW t d a kw kt, 4, true), (.sLdD t d a kw kt, 8, false),
   (.sLdBu t d a kw kt, 1, false), (.sLdHu t d a kw kt, 2, false), (.sLdWu t d a kw kt, 4, false)]

/-- The access a load or store of a size makes (R166): the face of a turned page, the stack window, and the hub window
for 8 bytes. -/
def plainAcc (write : Bool) (size : Nat) : Acc := { write := write, turned := if write then .refuse else .face, stack := true, hub := size == 8 }

/-- The stores with their size in bytes (R175). -/
def storeRows (t : BitVec 4) (d a : BitVec 5) (kw kt : BitVec 3) : List (Instr × Nat) :=
  [(.sStB t d a kw kt, 1), (.sStH t d a kw kt, 2), (.sStW t d a kw kt, 4), (.sStD t d a kw kt, 8)]

/-- The atomics, and `s.cas` as code 10 (R184, R185). -/
def amoRows (t : BitVec 4) (d a b : BitVec 5) (w : BitVec 1) : List (Instr × Nat) :=
  [(.sAmoAdd t d a b w, 0), (.sAmoAnd t d a b w, 1), (.sAmoOr t d a b w, 2), (.sAmoXor t d a b w, 3),
   (.sAmoMin t d a b w, 4), (.sAmoMax t d a b w, 5), (.sAmoMinu t d a b w, 6), (.sAmoMaxu t d a b w, 7),
   (.sAmoSwap t d a b w, 8), (.sAmoFadd t d a b w, 9), (.sCas t d a b w, 10)]

/-- The ordering and scope a load has: its own, but relaxed at system scope where it reads the hub window (R68). -/
def loadOrd (p : Piece) (v : Bool) (pa : Nat) (pair : Option Nat) : OrdScope :=
  if !v && pair.isNone && inHubWin pa then { p.ordScope with ord := 0, scope := 4 } else p.ordScope

/-- The memory operation a load hands over, at the place the address check found; `turned` names the turned page it still
has to resolve (R112). -/
def loadOp (s s1 : State) (d : BitVec 5) (kw : BitVec 3) (adr : W64) (size : Nat) (sext : Bool) (v : Bool) (pa key : Nat)
    (pair : Option Nat) (turned : Option (Nat × Nat)) : MemOp :=
  let os := loadOrd s.piece v pa pair
  { blankOp s.focusP (.thread s.focusP) .read v pa adr size with
    rd := d.toNat, sext := sext, ord := os.ord, scope := os.scope, key := key, turned := turned
    remote := if turned = none then pair else none, deps := s1.sDeps os kw.toNat false }

/-- The memory operation a store hands over. -/
def storeOp (s s1 : State) (d : BitVec 5) (kw : BitVec 3) (adr : W64) (size : Nat) (v : Bool) (pa key : Nat)
    (pair : Option Nat) : MemOp :=
  { blankOp s.focusP (.thread s.focusP) .write v pa adr size with
    data := bytesOf size (s.piece.reg d).toNat, ord := s.piece.ordScope.ord, scope := s.piece.ordScope.scope
    deps := s1.sDeps s.piece.ordScope kw.toNat true, remote := pair, key := key }

/-- The memory operation an atomic hands over. -/
def amoOp (s s1 : State) (d b : BitVec 5) (fn : Nat) (adr : W64) (dbl v : Bool) (pa key : Nat) (pair : Option Nat) : MemOp :=
  let size := if dbl then 8 else 4
  { blankOp s.focusP (.thread s.focusP) .rmw v pa adr size with
    data := bytesOf size (s.piece.reg b).toNat, rd := d.toNat, sext := !dbl, fn := fn, cmp := s.piece.reg d
    ord := s.piece.ordScope.ord, scope := s.piece.ordScope.scope, deps := s1.sDeps s.piece.ordScope 0 true
    remote := pair, key := key }

/-- The word `i` of engine `e` completes in this step: exec answers a next state in which the engine goes on at `pc`, the
acting piece is as `p` besides what every word changes, and all the rest is as in `x`. -/
def Completes (i : Instr) (s : State) (e : Nat) (t : BitVec 4) (pc : W64) (p : Piece) (x : State) : Prop :=
  ∃ u, exec i s = .next u ∧ Ran s u e t pc p x

/-- The word of an atomic after its operation on the old value `old` and the operand `v`, `n` bits wide (R184, R185). -/
def amoResult (fn n old v : Nat) (cmp : W64) : Nat :=
  match fn with
  | 0 => (old + v) % 2 ^ n
  | 1 => old &&& v
  | 2 => old ||| v
  | 3 => old ^^^ v
  | 4 => if sgn n v < sgn n old then v else old
  | 5 => if sgn n old < sgn n v then v else old
  | 6 => if v < old then v else old
  | 7 => if old < v then v else old
  | 8 => v
  | 10 => if old = cmp.toNat % 2 ^ n then v else old
  | _ => if n = 32 then (storageFadd 0 old (widen 0 v)).1
    else
      let f i := (storageFadd 2 (bits old (16 * i) 16) (widen 2 (bits v (16 * i) 16))).1
      f 0 + f 1 * 2 ^ 16 + f 2 * 2 ^ 32 + f 3 * 2 ^ 48

end Sys2Proof.Machine

section
open Sys2Proof Sys2Proof.Machine

/-- A load whose address check passes retires when its read is sent (R164, R175): the operation is handed to the memory
system and tied to its knots, and rd waits for it. The face of a turned page is resolved at the word or, as the next choice
says, when the read performs (R112). A remote load may instead hold S at its word (log 17, DESIGN CHOICE); that form is
`AnsweredLoadsCompletePart`. What the lookup itself changes on the way to `s1` is said by `LookupChangesOnlyEntriesPart`. -/
def Sys2Proof.LoadsAreSentPart : Prop :=
  ∀ (s s1 : State) (t : BitVec 4) (d a : BitVec 5) (kw kt : BitVec 3) (v : Bool) (pa key : Nat) (pair : Option Nat)
    (face : Option (Nat × Nat)),
    CanS s t 2 [a] → Piece.ktClash kt s.piece = none → Fresh s →
    (s.begun 0 t).knotFull (s.piece.ordScope.tied kt.toNat) 1 = false →
    let os := loadOrd s.piece v pa pair
    let f := s1.chooseFace (s1.sDeps os kw.toNat false) face
    (pair = none ∨ f.1 ≠ none ∨ f.2.choose.1 ≠ 0) →
    ∀ r ∈ loadRows t d a kw kt,
      (s.begun 0 t).sAddr (s.piece.reg a) r.2.1 (plainAcc false r.2.1) = .ok s1 v pa key pair face →
      (pair = none → (s1.read v pa r.2.1).integ = none) →
      let s2 := if pair ≠ none ∧ f.1 = none then f.2.choose.2 else f.2
      let x := ((s2.addOp (loadOp s s1 d kw (s.piece.reg a) r.2.1 r.2.2 v pa key pair f.1)).sIssue os kt.toNat
        s2.opCount true).sRelease (s1.sTack os kw.toNat false)
      Completes r.1 s 0 t (s.piece.s.pc + 4) (x.piece.pendReg d s2.opCount) x

/-- A load that S waits for at its word completes once its reads are answered: rd takes the bytes that came, extended as
R175 says; a refused read traps instead, with the address of the read (R365). -/
def Sys2Proof.AnsweredLoadsCompletePart : Prop :=
  ∀ (s : State) (t : BitVec 4) (d a : BitVec 5) (kw kt : BitVec 3) (ids : List Nat),
    CanS s t 2 [a] → Piece.ktClash kt s.piece = none → s.piece.await = .load ids → (s.begun 0 t).answered ids = true →
    ∀ r ∈ loadRows t d a kw kt,
      match (s.begun 0 t).refused ids with
      | none =>
        Completes r.1 s 0 t (s.piece.s.pc + 4)
              ({ s.piece with await := .none }.setReg d (extendLoad r.2.2 (ids.map s.readBytes).flatten))
              { s with ops := s.ops.filter fun o => !ids.contains o.id }
      | some f =>
        exec r.1 s = .next (((s.begun 0 t).dropReads ids).wordTrap 0 t f.1 f.2.1 f.2.2)

/-- A store whose address check passes retires when its write is handed to the memory system (R164, R175): one operation
with the low bytes of rd, at the place the check found, or, where the choice says so, its 4-byte units one by one (R94,
R96). No byte of memory changes yet. -/
def Sys2Proof.StoresAreHandedOverPart : Prop :=
  ∀ (s s1 : State) (t : BitVec 4) (d a : BitVec 5) (kw kt : BitVec 3) (v : Bool) (pa key : Nat) (pair : Option Nat)
    (face : Option (Nat × Nat)),
    CanS s t 2 [a, d] → Piece.ktClash kt s.piece = none →
    (s.begun 0 t).knotFull (s.piece.ordScope.tied kt.toNat) 1 = false →
    (v = true ∨ pair ≠ none ∨ inHubWin pa = false) →
    ∀ r ∈ storeRows t d a kw kt,
      (s.begun 0 t).sAddr (s.piece.reg a) r.2 (plainAcc true r.2) = .ok s1 v pa key pair face →
      let o := storeOp s s1 d kw (s.piece.reg a) r.2 v pa key pair
      let x := ((s1.addWrite o).sIssueFrom s.piece.ordScope kt.toNat s1.opCount false).sRelease
        (s1.sTack s.piece.ordScope kw.toNat true)
      Completes r.1 s 0 t (s.piece.s.pc + 4) x.piece x
      ∧ ((x.ops = s1.ops ++ [{ o with grp := some s1.opCount, id := s1.opCount, level := if o.scope = 0 then 1 else 0 }])
        ∨ (r.2 = 8 ∧ pair = none ∧ s1.choose.1 ≠ 0 ∧ ∃ o1 o2, x.ops = s1.ops ++ [o1, o2]
          ∧ o1.addr = pa ∧ o2.addr = pa + 4 ∧ o1.data ++ o2.data = o.data))

/-- An atomic or `s.cas` whose address check passes retires when its request is handed over (R164, R184, R185); rd waits
for the value read. -/
def Sys2Proof.AtomicsAreHandedOverPart : Prop :=
  ∀ (s s1 : State) (t : BitVec 4) (d a b : BitVec 5) (w : BitVec 1) (v : Bool) (pa key : Nat) (pair : Option Nat)
    (face : Option (Nat × Nat)),
    (s.begun 0 t).knotFull s.piece.ordScope.kt 1 = false →
    (s.begun 0 t).sAddr (s.piece.reg a) (if w = 1 then 8 else 4) { write := true, host := false, stack := true }
      = .ok s1 v pa key pair face →
    (pair = none → (s1.read v pa (if w = 1 then 8 else 4)).integ = none) →
    ∀ r ∈ amoRows t d a b w, CanS s t 2 (if r.2 = 10 then [a, b, d] else [a, b]) →
      let o := amoOp s s1 d b r.2 (s.piece.reg a) (w = 1) v pa key pair
      let x := ((s1.addOp o).sIssue s.piece.ordScope 0 s1.opCount true).sRelease (s1.sTack s.piece.ordScope 0 true)
      Completes r.1 s 0 t (s.piece.s.pc + 4) (x.piece.pendReg d s1.opCount) x

/-- A word of S that writes the hub window hands its 8 bytes to the hub (R68, R175): relaxed at system scope, but a notify
register's write is a release at system scope (R113). A register that no thread may write raises WALL. -/
def Sys2Proof.WindowStoresAreHandedOverPart : Prop :=
  ∀ (s s1 : State) (t : BitVec 4) (d a : BitVec 5) (kw kt : BitVec 3) (pa key : Nat) (face : Option (Nat × Nat)),
    CanS s t 2 [a, d] → Piece.ktClash kt s.piece = none →
    (s.begun 0 t).knotFull (s.piece.ordScope.tied kt.toNat) 1 = false →
    (s.begun 0 t).sAddr (s.piece.reg a) 8 (plainAcc true 8) = .ok s1 false pa key none face → inHubWin pa = true →
    let os := { s.piece.ordScope with ord := if isNotifyOff (pa - 2 ^ 42) then 2 else 0, scope := 4 }
    (s1.threadMayWrite (pa - 2 ^ 42) = true →
      let x := ((s1.addOp { blankOp s.focusP (.thread s.focusP) .notify false pa (s.piece.reg a) 8 with
          data := bytesOf 8 (s.piece.reg d).toNat, ord := os.ord, scope := 4, deps := s1.sDeps os kw.toNat true }).sIssue
        os kt.toNat s1.opCount false).sRelease (s1.sTack os kw.toNat true)
      Completes (.sStD t d a kw kt) s 0 t (s.piece.s.pc + 4) x.piece x)
    ∧ (s1.threadMayWrite (pa - 2 ^ 42) = false →
      exec (.sStD t d a kw kt) s = .next (s1.wordTrap 0 t 0x06 (s.piece.reg a) 0))

/-- The data of a load arrives (R95, R96, R175): the bytes the thread sees are read, all of them or, as the next choice says,
one 4-byte unit. With the last of them rd takes the bytes, extended, and the operation is over; a poisoned line poisons rd. What
was observed of other agents orders the thread's later releases (R108); no register but rd and no byte of memory changes. -/
def Sys2Proof.LoadDataReachesPart : Prop :=
  ∀ (s : State) (o : MemOp) (fwd : Bool), s.opOf o.id = some o → o.kind = .read → o.remote = none → o.turned = none →
    o.level ≠ 5 → o.agent = .thread o.piece → (o.vault = true ∨ inHubWin o.addr = false) →
    s.depsMet o.deps = true → o.rd < 32 → o.rd ≠ 0 → SMap.get none (s.pieceOf o.piece).pend o.rd = some o.id →
    let c := s.chooseTorn o.size
    let us := pickUnits c.1 (unitsLeft o.size o.got)
    let s0 := us.foldl (fun x u => x.detect o.vault (o.addr + u.1) u.2) c.2
    let r := s0.readUnits o fwd us
    (∀ u ∈ us, c.2.readable o.agent o.scope o.vault (o.addr + u.1) u.2 = true) → r.integ = none →
    ∃ u, exec (.loadDataReturn o.piece o.id fwd) s = .next u
      ∧ (∀ q, q ≠ BitVec.ofNat 5 o.rd → (u.pieceOf o.piece).reg q = (s.pieceOf o.piece).reg q)
      ∧ (∀ v a, u.byte v a = s0.byte v a)
      ∧ (r.pois = true ∨ unitsLeft o.size r.got = [] →
        (u.pieceOf o.piece).reg (BitVec.ofNat 5 o.rd) = extendLoad o.sext (gotAll o.size r.got)
        ∧ (u.pieceOf o.piece).busy (BitVec.ofNat 5 o.rd) = false
        ∧ (u.pieceOf o.piece).poisonOf (BitVec.ofNat 5 o.rd) = (if r.pois then some o.va else none)
        ∧ u.opOf o.id = none)
      ∧ (r.pois = false → unitsLeft o.size r.got ≠ [] →
        (u.pieceOf o.piece).busy (BitVec.ofNat 5 o.rd) = true ∧ ∃ w, u.opOf o.id = some w ∧ w.got = r.got)

/-- A read-modify-write of S performs in one step (R109, R184, R185): rd takes the old value, and memory takes the new one,
unless a compare failed; the operation is over. -/
def Sys2Proof.AtomicsPerformPart : Prop :=
  ∀ (s : State) (o : MemOp) (fwd : Bool), s.opOf o.id = some o → o.kind = .rmw → o.remote = none → o.turned = none →
    o.level ≠ 5 → o.agent = .thread o.piece →
    s.depsMet o.deps = true → s.contended o.vault o.addr o.size = false → o.fn ≤ 10 →
    o.rd < 32 → o.rd ≠ 0 → SMap.get none (s.pieceOf o.piece).pend o.rd = some o.id →
    let s0 := s.detect o.vault o.addr o.size
    let r := s0.view o.agent o.vault o.addr o.size false o.id
    r.integ = none → r.pois = false →
    let old := ofBytes r.data
    let new := amoResult o.fn (8 * o.size) old (ofBytes o.data) o.cmp
    let s1 := if o.fn = 10 ∧ old ≠ o.cmp.toNat % 2 ^ (8 * o.size) then s0
      else (s0.write o.vault o.addr (bytesOf o.size new)).getD s0
    ∃ u, exec (.loadDataReturn o.piece o.id fwd) s = .next u
      ∧ (u.pieceOf o.piece).reg (BitVec.ofNat 5 o.rd) = extendLoad o.sext r.data
      ∧ (u.pieceOf o.piece).busy (BitVec.ofNat 5 o.rd) = false
      ∧ (∀ q, q ≠ BitVec.ofNat 5 o.rd → (u.pieceOf o.piece).reg q = (s.pieceOf o.piece).reg q)
      ∧ u.opOf o.id = none
      ∧ (∀ v a, u.byte v a = s1.byte v a)

/-- A write performs (R95): at a narrower instance it takes its place in coherence order and is seen by the agents of that
instance, and no byte of memory has changed yet; at the system instance it reaches memory and is over. There a line that is
poisoned, or held as ciphertext, is written as one by the writes that fill it (R290, R368). -/
def Sys2Proof.WritesPerformPart : Prop :=
  ∀ (s t : State) (o : MemOp) (sc : BitVec 3), s.opOf o.id = some o → o.kind = .write → o.remote = none →
    s.depsMet o.deps = true → o.level < 5 → s.coherent o (Nat.min sc.toNat 4) = true → o.level ≤ Nat.min sc.toNat 4 →
    let line := if o.vault then o.line else o.line % 2 ^ 45
    let special := SMap.get false s.poison (lineKey o.vault line) || (!o.vault && s.prot line)
    let w := lineOfWrites (lineSize o.vault) o.line (s.mates o)
    let full := w.2 = 2 ^ lineSize o.vault - 1 ∧ ∀ m ∈ s.mates o, s.coherent m 4 = true
    let a := if o.vault then o.addr else o.addr % 2 ^ 45
    (4 ≤ sc.toNat → special = false ∨ (¬full ∧ s.filling o = false) →
      let s1 := if o.data.length = lineSize o.vault then s.dropOp o.id else (s.dropOp o.id).detect o.vault a o.data.length
      s1.write o.vault a o.data = some t → exec (.memoryWritePerform o.id sc) s = .next t)
    ∧ (4 ≤ sc.toNat → special = true → full →
      ((s.mates o).foldl (fun x m => x.dropOp m.id) s).write o.vault line w.1 = some t →
      exec (.memoryWritePerform o.id sc) s = .next t)
    ∧ (4 ≤ sc.toNat → special = true → ¬full → s.filling o = true → exec (.memoryWritePerform o.id sc) s = .next s)
    ∧ (sc.toNat < 4 → ∃ u, exec (.memoryWritePerform o.id sc) s = .next u
      ∧ (∃ w ∈ u.ops, w = { o with level := sc.toNat + 1 })
      ∧ (∀ w, w.id ≠ o.id → (w ∈ u.ops ↔ w ∈ s.ops))
      ∧ u = { s with ops := u.ops })

/-- A write of bytes to lines that are not PROT changes exactly those bytes (R64, R368): every other byte reads as
before. -/
def Sys2Proof.WriteChangesItsBytesPart : Prop :=
  ∀ (s : State) (v : Bool) (a : Nat) (d : List Byte),
    (v = true ∨ ∀ l ∈ linesOf false a d.length, s.prot l = false) →
    ∃ u, s.write v a d = some u
      ∧ (∀ i, i < d.length → u.byte v (a + i) = nth 0 d i)
      ∧ (∀ b, b < a ∨ a + d.length ≤ b → u.byte v b = s.byte v b)
      ∧ (∀ b, u.byte (!v) b = s.byte (!v) b)

/-- Looking up an address changes no register, queue, program counter or operation in flight of any unit, but counts of
the acting piece's event counters (R74, R201). -/
def Sys2Proof.LookupChangesOnlyEntriesPart : Prop :=
  ∀ (s : State) (adr : W64) (n : Nat) (a : Acc) (s1 : State) (v : Bool) (pa key : Nat) (pair : Option Nat)
    (face : Option (Nat × Nat)),
    s.sAddr adr n a = .ok s1 v pa key pair face →
    s1.focusP = s.focusP ∧ s1.ops = s.ops ∧ s1.opCount = s.opCount ∧ s1.scatters = s.scatters ∧ s1.barEvs = s.barEvs
      ∧ s1.invokes = s.invokes ∧ s1.time = s.time ∧ s1.vault = s.vault
      ∧ s1.piece.besidesWord = s.piece.besidesWord ∧ (∀ e, s1.piece.eng e = s.piece.eng e)
      ∧ s1.piece.tacks = s.piece.tacks ∧ s1.piece.pre = s.piece.pre
      ∧ ∀ p, p ≠ s.focusP → s1.pieceOf p = s.pieceOf p

end

namespace Sys2Proof.Machine

/-! ## Queue words -/

/-- Field (R179) of a token: a value lane sign-extended from bit 39, a coordinate lane, or the status. -/
def tokenField (k : Token) (sel : Nat) : W64 :=
  if sel < 16 then (k.lane sel).val.signExtend 64
  else if sel < 32 then (k.lane (sel - 16)).coord.setWidth 64
  else k.tag ++ (0 : BitVec 9) ++ k.level ++ BitVec.ofNat 4 k.kind.code ++ BitVec.ofNat 16 k.mask

/-- The read operations S waits for at its word. -/
def Piece.awaited (p : Piece) : List Nat := match p.await with
  | .load ids => ids
  | _ => []

/-- The half bytes that a queue store has to merge with bytes of another package: these it reads first (log 18, DEDUCED). -/
def farHalves (out : List StPlace) : List StPlace := out.filter fun x => x.1.half && x.2.2.2.2.isSome

/-- A queue store may hand out its writes: it is at its start with nothing to read first and room on its pairs, or the reads that
it waits for have all been answered and none was refused. -/
def StoreReady (s s1 : State) (out : List StPlace) : Prop :=
  (s.piece.await = .none ∧ farHalves out = [] ∧ s1.roomFor (out.filterMap (·.2.2.2.2)) = true)
    ∨ ∃ ids, s.piece.await = .load ids ∧ s1.answered ids = true ∧ s1.refused ids = none

/-- The control word of a queue word is one it accepts, for a number of lanes (R125, R176): a format other than ec8, and,
where single elements are named, not of 4 bits. -/
def CtlOk (c : QCtl) (single : Bool) : Prop := c.fmt < 10 ∧ (single = true → fmtBits c.fmt ≠ 4)

/-- The sixteen lanes of `s.qlds`, or the one of `s.qld1`, before their addresses are checked. -/
def laneStarts (r : W64) (c : QCtl) (single : Bool) : List QLane :=
  if single then [{ lane := 0, vault := false, addr := 0, hi := false, va := r }]
  else (List.range 16).map fun i =>
    { lane := i, vault := false, addr := 0, hi := false, va := r + BitVec.ofInt 64 (i * c.stride) }

/-- A queue load has entered queue `n`: an entry is reserved behind those there, and the load is recorded with its lanes. -/
structure QLoadEntered (s u : State) (id n fmt : Nat) (lanes : List QLane) : Prop where
  entry : u.piece.qOf n = s.piece.qOf n ++ [{ rid := id }]
  others : ∀ k, k ≠ n → u.piece.qOf k = s.piece.qOf k
  load : ∃ deps, u.piece.qloads = s.piece.qloads ++ [{ id := id, q := n, fmt := fmt, lanes := lanes, deps := deps
                                                       agent := .thread s.focusP, scope := s.piece.ordScope.scope }]
  regs : ∀ r, u.piece.reg r = s.piece.reg r ∧ u.piece.busy r = s.piece.busy r

/-- A queue load, and the lane addresses it is checked with: whole blocks with one check, single lanes each with theirs. -/
def queueLoadOf (t : BitVec 4) (q a b : BitVec 5) (k : Fin 3) : Instr :=
  match k with
  | 0 => .sQld t q a b
  | 1 => .sQld1 t q a b
  | 2 => .sQlds t q a b

/-! ## Versioned cells, fences and invocations -/

/-- The version of a cell exists (R182). -/
def VersionThere (c : Cell) (v : Word32) : Prop :=
  verD v c.newest = 0 ∨ (verD v c.newest = -1 ∧ 0 < verD v c.mark ∧ c.newest ≠ 0)

/-- A versioned word's address check passes on a local cell whose line is sound. -/
structure CellAt (s s1 : State) (adr : W64) (write : Bool) (pa : Nat) : Prop where
  check : ∃ s0 v key f, s.sAddr adr 32 { write := write, ver := true } = .ok s0 v pa key none f ∧ s1 = s0.detect false pa 32
  sound : (s1.read false pa 32).integ = none ∧ (s1.read false pa 32).pois = false
  free : s1.cellBusy pa = false

/-- The cell a versioned store makes (R182, R183): the value and stamp go to the slot that does not hold NEWEST. -/
def storedCell (c : Cell) (v : Word32) (x : W64) : Cell :=
  if c.s0 = c.newest then { c with v1 := x, s1 := v, newest := v } else { c with v0 := x, s0 := v, newest := v }

end Sys2Proof.Machine

section
open Sys2Proof Sys2Proof.Machine

/-- `s.qpop` and `s.qpeek` complete where their y queue holds a token and the selector names a field: ra takes the field
(R179), and only `s.qpop` takes the token from the queue. -/
def Sys2Proof.QueueReadsGiveTheFieldPart : Prop :=
  ∀ (s : State) (t : BitVec 4) (q a b : BitVec 5) (k : Token) (rest : List Token), CanS s t 0 [b] →
    s.piece.yOf q.toNat = k :: rest → (s.piece.reg b).toNat % 64 ≤ 32 →
    let v := tokenField k ((s.piece.reg b).toNat % 64)
    Completes (.sQpop t q a b) s 0 t (s.piece.s.pc + 4) ((s.piece.setY q.toNat rest).setReg a v) s
    ∧ Completes (.sQpeek t q a b) s 0 t (s.piece.s.pc + 4) (s.piece.setReg a v) s

/-- `s.qpsh`, `s.qhem`, `s.qcnt` and `s.qdisc` complete (R179, R181): pushes go to the end of a used q queue with room,
`s.qcnt` reads an occupancy that counts reserved entries (R28), `s.qdisc` removes every token and every entry that a queue load has
reserved, and gives their number; what is pushed in its own cycle stays, and so do the entries that streams have reserved. -/
def Sys2Proof.QueueChangesCompletePart : Prop :=
  ∀ (s : State) (t : BitVec 4) (q a l c : BitVec 5), CanS s t 0 [] →
    (s.qfmt q.toNat ≠ 0 → (s.piece.qOf q.toNat).length < 16 →
      (RegsReady s.piece [a] → Completes (.sQpsh t q a) s 0 t (s.piece.s.pc + 4)
        (s.piece.setQ q.toNat (s.piece.qOf q.toNat ++ [{ tok := some (dataTok [(s.piece.reg a).setWidth 40]), at_ := s.time + 1 }])) s)
      ∧ Completes (.sQhem t q l) s 0 t (s.piece.s.pc + 4)
        (s.piece.setQ q.toNat (s.piece.qOf q.toNat ++
          [{ tok := some { kind := .hem, level := l.setWidth 3, lanes := List.replicate 16 {} }, at_ := s.time + 1 }])) s)
    ∧ ((c = 0 → s.qfmt q.toNat ≠ 0) → c.toNat ≤ 2 →
      Completes (.sQcnt t q a c) s 0 t (s.piece.s.pc + 4)
        (s.piece.setReg a (BitVec.ofNat 64 (if c = 0 then (s.piece.qOf q.toNat).length
          else if c = 1 then (s.piece.yOf q.toNat).length else s.piece.bq.length))) s)
    ∧ (s.qfmt q.toNat ≠ 0 →
      let left := (s.piece.qOf q.toNat).filter fun e => if e.tok = none then e.strm else e.at_ = s.time + 1
      Completes (.sQdisc t q a 0) s 0 t (s.piece.s.pc + 4)
        ((s.piece.setQ q.toNat left).setReg a (BitVec.ofNat 64 ((s.piece.qOf q.toNat).length - left.length))) s)
    ∧ (let gone := (s.piece.yOf q.toNat).length - s.piece.pushesOf q.toNat
      Completes (.sQdisc t q a 1) s 0 t (s.piece.s.pc + 4)
        ((s.piece.setY q.toNat ((s.piece.yOf q.toNat).drop gone)).setReg a (BitVec.ofNat 64 gone)) s)

/-- The queue loads complete where their queue has room and their addresses pass their checks (R176, R177): an entry is
reserved, and the load is recorded with the places its lanes are to be read from. A queue load with remote lanes sends their reads
at once, and may hold S at its word until they are answered (log 17, DESIGN CHOICE). -/
def Sys2Proof.QueueLoadsReserveTheirEntryPart : Prop :=
  ∀ (s s1 : State) (t : BitVec 4) (q a b : BitVec 5) (k : Fin 3) (lanes : List QLane) (rem : List (Nat × Nat × Nat × W64)),
    let c := qctl (s.piece.reg b)
    let n := q.toNat
    let r := s.piece.reg a
    let width := fmtBits c.fmt
    CanS s t 2 [a, b] → s.qfmt n = 1 ∨ s.qfmt n = 3 → CtlOk c (k ≠ 0) → (s.piece.qOf n).length < 16 → Fresh s →
    (∀ m ≤ 16, (s.begun 0 t).knotFull s.piece.ordScope.kt m = false) →
    (if k = 0 then State.qCheck (2 * width) 0 [{ lane := 0, vault := false, addr := 0, hi := false, va := r }] (s.begun 0 t)
      else State.qCheck (if width = 4 then 1 else width / 8) c.swz (laneStarts r c (k = 1)) (s.begun 0 t)) = .ok s1 lanes rem →
    (k = 0 ∨ s1.roomFor (rem.map (·.1)) = true) →
    ∃ u id got, exec (queueLoadOf t q a b k) s = .next u
      ∧ QLoadEntered s u id n c.fmt got
      ∧ (WordDone s u 0 t (s.piece.s.pc + 4)
        ∨ (rem ≠ [] ∧ u.piece.await = .qload id ∧ u.piece.s.pc = s.piece.s.pc))
      ∧ (∀ v x, u.byte v x = s1.byte v x)
      ∧ (rem = [] → WordDone s u 0 t (s.piece.s.pc + 4))
      ∧ (rem = [] → k = 0 → ∀ x, lanes = [x] → x.turned = none →
          got = (List.range 16).map fun i =>
            { lane := i, vault := x.vault, va := r + BitVec.ofNat 64 (i * width / 8), key := x.key
              addr := if x.vault then swizzle c.swz (x.addr + i * width / 8) else x.addr + i * width / 8
              hi := width == 4 && i % 2 == 1 })
      ∧ (rem = [] → k ≠ 0 → (∀ x ∈ lanes, x.turned = none) → got = lanes)

/-- A queue load that S waits for completes once its remote reads are answered (R365); where one was refused, the word traps, and
the entry and the load are gone. -/
def Sys2Proof.AnsweredQueueLoadsCompletePart : Prop :=
  ∀ (s : State) (t : BitVec 4) (q a b : BitVec 5) (k : Fin 3) (l : QLoad), CanS s t 2 [a, b] → s.qfmt q.toNat ≠ 0 →
    s.piece.await = .qload l.id →
    let ids := l.lanes.filterMap (·.op)
    (s.piece.qloads.find? (fun x => x.id == l.id) = none →
      Completes (queueLoadOf t q a b k) s 0 t (s.piece.s.pc + 4) { s.piece with await := .none } s)
    ∧ (s.piece.qloads.find? (fun x => x.id == l.id) = some l → (s.begun 0 t).answered ids = true →
      ((s.begun 0 t).refused ids = none →
        Completes (queueLoadOf t q a b k) s 0 t (s.piece.s.pc + 4) { s.piece with await := .none } s)
      ∧ (∀ c v x, (s.begun 0 t).refused ids = some (c, v, x) →
        exec (queueLoadOf t q a b k) s =
          .next ((((s.begun 0 t).dropReads ids).modPiece (·.dropQload l.id)).wordTrap 0 t c v x)))

/-- The reads of a queue load return (R28, R96, R177): once every lane has its data its entry holds a data token whose lanes are
the elements read, widened (R126), marked where a line was poisoned; the load is over and no other queue, no register and no byte of
memory has changed. -/
def Sys2Proof.QueueLoadsDeliverPart : Prop :=
  ∀ (s : State) (p : Nat) (l : QLoad), (s.pieceOf p).qloads.find? (fun x => x.id == l.id) = some l → l.failed = false →
    s.depsMet l.deps = true → (∀ x ∈ l.lanes, x.op = none ∧ x.turned = none ∧ x.got = none) → s.choose.1 < 2 →
    (∀ x ∈ l.lanes, s.choose.2.readable l.agent l.scope x.vault x.addr (elemBytes l.fmt) = true) →
    let s0 := l.lanes.foldl (fun s x => s.detect x.vault x.addr (elemBytes l.fmt)) s.choose.2
    let r := s0.readLanes l (s.choose.1 == 0) (l.lanes.map fun x => x.va.toNat / 4).eraseDups l.lanes
    r.2.2 = none →
    ∃ u, exec (.queueLoadDeliver p l.id) s = .next u
      ∧ (∀ n, (u.pieceOf p).qOf n = if n = l.q then ((s.pieceOf p).qOf n).map (fun x =>
            if x.rid = l.id ∧ x.tok = none then
              { rid := 0, pois := l.pois || r.2.1
                tok := some (qloadToken (r.1.map fun x => (x.lane, widen l.fmt (laneElem l.fmt x.hi (x.got.getD []))))) }
            else x)
          else (s.pieceOf p).qOf n)
      ∧ (u.pieceOf p).qloads.map (·.id) = ((s.pieceOf p).qloads.map (·.id)).filter (fun i => i != l.id)
      ∧ (u.pieceOf p).regs = (s.pieceOf p).regs
      ∧ (∀ v a, u.byte v a = s0.byte v a)

/-- The queue stores complete (R178): the head token is popped and a data, sparse or control token's valid lanes are
handed over as writes of their narrowed elements (R127), whose flags go to FPFLAGS.CONVERT (bits 8 to 11, R122); a hem,
turn or kset token writes nothing. -/
def Sys2Proof.QueueStoresPopAndWritePart : Prop :=
  ∀ (s s1 : State) (t : BitVec 4) (y a b : BitVec 5) (single : Bool) (k : Token) (rest : List Token) (out : List StPlace),
    let c := qctl (s.piece.reg b)
    let n := if single then 1 else 16
    let data := k.kind = .data ∨ k.kind = .sparse ∨ k.kind = .control
    let ls := if data then stLanes (s.piece.reg a) c.fmt k n else []
    CanS s t 2 [a, b] → CtlOk c single → s.piece.yOf y.toNat = k :: rest → ¬(k.kind = .sparse ∧ fmtBits c.fmt = 4) →
    (s.piece.reg a).toNat % (if single then elemBytes c.fmt else 2 * fmtBits c.fmt) = 0 →
    (s.begun 0 t).knotFull s.piece.ordScope.kt ls.length = false →
    State.stCheck (elemBytes c.fmt) c.swz ls (s.begun 0 t) = .ok s1 out → StoreReady s s1 out →
    ∃ u, exec (if single then .sQst1 t y a b else .sQst t y a b) s = .next u
      ∧ WordDone s u 0 t (s.piece.s.pc + 4)
      ∧ u.piece.await = .none
      ∧ (∀ m, u.piece.yOf m = if m = y.toNat then rest else s.piece.yOf m)
      ∧ u.piece.sys.fpflags = s.piece.sys.fpflags |||
          (if data then (stFlags c.fmt k n).setWidth 64 <<< 8 else 0)
      ∧ (∀ r, u.piece.reg r = s.piece.reg r)
      ∧ (ls = [] → u.ops = s.ops.filter fun o => !s.piece.awaited.contains o.id)
      ∧ (∀ l ∈ ls, ∃ o ∈ u.ops, s1.opCount ≤ o.id ∧ o.kind = .write ∧ o.agent = .thread s.focusP ∧ o.va = l.va
          ∧ (l.half = false → o.data = bytesOf (elemBytes c.fmt) l.v))
      ∧ (∀ v x, u.byte v x = s1.byte v x)

/-- The versioned words complete (R111, R182, R183): `s.vld` writes rd where its version exists; `s.vst` of the version
after NEWEST, once all that it releases has performed, stores and wakes the loads parked for it, or waits in the bank element for a
reclaim; `s.vrc` of a version before NEWEST hands over its reclaim. A version that is gone, or a store or reclaim out of turn, traps
with the cell's marks in TLOC. -/
def Sys2Proof.VersionedWordsCompletePart : Prop :=
  ∀ (s s1 : State) (t : BitVec 4) (d a b : BitVec 5) (pa : Nat), CanS s t 2 [a, b] → Fresh s →
    let ver (r : BitVec 5) : Word32 := (s.piece.reg r).setWidth 32
    let c := cellOf (s1.read false pa 32).data
    let skew (i : Instr) (code : Nat) := exec i s = .next (s1.wordTrap 0 t code (s.piece.reg a)
      (BitVec.ofNat 64 (c.newest.toNat + c.mark.toNat * 2 ^ 32)))
    let same (u : State) := ∀ r, u.piece.reg r = s.piece.reg r
    let handed (u : State) (fn v : Nat) := ∃ o, u.ops = s.ops ++ [o] ∧ o.kind = .vstore ∧ o.addr = pa ∧ o.fn = fn ∧ o.cmp.toNat = v
      ∧ (fn = 0 → o.data = bytesOf 8 (s.piece.reg b).toNat) ∧ ∀ v x, u.byte v x = s1.byte v x
    (CellAt (s.begun 0 t) s1 (s.piece.reg a) false pa → s1.depsMet (s1.sDeps (s1.piece.ordAs 1) 0 false) = true →
      (VersionThere c (ver b) → ∃ u, exec (.sVld t d a b) s = .next u ∧ WordDone s.noted u 0 t (s.piece.s.pc + 4)
        ∧ u.piece.reg d = (if d = 0 then 0 else c.value (ver b))
        ∧ (∀ r, r ≠ d → u.piece.reg r = s.piece.reg r) ∧ (∀ v x, u.byte v x = s1.byte v x))
      ∧ (¬VersionThere c (ver b) → ¬0 < verD (ver b) c.newest → skew (.sVld t d a b) 0x0A))
    ∧ (CellAt (s.begun 0 t) s1 (s.piece.reg a) true pa → RegsReady s.piece [d] →
      s1.depsMet (s1.sDeps (s1.piece.ordAs 2) 0 true) = true →
      (ver d = c.newest + 1 → ¬(c.newest ≠ 0 ∧ 0 < verD (c.newest - 1) c.mark) →
        ∃ u, exec (.sVst t d a b) s = .next u ∧ WordDone s u 0 t (s.piece.s.pc + 4) ∧ same u ∧ u.ops = s.ops
        ∧ (∀ w x, u.byte w x = ((s1.write false pa (storedCell c (ver d) (s.piece.reg b)).bytes).getD s1).byte w x)
        ∧ (∀ p k, p ≠ s.focusP → (s.pieceOf p).await = .vld k pa (ver d) → (u.pieceOf p).await = .result (s.piece.reg b)))
      ∧ (ver d = c.newest + 1 → c.newest ≠ 0 → 0 < verD (c.newest - 1) c.mark → s1.knotFull s.piece.ordScope.kt 1 = false →
        ∃ u, exec (.sVst t d a b) s = .next u ∧ WordDone s u 0 t (s.piece.s.pc + 4) ∧ same u ∧ handed u 0 (ver d).toNat)
      ∧ (ver d ≠ c.newest + 1 → skew (.sVst t d a b) 0x09))
    ∧ (CellAt (s.begun 0 t) s1 (s.piece.reg a) true pa →
      (verD (ver b) c.newest < 0 → s1.knotFull s.piece.ordScope.kt 1 = false →
        ∃ u, exec (.sVrc t a b) s = .next u ∧ WordDone s u 0 t (s.piece.s.pc + 4) ∧ same u ∧ handed u 1 (ver b).toNat)
      ∧ (0 ≤ verD (ver b) c.newest → skew (.sVrc t a b) 0x09))

/-- The bank element applies a versioned store or reclaim (R183): the cell becomes what R183 says, unless the store waits
for a reclaim, and the loads parked for the version created are answered. -/
def Sys2Proof.CellsAreAppliedPart : Prop :=
  ∀ (s : State) (o : MemOp) (sc : BitVec 3), s.opOf o.id = some o → o.kind = .vstore → o.remote = none →
    s.depsMet o.deps = true →
    let c := s.cell o.addr
    let v : Word32 := o.cmp.setWidth 32
    let x := BitVec.ofNat 64 (ofBytes o.data)
    (o.fn = 0 → ¬(c.newest ≠ 0 ∧ 0 < verD (c.newest - 1) c.mark) → ∃ u, exec (.memoryWritePerform o.id sc) s = .next u
      ∧ u.opOf o.id = none
      ∧ (∀ w a, u.byte w a = ((s.write false o.addr (storedCell c v x).bytes).getD s).byte w a)
      ∧ (∀ p k, (s.pieceOf p).await = .vld k o.addr v → (u.pieceOf p).await = .result x)
      ∧ (∀ p, (∀ k, (s.pieceOf p).await ≠ .vld k o.addr v) → u.pieceOf p = s.pieceOf p))
    ∧ (o.fn = 0 → c.newest ≠ 0 → 0 < verD (c.newest - 1) c.mark → exec (.memoryWritePerform o.id sc) s = .next s)
    ∧ (o.fn = 1 → ∃ u, exec (.memoryWritePerform o.id sc) s = .next u
      ∧ u.opOf o.id = none
      ∧ (∀ w a, u.byte w a = ((s.write false o.addr
          (if 0 < verD v c.mark then { c with mark := v } else c).bytes).getD s).byte w a)
      ∧ (∀ p, u.pieceOf p = s.pieceOf p))

end

namespace Sys2Proof.Machine

/-! ## Control -/

/-- Whether a branch with a condition code is taken on a value (R188). -/
def condHolds (c : Nat) (v : W64) : Bool :=
  match c with
  | 0 => true
  | 1 => decide (v.toInt = 0)
  | 2 => decide (v.toInt ≠ 0)
  | 3 => decide (v.toInt < 0)
  | 4 => decide (0 ≤ v.toInt)
  | 5 => decide (0 < v.toInt)
  | _ => decide (v.toInt ≤ 0)

/-- The branches of major 0x20 with their condition codes (R188). -/
def branchRows (t : BitVec 4) (f : BitVec 1) (a : BitVec 5) (d : BitVec 11) : List (Instr × Nat) :=
  [(.sB t f d, 0), (.sBeqz t f a d, 1), (.sBnez t f a d, 2), (.sBltz t f a d, 3), (.sBgez t f a d, 4), (.sBgtz t f a d, 5),
   (.sBlez t f a d, 6)]

/-- The branches of major 0x21, on the value popped from bq. -/
def bqbRows (t : BitVec 4) (f : BitVec 1) (a : BitVec 5) (d : BitVec 11) : List (Instr × Nat) :=
  [(.sBqb t f a d, 0), (.sBqbEqz t f a d, 1), (.sBqbNez t f a d, 2), (.sBqbLtz t f a d, 3), (.sBqbGez t f a d, 4),
   (.sBqbGtz t f a d, 5), (.sBqbLez t f a d, 6)]

/-- A fanned branch has pushed its outcome into the three steer queues and nothing else changed but a popped value's mark
(R19, R188). -/
structure Steered (s u : State) (taken : Bool) : Prop where
  queues : ∀ e, e = 1 ∨ e = 2 ∨ e = 3 → u.piece.steerQ e = s.piece.steerQ e ++ [taken]
  only : OnlyPiece s u
  mark : ∀ v, (s.piece.s.pc, v) ∉ u.piece.popped

/-- A piece without its steer queues and its marks of popped values. -/
def Piece.besidesSteer (p : Piece) : Piece := { p with steers := [], popped := [] }

/-- The conditions under which control words that end in a trap of S take it: no handler runs. -/
def NoHandler (s : State) : Prop := s.piece.active = false

/-- From the piece `p`, S has entered the handler (R342): the cause is saved with the pcs of the four engines, TVAL and
TLOC, the level of the thread in TSTAT with ACTIVE, and S goes on at TVEC, at SUPER unless it was ROOT; its registers,
knots and queues, and the other engines, are as they were, but for the entry that an abandoned queue load had reserved (R165). -/
structure Entered (p q : Piece) (cause val loc pcs : W64) : Prop where
  cause : q.sys.tcause = cause
  pcs : q.sys.tpcs = pcs
  pcc : q.sys.tpcc = p.c.pc
  pcm : q.sys.tpcm = p.m.pc
  pcf : q.sys.tpcf = p.f.pc
  val : q.sys.tval = val
  loc : q.sys.tloc = loc
  stat : q.sys.tstat.toNat = p.level + 4
  level : q.level = (if p.level = 0 then 1 else p.level)
  pc : q.s.pc = p.sys.tvec
  clear : q.pre = .none ∧ q.await = .none ∧ q.s.issued = false
  regs : q.regs = p.regs ∧ q.pend = p.pend ∧ q.pois = p.pois
  engines : q.c = p.c ∧ q.m = p.m ∧ q.f = p.f
  queues : q.q = p.dropAwait.q ∧ q.y = p.y ∧ q.bq = p.bq ∧ q.knots = p.knots

/-- The system registers a thread reads with their values, those that are not composed of several fields of the machine
(R150). -/
def sysRows (p : Piece) : List (Nat × W64) :=
  [(0x10, p.sys.slip), (0x11, p.sys.qtrap), (0x12, p.sys.lodc), (0x13, p.sys.lodlim), (0x14, p.sys.lodev),
   (0x15, BitVec.ofNat 64 p.level), (0x16, p.sys.sem), (0x17, p.sys.fpflags), (0x20, p.sys.troot),
   (0x22, SMap.get 0 p.sys.vwin 0), (0x23, SMap.get 0 p.sys.vwin 1), (0x24, SMap.get 0 p.sys.vwin 2),
   (0x25, SMap.get 0 p.sys.vwin 3), (0x26, p.sys.stack), (0x30, p.sys.tcause), (0x31, p.sys.tpcs), (0x32, p.sys.tpcc),
   (0x33, p.sys.tpcm), (0x34, p.sys.tpcf), (0x35, p.sys.tval), (0x36, p.sys.tvec), (0x37, p.sys.tloc), (0x40, p.sys.wdog)]

/-- The ones from bit `lo` to bit `hi`. -/
def bitRange (hi lo : Nat) : W64 := BitVec.ofNat 64 (2 ^ (hi + 1) - 2 ^ lo)

/-- The system registers a thread writes, with the bits they hold and whether they take a value (R22, R29, R31, R69, R72,
R79, R91, R273, R339, R340). -/
def sysMasks (p : Piece) (v : W64) : List (Nat × W64 × Bool) :=
  let w := bitRange 1 0 ||| bitRange 41 16
  let fits := decide ((v.extractLsb' 16 10).toNat + (v.extractLsb' 31 11).toNat ≤ 1024)
  [(0x10, bitRange 6 0, decide (1 ≤ (v.extractLsb' 0 7).toNat ∧ (v.extractLsb' 0 7).toNat ≤ 64)),
   (0x11, bitRange 51 0, true), (0x12, bitRange 31 0, true), (0x13, bitRange 31 0, true), (0x14, bitRange 63 0, true),
   (0x16, bitRange 4 0, decide ((v.extractLsb' 2 3).toNat ≤ 4)), (0x20, bitRange 15 0 ||| bitRange 55 21, true),
   (0x22, w, fits), (0x23, w, fits), (0x24, w, fits), (0x25, w, fits),
   (0x26, bitRange 15 0, decide ((v.extractLsb' 0 16).toNat ≤ p.vunits * 16)), (0x31, bitRange 63 0, true),
   (0x36, bitRange 63 0, decide (v.toNat % 4 = 0)),
   (0x40, bitRange 39 0, decide ((v.extractLsb' 0 40).toNat = 0 ∨ 1024 ≤ (v.extractLsb' 0 40).toNat))]

/-- A nest-table level with a field written, where the value is one the field takes (R148, R191, R228). -/
inductive LevelPut (l : Level) : Nat → W64 → Level → Prop where
  | count (v : W64) : 1 ≤ v.toNat → v.toNat ≤ 65536 → LevelPut l 0 v { l with count := v.toNat }
  | astr (v : W64) : v.toNat < 2 → LevelPut l 1 v { l with astr := v = 1 }
  | bstr (v : W64) : v.toNat < 2 → LevelPut l 2 v { l with bstr := v = 1 }
  | cstr (v : W64) : -512 ≤ v.toInt → v.toInt ≤ 511 → LevelPut l 3 v { l with cstr := v.toInt }
  | endA (v : W64) : v.toNat < 16 → LevelPut l 4 v { l with endA := v.toNat }

end Sys2Proof.Machine

section
open Sys2Proof Sys2Proof.Machine

/-- `s.fence`, `s.kwait` and `s.kclr` complete (R99, R101, R186). After an acquire fence every later operation of the
thread is ordered after the thread's reads that have not performed; after a release fence every later write, and after
an `ar` fence every later operation, is ordered after all its operations that have not performed at the fence's scope.
`s.kwait` completes where its knot is empty, and S stays at it otherwise; `s.kclr` empties its knot. -/
def Obligations.FencesAndKnotsComplete : Prop :=
  ∀ (s : State) (t : BitVec 4) (o : BitVec 2) (sc : BitVec 3) (k : BitVec 5), CanS s t 0 [] →
    (o ≠ 0 → ∃ u, exec (.sFence t o sc) s = .next u ∧ WordDone s u 0 t (s.piece.s.pc + 4) ∧ OnlyPiece s u
      ∧ { u.piece with fenceR := [], fenceW := [] }.besidesWord = { s.piece with fenceR := [], fenceW := [] }.besidesWord
      ∧ (∀ os kw w, ∀ id ∈ s.threadReads, o = 1 → (s.begun 0 t).opDone id 7 = false → ∃ d ∈ u.sDeps os kw w, d.op = id)
      ∧ (∀ os kw, ∀ id ∈ s.threadOps ++ s.piece.seen, o = 2 → (s.begun 0 t).opDone id sc.toNat = false →
          { op := id, scope := sc.toNat, cum := true } ∈ u.sDeps os kw true)
      ∧ (∀ os kw w, ∀ id ∈ s.threadOps ++ s.piece.seen, o = 3 → (s.begun 0 t).opDone id sc.toNat = false →
          { op := id, scope := sc.toNat, cum := true } ∈ u.sDeps os kw w))
    ∧ ((s.begun 0 t).knot k.toNat = [] → Completes (.sKwait t k) s 0 t (s.piece.s.pc + 4) s.piece s)
    ∧ ((s.begun 0 t).knot k.toNat ≠ [] → exec (.sKwait t k) s = .next (s.begun 0 t))
    ∧ Completes (.sKclr t k) s 0 t (s.piece.s.pc + 4) { s.piece with knots := s.piece.knots.erase k.toNat } s

/-- A word that has waited for an answer completes with it (R183, R187, R196, R200): rd takes the answer. -/
def Sys2Proof.AnsweredWordsWriteTheirResultPart : Prop :=
  ∀ (s : State) (t : BitVec 4) (d a b i : BitVec 5) (v : W64), s.piece.await = .result v →
    ∀ r ∈ [(Instr.sVld t d a b, 2, [a, b]), (.sRinv t d a b i, 2, [a, b]), (.sWfn t d a b, 0, [a, b]), (.sTurn t d a, 2, [a])],
      CanS s t r.2.1 r.2.2 →
      ∃ u, exec r.1 s = .next u ∧ WordDone s.noted u 0 t (s.piece.s.pc + 4) ∧ u.piece.await = .none
        ∧ u.piece.reg d = (if d = 0 then 0 else v) ∧ (∀ q, q ≠ d → u.piece.reg q = s.piece.reg q)
        ∧ u.piece.sys.besidesCounts = s.piece.sys.besidesCounts
        ∧ (∀ w x, u.byte w x = s.byte w x)

/-- `s.rinv` sends its invocation to the bank element of a vault address, or of a DRAM address of this package, and waits
(R116, R187); a result then completes it (`AnsweredWordsWriteTheirResultPart`), a failed invocation traps at it. -/
def Sys2Proof.InvocationsAreSentPart : Prop :=
  ∀ (s s1 : State) (t : BitVec 4) (d a b i : BitVec 5) (v : Bool) (pa key n : Nat) (f : Option (Nat × Nat)),
    CanS s t 2 [a, b] →
    (Fresh s → (s.begun 0 t).sAddr (s.piece.reg a) 8 { write := true, host := false } = .ok s1 v pa key none f →
      (v = true ∨ pa % 2 ^ 45 < 2 ^ 40) → s1.depsMet (s1.sDeps s.piece.ordScope 0 true) = true →
      ∃ u, exec (.sRinv t d a b i) s = .next u ∧ u.piece.await = .invoke s1.opCount
        ∧ u.invokes = s.invokes ++ [{ id := s1.opCount, piece := s.focusP, pair := none, vault := v, addr := pa
                                      operand := s.piece.reg b, fn := i.toNat, va := s.piece.reg a }]
        ∧ u.piece.s.pc = s.piece.s.pc ∧ u.piece.regs = s.piece.regs ∧ (∀ w x, u.byte w x = s1.byte w x))
    ∧ (Fresh s → (s.begun 0 t).sAddr (s.piece.reg a) 8 { write := true, host := false } = .ok s1 false pa key (some n) f →
      pa % 2 ^ 45 < 2 ^ 40 → s1.depsMet (s1.sDeps s.piece.ordScope 0 true) = true →
      ∃ u o, exec (.sRinv t d a b i) s = .next u ∧ u.piece.await = .invoke s1.opCount
        ∧ u.ops = s.ops ++ [o] ∧ o.id = s1.opCount ∧ o.kind = .rmw ∧ o.addr = pa ∧ o.remote = some n ∧ o.fn = 32 + i.toNat
        ∧ o.data = bytesOf 8 (s.piece.reg b).toNat
        ∧ u.piece.s.pc = s.piece.s.pc ∧ u.piece.regs = s.piece.regs ∧ (∀ w x, u.byte w x = s1.byte w x))
    ∧ (∀ c l, s.piece.await = .failed c l →
      exec (.sRinv t d a b i) s = .next ((s.begun 0 t).unwait.wordTrap 0 t c (s.piece.reg a) l))

/-- The branches that do not fan complete (R20, R188): an untaken one goes on at the next word, a taken one whose span
holds S words alone goes on at its target, and a C, M or F word in the span raises ILLEGAL with its address. -/
def Sys2Proof.PlainBranchesTransferPart : Prop :=
  ∀ (s s1 : State) (t : BitVec 4) (a : BitVec 5) (d : BitVec 11), CanS s t 0 [a] →
    let target := s.piece.s.pc + 4 * d.signExtend 64
    ∀ r ∈ branchRows t 0 a d,
      (condHolds r.2 (s.piece.reg a) = false → Completes r.1 s 0 t (s.piece.s.pc + 4) s.piece s)
      ∧ (condHolds r.2 (s.piece.reg a) = true →
        ((s.begun 0 t).checkSpan s.piece.s.pc target = .clear s1 → Completes r.1 s 0 t target s1.piece s1)
        ∧ (∀ x, (s.begun 0 t).checkSpan s.piece.s.pc target = .engine s1 x →
            exec r.1 s = .next (s1.wordTrap 0 t 0x01 x 0)))

/-- The fanned branches complete below the slip bound (R19, R21, R188): the outcome enters the three steer queues, and S
goes on at the target or the next word without a span check; at the bound S stays at the branch. -/
def Sys2Proof.FannedBranchesSteerPart : Prop :=
  ∀ (s : State) (t : BitVec 4) (a : BitVec 5) (d : BitVec 11), CanS s t 0 [a] →
    ∀ r ∈ branchRows t 1 a d,
      let taken := condHolds r.2 (s.piece.reg a)
      (s.piece.slip < s.piece.sys.slip.toNat → ∃ u, exec r.1 s = .next u
        ∧ WordDone s u 0 t (if taken then s.piece.s.pc + 4 * d.signExtend 64 else s.piece.s.pc + 4)
        ∧ Steered s u taken ∧ u.piece.besidesSteer.besidesWord = s.piece.besidesSteer.besidesWord)
      ∧ (s.piece.sys.slip.toNat ≤ s.piece.slip → ∃ u, exec r.1 s = .next u
        ∧ u.piece.s.pc = s.piece.s.pc ∧ u.piece.steers = s.piece.steers ∧ u.piece.regs = s.piece.regs)

/-- The branches on bq complete (R188): the popped value goes to ra, and the branch is then as one on ra. A fanned one
keeps its pop while it waits for slip, and on return does not pop again. -/
def Sys2Proof.BqBranchesPopPart : Prop :=
  ∀ (s s1 : State) (t : BitVec 4) (a : BitVec 5) (d : BitVec 11) (v : W64) (rest : List W64), CanS s t 0 [] →
    let target := s.piece.s.pc + 4 * d.signExtend 64
    let popped (p : Piece) : Piece := { p.setReg a v with bq := rest }
    (s.piece.popped.find? (fun x => x.1 == s.piece.s.pc) = none → s.piece.bq = v :: rest →
      (∀ r ∈ bqbRows t 0 a d,
        (condHolds r.2 v = false → Completes r.1 s 0 t (s.piece.s.pc + 4) (popped s.piece) s)
        ∧ (condHolds r.2 v = true → (s.begun 0 t).checkSpan s.piece.s.pc target = .clear s1 →
            Completes r.1 s 0 t target (popped s1.piece) s1))
      ∧ (∀ r ∈ bqbRows t 1 a d,
        (s.piece.slip < s.piece.sys.slip.toNat → ∃ u, exec r.1 s = .next u
          ∧ WordDone s u 0 t (if condHolds r.2 v then target else s.piece.s.pc + 4)
          ∧ Steered s u (condHolds r.2 v)
          ∧ u.piece.besidesSteer.besidesWord = (popped s.piece).besidesSteer.besidesWord)
        ∧ (s.piece.sys.slip.toNat ≤ s.piece.slip → ∃ u, exec r.1 s = .next u
          ∧ u.piece.s.pc = s.piece.s.pc ∧ u.piece.bq = rest ∧ u.piece.reg a = (if a = 0 then 0 else v)
          ∧ u.piece.popped = s.piece.popped ++ [(s.piece.s.pc, v)])))
    ∧ (s.piece.popped.find? (fun x => x.1 == s.piece.s.pc) = some (s.piece.s.pc, v) →
      s.piece.slip < s.piece.sys.slip.toNat → ∀ r ∈ bqbRows t 1 a d, ∃ u, exec r.1 s = .next u
        ∧ WordDone s u 0 t (if condHolds r.2 v then target else s.piece.s.pc + 4)
        ∧ Steered s u (condHolds r.2 v) ∧ u.piece.besidesSteer.besidesWord = s.piece.besidesSteer.besidesWord)

/-- `s.jal` and `s.jalr` complete where their span holds S words alone (R189): rd takes the address of the next word and S
goes on at the target; for `s.jalr`, ra is read before rd is written, and a target that is not aligned raises MISALIGN. -/
def Sys2Proof.JumpsLinkPart : Prop :=
  ∀ (s s1 : State) (t : BitVec 4) (d a : BitVec 5) (i : BitVec 15) (j : BitVec 10),
    (CanS s t 0 [] → (s.begun 0 t).checkSpan s.piece.s.pc (s.piece.s.pc + 4 * i.signExtend 64) = .clear s1 →
      Completes (.sJal t d i) s 0 t (s.piece.s.pc + 4 * i.signExtend 64) (s1.piece.setReg d (s.piece.s.pc + 4)) s1)
    ∧ (CanS s t 1 [a] →
      let target := s.piece.reg a + immS s.piece j
      (target.toNat % 4 = 0 → (s.begun 0 t).checkSpan s.piece.s.pc target = .clear s1 →
        Completes (.sJalr t d a j) s 0 t target (s1.piece.setReg d (s.piece.s.pc + 4)) s1)
      ∧ (target.toNat % 4 ≠ 0 → exec (.sJalr t d a j) s = .next ((s.begun 0 t).wordTrap 0 t 0x03 target 0)))

/-- `s.sdw`, `s.mtw` and `s.inj` complete (R190, R191, R192, R202, R203, R228): a descriptor field or a level of the nest
table's lining takes a value it can hold, and a control token of lane 0 alone enters the control network toward a port
with room. -/
def Sys2Proof.DescriptorTableAndControlWritesPart : Prop :=
  ∀ (s : State) (t : BitVec 4) (n : BitVec 4) (f : BitVec 6) (l g : BitVec 3) (a : BitVec 5) (x y : BitVec 4) (p : BitVec 6),
    CanS s t 0 [a] →
    (∀ w, sdwValue f.toNat (s.piece.reg a) = some w → Completes (.sSdw t n f a) s 0 t (s.piece.s.pc + 4)
      { s.piece with sd := SMap.set [] s.piece.sd n.toNat (SMap.set 0 (SMap.get [] s.piece.sd n.toNat) f.toNat w) } s)
    ∧ (sdwValue f.toNat (s.piece.reg a) = none →
      exec (.sSdw t n f a) s = .next ((s.begun 0 t).wordTrap 0 t 0x01 (s.piece.reg a) 0))
    ∧ (∀ w, LevelPut (SMap.get {} s.piece.mx.mtLin l.toNat) g.toNat (s.piece.reg a) w →
      Completes (.sMtw t l g a) s 0 t (s.piece.s.pc + 4)
        { s.piece with mx := { s.piece.mx with
            mtLin := SMap.set {} s.piece.mx.mtLin l.toNat w
            mtwLast := some (l.toNat, g.toNat, s.piece.reg a, SMap.get {} s.piece.mx.mtLin l.toNat) } } s)
    ∧ (x.toNat < s.piece.blk.side → y.toNat < s.piece.blk.side → p.toNat = 8 ∨ (18 ≤ p.toNat ∧ p.toNat ≤ 21) →
      s.piece.blk.ctlCount (16 * y.toNat + x.toNat) p.toNat < 4 →
      Completes (.sInj t a x y p) s 0 t (s.piece.s.pc + 4)
        { s.piece with blk := { s.piece.blk with ctlNet := s.piece.blk.ctlNet ++ [(16 * y.toNat + x.toNat, p.toNat,
          { dataTok [(s.piece.reg a).setWidth 40] with kind := .control })] } } s)

/-- A control token of the network reaches the buffer of its port (R192): the first in order whose element is awake. -/
def Sys2Proof.ControlTokensArrivePart : Prop :=
  ∀ (s : State) (p e c : Nat) (k : Token) (rest : List (Nat × Nat × Token)), (s.pieceOf p).live = true →
    (s.pieceOf p).abort = none → (s.pieceOf p).blk.ctlNet = (e, c, k) :: rest → ((s.pieceOf p).elem e).gate = 0 →
    ∃ u, exec (.controlTokenArrive p) s = .next u
      ∧ SMap.get [] ((u.pieceOf p).elem e).ctlb c = SMap.get [] ((s.pieceOf p).elem e).ctlb c ++ [{ tok := k, avail := s.time }]
      ∧ (u.pieceOf p).blk.ctlNet = rest
      ∧ (∀ i, i ≠ e → (u.pieceOf p).elem i = (s.pieceOf p).elem i)
      ∧ (u.pieceOf p).regs = (s.pieceOf p).regs ∧ (∀ v a, u.byte v a = s.byte v a)

/-- The control words complete (R18, R193): `s.nop` and `s.yield` change nothing, `s.end` stops S at itself at TASK,
`s.park` waits from its issue on and completes at the first event after that; `s.ecall` and `s.break` have S go on at the
handler, with the address after the word in TPCS and the word in TVAL. -/
def Sys2Proof.ControlWordsCompletePart : Prop :=
  ∀ (s : State) (t : BitVec 4), CanS s t 0 [] →
    Completes (.sNop t) s 0 t (s.piece.s.pc + 4) s.piece s
    ∧ Completes (.sYield t) s 0 t (s.piece.s.pc + 4) s.piece s
    ∧ (s.piece.level = 0 → ∃ u, exec (.sEnd t) s = .next u ∧ Ran s u 0 t s.piece.s.pc s.piece s ∧ u.piece.s.atEnd = true)
    ∧ (s.piece.parked = true → s.piece.parkEv = true →
      Completes (.sPark t) s 0 t (s.piece.s.pc + 4) { s.piece with parked := false } s)
    ∧ (s.piece.parked = false → exec (.sPark t) s = .next ((s.begun 0 t).modPiece fun p => { p with parked := true, parkEv := false }))
    ∧ (NoHandler s → ∀ r ∈ [(Instr.sEcall t, (0x1C : W64)), (.sBreak t, 0x1D)], ∃ u, exec r.1 s = .next u
      ∧ Entered s.piece u.piece r.2 (wordOf r.1) 0 (s.piece.s.pc + 4) ∧ OnlyPiece s u
      ∧ ∃ new, ∀ a b, a < 4 → b < 4 → u.piece.tackQ a b = tacksAfter s.piece 0 t new a b)

/-- `s.eret` completes (R193, R344): with ACT 0 S goes on at TPCS at the level kept in TSTAT, and the engine that raised
the trap goes on; with another ACT the task is to be aborted. A cause that cannot be resumed is aborted with ACT 2. -/
def Sys2Proof.TrapReturnCompletesPart : Prop :=
  ∀ (s : State) (t : BitVec 4), CanS s t 0 [] → s.piece.level ≠ 0 → s.piece.active = true → s.piece.traps = [] →
    let act := (s.piece.sys.tstat.extractLsb' 3 2).toNat
    let stuck := (s.piece.sys.tcause.extractLsb' 0 8).toNat ∈ [0x0B, 0x1B, 0x1E]
    (act = 0 → ¬stuck → ∃ u, exec (.sEret t) s = .next u ∧ u.piece.s.pc = s.piece.sys.tpcs
      ∧ (∀ r, s.piece.cur = some r → (r.unit = 2 → u.piece.m.stopped = false) ∧ (r.unit = 3 → u.piece.f.stopped = false)
        ∧ (r.unit = 4 → (u.piece.elem r.elem).stopped = false))
      ∧ u.piece.level = s.piece.sys.tstat.toNat % 4 ∧ u.piece.active = false ∧ u.piece.cur = none
      ∧ u.piece.abort = s.piece.abort ∧ (∀ r, u.piece.reg r = s.piece.reg r) ∧ OnlyPiece s u)
    ∧ (2 ≤ act ∨ act = 1 ∧ ¬stuck ∨ stuck → ∃ u, exec (.sEret t) s = .next u
      ∧ u.piece.abort = some (if stuck ∧ act < 2 then 2 else act) ∧ u.piece.active = false
      ∧ (∀ r, u.piece.reg r = s.piece.reg r) ∧ OnlyPiece s u)

/-- `s.mvfs` completes for every register its level may read, with the register's value; `s.mvts` completes for every
register its level may write with a value it takes, and the register then holds the bits it has; every other system
register but the event counters keeps its value (R3, R150, R194). -/
def Sys2Proof.SystemRegistersMovePart : Prop :=
  ∀ (s : State) (t : BitVec 4) (d : BitVec 5) (r : BitVec 10), CanS s t 0 [] →
    (s.piece.level ≠ 0 ∨ superRead r.toNat = false →
      Completes (.sMvfs t d r) s 0 t (s.piece.s.pc + 4) (s.piece.setReg d ((s.begun 0 t).sysRead r.toNat)) s)
    ∧ (∀ row ∈ sysRows s.piece, s.sysRead row.1 = row.2)
    ∧ (RegsReady s.piece [d] → s.piece.level ≠ 0 ∨ superWrite r.toNat = false →
      ∀ m ∈ sysMasks s.piece (s.piece.reg d), r.toNat = m.1 →
        (m.2.2 = true → ∃ u, exec (.sMvts t d r) s = .next u ∧ WordDone s u 0 t (s.piece.s.pc + 4)
          ∧ u.sysRead m.1 = s.piece.reg d &&& m.2.1
          ∧ (∀ k, k ≠ m.1 → k < 0x100 → u.sysRead k = s.sysRead k)
          ∧ (∀ q, u.piece.reg q = s.piece.reg q) ∧ (∀ v a, u.byte v a = s.byte v a))
        ∧ (m.2.2 = false → exec (.sMvts t d r) s = .next ((s.begun 0 t).wordTrap 0 t 0x01 (s.piece.reg d) 0)))
    ∧ (RegsReady s.piece [d] → Completes (.sMvts t d 0x17) s 0 t (s.piece.s.pc + 4)
        { s.piece with sys := { s.piece.sys with fpflags := (s.piece.sys.fpflags &&& ~~~(s.piece.reg d &&& 0xFFF)) ||| s.piece.sys.flagsNow } } s)
    ∧ (RegsReady s.piece [d] → s.piece.level ≠ 0 → (s.piece.reg d).toNat % 4 ≤ s.piece.level →
      (s.piece.reg d).toNat % 4 ≠ 3 → ∃ u, exec (.sMvts t d 0x38) s = .next u ∧ WordDone s u 0 t (s.piece.s.pc + 4)
        ∧ u.piece.sys.tstat.toNat = (s.piece.reg d).toNat % 4 + (if s.piece.active then 4 else 0)
          + ((s.piece.reg d).extractLsb' 3 2).toNat * 8)

/-- `s.cnt`, `s.pcut`, `s.pjoin` and `s.pqry` complete (R198, R201): a counter selects an event and restarts at 0, a word
of S being counted after its effect (log 63, DEDUCED), a
change of shape is recorded for the seam with RESULT pending, and rd takes the shape word with RESULT. -/
def Sys2Proof.CountersAndShapesPart : Prop :=
  ∀ (s : State) (t : BitVec 4) (d a b : BitVec 5),
    (CanS s t 0 [a, b] → (s.piece.reg a).toNat ≤ 63 → (s.piece.reg b).toNat ≤ 21 →
      ∃ u, exec (.sCnt t a b) s = .next u
        ∧ Ran s u 0 t (s.piece.s.pc + 4)
            { s.piece with sys := { s.piece.sys with cntEv := SMap.set 0 s.piece.sys.cntEv (s.piece.reg a).toNat (s.piece.reg b).toNat } } s
        ∧ SMap.get 0 u.piece.sys.cnt (s.piece.reg a).toNat = (if s.piece.reg b = 1 then 1 else 0))
    ∧ (CanS s t 0 [a] →
      Completes (.sPcut t a) s 0 t (s.piece.s.pc + 4) { s.piece with reshape := some (false, s.piece.reg a), result := 14 } s
      ∧ Completes (.sPjoin t a) s 0 t (s.piece.s.pc + 4) { s.piece with reshape := some (true, s.piece.reg a), result := 14 } s)
    ∧ (CanS s t 0 [] → Completes (.sPqry t d) s 0 t (s.piece.s.pc + 4)
        (s.piece.setReg d (BitVec.ofNat 64 (s.piece.row0 + s.piece.col0 * 8 + s.piece.hLog * 128 + s.piece.wLog * 512
          + s.piece.eb * 4096 + s.piece.panel * 2 ^ 14 + s.piece.result * 2 ^ 16))) s)

/-- The invalidations complete once the accesses that used the removed entries, and the thread's own earlier ones, have
performed (R199): every translation cache of the package has lost exactly the entries named. One that had to wait for them completes
once they have performed. -/
def Sys2Proof.InvalidationsRemoveEntriesPart : Prop :=
  ∀ (s : State) (t : BitVec 4) (a b : BitVec 5), s.piece.level ≠ 0 →
    ∀ r ∈ ([(.sTlbiVa t a b, [a, b], fun e => decide (e.asid = (s.piece.reg b).toNat % 65536 ∧ (s.piece.reg a).toNat / 2 ^ e.bits = e.vpn)),
            (.sTlbiAsid t b, [b], fun e => decide (e.asid = (s.piece.reg b).toNat % 65536)),
            (.sTlbiAll t, [], fun _ => true)] : List (Instr × List (BitVec 5) × (TlbEntry → Bool))),
      CanS s t 0 r.2.1 →
      (∀ ids, s.piece.await = .drain ids → (∀ id ∈ ids, (s.begun 0 t).opDone id 3 = true) →
        Completes r.1 s 0 t (s.piece.s.pc + 4) { s.piece with await := .none } s)
      ∧ (Fresh s → (∀ id ∈ (s.begun 0 t).tlbiWaits (((s.hub.tlbs ++ s.hub.gtlbs).map fun kv => kv.2.filter r.2.2).flatten),
        (s.begun 0 t).opDone id 3 = true) →
      Completes r.1 s 0 t (s.piece.s.pc + 4) s.piece
        { s with hub := { s.hub with tlbs := s.hub.tlbs.map fun kv => (kv.1, kv.2.filter fun e => !r.2.2 e)
                                     gtlbs := s.hub.gtlbs.map fun kv => (kv.1, kv.2.filter fun e => !r.2.2 e) } })

end

namespace Sys2Proof.Machine

/-! ## Traps -/

/-- The words of S that only SUPER and ROOT may execute, and the system registers they may only read or write (R144). -/
def privRows (t : BitVec 4) (d a b : BitVec 5) (r : BitVec 10) : List Instr :=
  [.sEret t, .sTlbiVa t a b, .sTlbiAsid t b, .sTlbiAll t]
    ++ (if superRead r.toNat then [.sMvfs t d r] else []) ++ (if superWrite r.toNat then [.sMvts t a r] else [])

/-- The causes that a record of a trap gives TCAUSE (R339): code, unit and ASYNC. -/
def causeOf (r : TrapRec) : W64 := BitVec.ofNat 64 (r.code + 256 * r.unit + (if r.async then 2048 else 0))

/-! ## Shared objects -/

/-- A barrier word's checks pass on the barrier at vault address `v` (R166, R195). -/
structure BarrierAt (s s1 : State) (adr : W64) (write : Bool) (v : Nat) : Prop where
  vault : isVaultAddr adr = true
  check : ∃ s0 key pair f, s.sAddr adr 16 { write := write } = .ok s0 true v key pair f ∧ s1 = s0.detect true v 16
  sound : s1.poisoned true v 16 = false
  aligned : adr.toNat % 16 = 0

/-- The words of a barrier after an event and its completion test (R88): TARGET, COUNT, PEND, PHASE. Events are 0 arrive,
1 start, 2 land and 3 `s.bar.init`, which makes no test. -/
def barrierAfter (what bytes T C P Ph : Nat) : Nat × Nat × Nat × Nat :=
  let test (C P : Nat) := if T ≤ C ∧ P = 0 then (T, C - T, P, (Ph + 1) % 2 ^ 32) else (T, C, P, Ph)
  match what with
  | 0 => test ((C + 1) % 2 ^ 32) P
  | 1 => test C ((P + bytes) % 2 ^ 32)
  | 2 => test C (P - bytes)
  | _ => (bytes % 2 ^ 32, 0, 0, Ph)

/-- A notify register has taken a value (R89): every wait on it has been evaluated. -/
structure Notified (s u : State) (n : Nat) (v : W64) : Prop where
  value : u.notifyVal n = v
  others : ∀ k, k ≠ n → u.notifyVal k = s.notifyVal k
  wakes : ∀ p m, (s.pieceOf p).await = .wfn n m → v &&& (if m = 0 then BitVec.allOnes 64 else m) ≠ 0 →
    (u.pieceOf p).await = .result v
  waits : ∀ p, (∀ m, (s.pieceOf p).await ≠ .wfn n m) → u.pieceOf p = s.pieceOf p
  memory : ∀ w a, u.byte w a = s.byte w a

end Sys2Proof.Machine

section
open Sys2Proof Sys2Proof.Machine

/-- A trap of a word of S that runs no handler enters the handler (R25, R342) with the address of the word, or of the
prefix before it, in TPCS (R93, R147), and a tack the word has popped is back; while a handler runs it is a double trap:
the sequence is to end, with an error record (R343). A trap of another engine stops that engine and is held. -/
def Sys2Proof.TrapsOfWordsEnterTheHandlerPart : Prop :=
  ∀ (s : State) (e : Nat) (t : BitVec 4) (code : Nat) (val loc : W64), s.piece.live = true → e < 4 →
    (e = 0 → s.piece.active = false →
      let u := s.wordTrap e t code val loc
      Entered s.piece u.piece (BitVec.ofNat 64 code) val loc (match s.piece.pre with
        | .none => s.piece.s.pc
        | .imx _ a => a
        | .sem _ _ _ _ a => a) ∧ OnlyPiece s u
      ∧ (s.piece.s.issued = true → tackW t = true →
          u.piece.tackQ (tackP t) 0 = s.piece.s.tdeps :: s.piece.tackQ (tackP t) 0))
    ∧ (e = 0 → s.piece.active = true →
      let u := s.wordTrap e t code val loc
      u.piece.abort = some 2 ∧ u.piece.s.stopped = true ∧ u.piece.sys = s.piece.sys ∧ u.piece.regs = s.piece.regs)
    ∧ (e ≠ 0 →
      let u := s.wordTrap e t code val loc
      (u.piece.eng e).stopped = true ∧ u.piece.s = s.piece.s ∧ OnlyPiece s u
      ∧ u.piece.traps = s.piece.traps ++ [{ code := code, unit := e, async := false, val := val, loc := loc, at_ := s.piece.lastRun }])

/-- At TASK the privileged words raise PRIV before any effect, with the word in TVAL (R144, R345); a word behind a prefix
it does not accept raises ILLEGAL (R93, R147). -/
def Sys2Proof.RefusedWordsTrapPart : Prop :=
  ∀ (s : State) (t : BitVec 4) (d a b : BitVec 5) (r : BitVec 10), s.piece.live = true → s.piece.s.done = none →
    (s.piece.level = 0 → s.piece.pre = .none → ∀ i ∈ privRows t d a b r,
      s.piece.active = false → ∃ u, exec i s = .next u ∧ Entered s.piece u.piece 0x02 (wordOf i) 0 s.piece.s.pc ∧ OnlyPiece s u)
    ∧ (s.piece.pre ≠ .none → ∀ iv ∈ aluRows t d a b 0 0, exec iv.1 s = .next (s.wordTrap 0 t 0x01 (wordOf iv.1) 0))

/-- A held trap is delivered to a thread that runs no handler (R37, R342, R343). -/
def Sys2Proof.HeldTrapsAreDeliveredPart : Prop :=
  ∀ (s : State) (k : Nat) (r : TrapRec), (s.pieceOf k).live = true → (s.pieceOf k).active = false →
    (s.pieceOf k).traps = [r] → (s.pieceOf k).abort = none → (s.pieceOf k).atSeam = false → (s.pieceOf k).mayTrap = true →
    ∃ u, exec (.trapDelivery k) s = .next u
      ∧ Entered (s.pieceOf k) (u.pieceOf k) (causeOf r) r.val r.loc (s.pieceOf k).spc
      ∧ (u.pieceOf k).traps = [] ∧ (u.pieceOf k).cur = some r
      ∧ (∀ j, j ≠ k → u.pieceOf j = s.pieceOf j) ∧ (∀ v a, u.byte v a = s.byte v a)

/-- The barrier words complete (R195): `s.bar.init`, `s.bar.arv` and `s.bar.addb` hand their event to the bank element, and
`s.bar.wait` completes where its phase has been reached. No byte of memory changes yet. -/
def Sys2Proof.BarrierWordsHandOverPart : Prop :=
  ∀ (s s1 : State) (t : BitVec 4) (d a b : BitVec 5) (v : Nat), CanS s t 0 [a, b] →
    (BarrierAt (s.begun 0 t) s1 (s.piece.reg a) true v →
      ∀ r ∈ [(Instr.sBarInit t a b, 3, (s.piece.reg b).toNat % 2 ^ 32, 0), (.sBarArv t d a, 0, 0, d.toNat),
             (.sBarAddb t a b, 1, (s.piece.reg b).toNat % 2 ^ 32, 0)],
        ∃ u o, exec r.1 s = .next u ∧ WordDone s u 0 t (s.piece.s.pc + 4)
          ∧ u.barEvs = s.barEvs ++ [o] ∧ o.id = s1.opCount ∧ o.addr = v ∧ o.what = r.2.1 ∧ o.bytes = r.2.2.1
          ∧ o.rd = r.2.2.2 ∧ o.src = s.focusP ∧ o.agent = .thread s.focusP
          ∧ (∀ q, u.piece.reg q = s.piece.reg q)
          ∧ (r.2.1 = 0 → d ≠ 0 → u.piece.busy d = true)
          ∧ (∀ w x, u.byte w x = s1.byte w x))
    ∧ (BarrierAt (s.begun 0 t) s1 (s.piece.reg a) false v →
      s1.depsMet (s1.sDeps { ord := 1, scope := 3 } 0 false) = true →
      0 ≤ (BitVec.ofNat 32 (s1.barWord v 3) - (s.piece.reg b).setWidth 32).toInt →
      ∃ u, exec (.sBarWait t a b) s = .next u ∧ WordDone s.noted u 0 t (s.piece.s.pc + 4)
        ∧ (∀ q, u.piece.reg q = s.piece.reg q) ∧ (∀ w x, u.byte w x = s1.byte w x))

/-- The bank element applies a barrier event in one step (R88): the four words become what R88 says, no other byte
changes, and an arrival gives rd the PHASE before its test. -/
def Sys2Proof.BarrierEventsApplyPart : Prop :=
  ∀ (s : State) (e : BarEvent), s.barEvs.find? (fun f => f.id == e.id) = some e → e.what < 4 → s.depsMet e.deps = true →
    s.barHeld e = false → s.contended true e.addr 16 = false →
    let after := barrierAfter e.what e.bytes (s.barWord e.addr 0) (s.barWord e.addr 1) (s.barWord e.addr 2) (s.barWord e.addr 3)
    ∃ u, exec (.barrierEventApply e.id) s = .next u
      ∧ (u.barWord e.addr 0, u.barWord e.addr 1, u.barWord e.addr 2, u.barWord e.addr 3) = after
      ∧ (∀ a, a < e.addr ∨ e.addr + 16 ≤ a → u.byte true a = s.byte true a) ∧ u.mem = s.mem
      ∧ (∀ x ∈ u.barEvs, x.id ≠ e.id) ∧ (∀ x ∈ s.barEvs, x.id ≠ e.id → x ∈ u.barEvs)
      ∧ (e.what = 0 → e.rd ≠ 0 → e.rd < 32 → SMap.get none (s.pieceOf e.src).pend e.rd = some e.id →
          (u.pieceOf e.src).reg (BitVec.ofNat 5 e.rd) = BitVec.ofNat 64 (s.barWord e.addr 3))
      ∧ (e.what ≠ 0 → u.pieces = s.pieces)

/-- The notify words and the stores to the hub window complete (R68, R89, R113, R196): `s.wfn` where a bit of its mask is
set, and else S waits for one; `s.nsig`, `s.nclr` and an 8-byte store to the window hand their write to the hub. A write
that NCFG refuses the thread raises WALL with the number of the register. -/
def Sys2Proof.NotifyWordsCompletePart : Prop :=
  ∀ (s : State) (t : BitVec 4) (d a b : BitVec 5), CanS s t 0 [a, b] →
    let n := (s.piece.reg a).toNat % 256
    let m := if s.piece.reg b = 0 then BitVec.allOnes 64 else s.piece.reg b
    (Fresh s → (s.begun 0 t).depsMet ((s.begun 0 t).sDeps { ord := 1, scope := 4 } 0 false) = true →
      (s.notifyVal n &&& m ≠ 0 → ∃ u, exec (.sWfn t d a b) s = .next u ∧ WordDone s.noted u 0 t (s.piece.s.pc + 4)
        ∧ u.piece.reg d = (if d = 0 then 0 else s.notifyVal n) ∧ (∀ q, q ≠ d → u.piece.reg q = s.piece.reg q)
        ∧ u.hub = s.hub ∧ (∀ w x, u.byte w x = s.byte w x))
      ∧ (s.notifyVal n &&& m = 0 → ∃ u, exec (.sWfn t d a b) s = .next u ∧ u.piece.await = .wfn n (s.piece.reg b)
        ∧ u.piece.s.pc = s.piece.s.pc ∧ u.piece.regs = s.piece.regs))
    ∧ (s.threadNotify n = true → ∀ r ∈ [(Instr.sNsig t a b, 1), (.sNclr t a b, 2)],
      ∃ u o, exec r.1 s = .next u ∧ WordDone s u 0 t (s.piece.s.pc + 4) ∧ u.ops = s.ops ++ [o]
        ∧ o.kind = .notify ∧ o.fn = r.2 ∧ o.addr = n ∧ o.piece = s.focusP ∧ o.data = bytesOf 8 (s.piece.reg b).toNat
        ∧ u.hub = s.hub ∧ (∀ q, u.piece.reg q = s.piece.reg q) ∧ (∀ w x, u.byte w x = s.byte w x))
    ∧ (s.threadNotify n = false → ∀ r ∈ [Instr.sNsig t a b, .sNclr t a b],
      exec r s = .next ((s.begun 0 t).wordTrap 0 t 0x06 (BitVec.ofNat 64 n) 0))
    ∧ (∀ s1 pa key f, (s.begun 0 t).knotFull (s.piece.ordScope.tied 0) 1 = false →
      (s.begun 0 t).sAddr (s.piece.reg a) 8 (plainAcc true 8) = .ok s1 false pa key none f → inHubWin pa = true →
      s1.threadMayWrite (pa - 2 ^ 42) = true →
      ∃ u o, exec (.sStD t b a 0 0) s = .next u ∧ WordDone s u 0 t (s.piece.s.pc + 4) ∧ u.ops = s.ops ++ [o]
        ∧ o.kind = .notify ∧ o.fn = 0 ∧ o.addr = pa ∧ o.piece = s.focusP ∧ o.data = bytesOf 8 (s.piece.reg b).toNat
        ∧ (∀ q, u.piece.reg q = s.piece.reg q) ∧ (∀ w x, u.byte w x = s1.byte w x))

/-- A notify write of a thread performs at the hub (R68, R89, R196): the register takes the value of `s.nsig`, of `s.nclr`,
or of the store's window, and every wait on it is evaluated. -/
def Sys2Proof.NotifyWritesPerformPart : Prop :=
  ∀ (s : State) (o : MemOp) (sc : BitVec 3) (n : Nat), s.opOf o.id = some o → o.kind = .notify →
    o.agent = .thread o.piece → s.depsMet o.deps = true →
    let v := BitVec.ofNat 64 (ofBytes o.data)
    let old := s.notifyVal n
    ∀ new, ((o.fn = 1 ∧ o.addr = n ∧ new = old ||| v) ∨ (o.fn = 2 ∧ o.addr = n ∧ new = old &&& ~~~v)
        ∨ (o.fn = 0 ∧ n < 256 ∧ ((o.addr = 2 ^ 42 + 0x4000 + 8 * n ∧ new = v) ∨ (o.addr = 2 ^ 42 + 0x4800 + 8 * n ∧ new = old ||| v)
            ∨ (o.addr = 2 ^ 42 + 0x5000 + 8 * n ∧ new = old + v)))) →
      ∃ u, exec (.memoryWritePerform o.id sc) s = .next u ∧ Notified s u n new ∧ u.opOf o.id = none
        ∧ u.focusP = s.focusP

/-- `s.lnch` completes with the hub's answer (R43, R197), where its record is in local memory and sound: 2 with LQSTAT.SRCERR
where the queue is not one for threads, 3 for another domain's record, 1 for a full ring; else the 128 bytes stand at the
ring's tail, the tail moves on, and rd is 0. -/
def Obligations.LaunchWordsPost : Prop :=
  ∀ (s s1 : State) (t : BitVec 4) (d a b : BitVec 5) (v : Bool) (pa key : Nat) (f : Option (Nat × Nat)),
    CanS s t 0 [a, b] → Fresh s →
    (s.begun 0 t).sAddr (s.piece.reg a) 128 { write := false, turned := .face } = .ok s1 v pa key none f →
    s1.depsMet (s1.sDeps { ord := 2, scope := 4 } 0 true) = true →
    let s2 := s1.detect v pa 128
    (s2.read v pa 128).integ = none → (s2.read v pa 128).pois = false →
    let rec_ := (s2.view (.thread s.focusP) v pa 128 true s2.opCount).data
    let n := (s.piece.reg b).toNat % 64
    let q := s2.lqOf n
    let ok := q.en = true ∧ q.src = 3 ∧ q.rootq = false
    ∃ u, exec (.sLnch t d a b) s = .next u ∧ WordDone s u 0 t (s.piece.s.pc + 4)
      ∧ (∀ k, k ≠ d → u.piece.reg k = s.piece.reg k)
      ∧ (¬ok → (d ≠ 0 → u.piece.reg d = 2) ∧ u.lqOf n = { q with srcerr := true } ∧ ∀ w x, u.byte w x = s2.byte w x)
      ∧ (ok → dword rec_ 10 % 16 ≠ s2.domain → (d ≠ 0 → u.piece.reg d = 3) ∧ u.lqOf n = q ∧ ∀ w x, u.byte w x = s2.byte w x)
      ∧ (ok → dword rec_ 10 % 16 = s2.domain → 2 ^ q.size ≤ (q.tail - q.head).toNat →
          (d ≠ 0 → u.piece.reg d = 1) ∧ u.lqOf n = q ∧ ∀ w x, u.byte w x = s2.byte w x)
      ∧ (ok → dword rec_ 10 % 16 = s2.domain → (q.tail - q.head).toNat < 2 ^ q.size →
          (d ≠ 0 → u.piece.reg d = 0) ∧ (u.lqOf n).tail = q.tail + 1 ∧ (u.lqOf n).head = q.head
          ∧ ∀ w x, u.byte w x = (s2.hubWrite (q.base.toNat + 128 * (q.tail.toNat % 2 ^ q.size)) rec_).byte w x)

/-- `s.turn` hands its turn to the hub and waits (R112, R200), and the hub makes the oldest turn of an entry once the lining
writes it waits for have performed: SEL and TURNS change in one step and the waiting thread is answered with TURNS, which
then completes its word (`AnsweredWordsWriteTheirResultPart`). -/
def Obligations.TurnsAreMade : Prop :=
  ∀ (s : State) (t : BitVec 4) (d a : BitVec 5) (n : Nat),
    (CanS s t 2 [a] → Fresh s → (s.piece.reg a).toNat = n → n ≤ 1023 → (s.turnEnt n).v = true →
      (s.turnEnt n).dom = s.domain → (s.begun 0 t).depsMet ((s.begun 0 t).sDeps (s.piece.ordAs 2) 0 true) = true →
      ∃ u deps, exec (.sTurn t d a) s = .next u ∧ u.piece.await = .turn n
        ∧ u.turnEnt n = { s.turnEnt n with wait := (s.turnEnt n).wait ++ [(s.focusP, deps)] }
        ∧ (∀ o ∈ s.ops, o.lining = some n → { op := o.id, scope := 4 } ∈ deps)
        ∧ u.piece.s.pc = s.piece.s.pc ∧ u.piece.regs = s.piece.regs ∧ (∀ w x, u.byte w x = s.byte w x))
    ∧ (∀ p deps rest, (s.turnEnt n).wait = (p, deps) :: rest → s.depsMet deps = true →
      ∃ u, exec (.hubTurn n) s = .next u
        ∧ u.turnEnt n = { s.turnEnt n with sel := !(s.turnEnt n).sel, turns := (s.turnEnt n).turns + 1, wait := rest }
        ∧ (∀ k, k ≠ n → u.turnEnt k = s.turnEnt k)
        ∧ ((s.pieceOf p).await = .turn n → (u.pieceOf p).await = .result (BitVec.ofNat 64 ((s.turnEnt n).turns + 1).toNat))
        ∧ (∀ k, k ≠ p → u.pieceOf k = s.pieceOf k) ∧ (∀ w x, u.byte w x = s.byte w x))

/-- A local invocation fires at its bank element (R84, R116, R187): the thread that waits takes a result, sign-extended
from 40 bits, where the subgraph is loaded, and REMOTE_FAIL where it is not; memory outside its doubleword is unchanged. A
subgraph that meets a poisoned word writes nothing, and the word ends with POISON (R365, R369). -/
def Sys2Proof.InvocationsFirePart : Prop :=
  ∀ (s : State) (v : Invoke), s.invokes.find? (fun w => w.id == v.id) = some v → v.pair = none →
    s.contended v.vault v.addr 8 = false → (s.pieceOf v.piece).await = .invoke v.id →
    let f := s.subgraph (32 * ownerOf v.vault v.addr + v.fn)
    let x := s.detect v.vault v.addr 8
    let old := x.read v.vault v.addr 8
    ∃ u, exec (.remoteSubgraphFire v.id) s = .next u
      ∧ (∀ w ∈ u.invokes, w.id ≠ v.id)
      ∧ (∀ p, p ≠ v.piece → u.pieceOf p = s.pieceOf p)
      ∧ (f = none → (u.pieceOf v.piece).await = .failed 0x19 0 ∧ ∀ w a, u.byte w a = s.byte w a)
      ∧ (f ≠ none → old.integ = none → old.pois = true →
        (u.pieceOf v.piece).await = .failed 0x16 0 ∧ ∀ w a, u.byte w a = x.byte w a)
      ∧ (f ≠ none → old.integ = none → old.pois = false → (∃ r : BitVec 40, (u.pieceOf v.piece).await = .result (r.signExtend 64))
        ∧ ((∀ w a, u.byte w a = x.byte w a)
          ∨ ∃ y : W64, ∀ w a, u.byte w a = ((x.write v.vault v.addr (bytesOf 8 y.toNat)).getD x).byte w a))

end

namespace Sys2Proof.Machine

/-! ## The copy engine -/

/-- A stream holds what `c.flush` sends on (R211): part of a token, or part of a unit that it encodes into memory. -/
def FlushDue (x : Stream) : Prop :=
  if dfld x.desc 15 = 0 then dfld x.desc 2 = 10 ∧ dpack x.desc = false ∧ x.bits ≠ [] else x.part = true

/-- The stream in slot `k` of piece `p` can be served in this cycle (R207): it has something to do, an address generator is there
for it, and the choice ends the service after one step. -/
structure Served (s : State) (p k : Nat) (cs : List Nat) : Prop where
  live : (s.pieceOf p).live = true ∧ (s.pieceOf p).abort = none
  run : ((s.pieceOf p).slot k).st = .running
  once : ((s.pieceOf p).slot k).last ≠ some s.time
  able : (s.at p).canServe p ((s.pieceOf p).slot k) = true
  turn : (s.at p).generatorFor k = true
  one : s.choices = 1 :: cs

/-- The state in which a service that takes the choice `1` does its step. -/
def State.atService (s : State) (p k : Nat) (cs : List Nat) : State :=
  State.modSlot { s.at p with choices := cs } k fun x => { x with last := some s.time }

end Sys2Proof.Machine

section
open Sys2Proof Sys2Proof.Machine

/-- `c.go` completes where its descriptor passes its checks and a slot is free (R204, R207, R211): the slot holds a copy of
the descriptor, running, or queued behind the stream of the same descriptor, and with a bound barrier the start event
with the stream's bytes is handed over; a journalled stream takes its checkpoint from the journal (R214). A descriptor that breaks a
rule traps in C before anything of it starts. -/
def Sys2Proof.StreamsStartPart : Prop :=
  ∀ (s : State) (t : BitVec 4) (n : BitVec 4), CanRun s 1 t →
    let d := SMap.get [] s.piece.sd n.toNat
    let b := dfld d 20
    let s1 := if dfld d 7 = 1 then (s.begun 1 t).detect true (dfld d 23) (8 + 4 * (dfld d 24 + 1)) else s.begun 1 t
    let jrnl := if dfld d 7 = 1 then s1.journal d else some (0, [])
    (∀ k check used, (s.begun 1 t).descTrap d (wordOf (.cGo t n)) = none → (s.begun 1 t).descPlace d = none →
      (s.piece.slotsOf n.toNat).length < 2 → (s.begun 1 t).freeSlot = some k → jrnl = some (check, used) →
      ∃ u x, exec (.cGo t n) s = .next u ∧ WordDone s u 1 t (s.piece.nextPc 1)
        ∧ u.piece.slot k = x ∧ x.st = (if s.piece.runningSlot n.toNat = none then .running else .queued) ∧ x.sd = n.toNat
        ∧ x.desc = d ∧ x.idx = 0 ∧ x.pri = dfld d 9 ∧ x.credit = dfld d 22 ∧ x.order = s.piece.cstarts
        ∧ x.check = check ∧ x.used = used
        ∧ (∀ j, j ≠ k → u.piece.slot j = s.piece.slot j)
        ∧ (b < 2 ^ 31 → u.barEvs = s.barEvs)
        ∧ (2 ^ 31 ≤ b → ∃ e, u.barEvs = s.barEvs ++ [e] ∧ e.addr = b % 2 ^ 31 ∧ e.what = 1
          ∧ e.bytes = dtotal d * fmtBits (dfld d 2) / 8 ∧ e.agent = .engines s.focusP)
        ∧ u.piece.regs = s.piece.regs ∧ u.piece.sd = s.piece.sd ∧ (∀ v a, u.byte v a = s1.byte v a))
    ∧ (∀ c v, (s.begun 1 t).descTrap d (wordOf (.cGo t n)) = some (c, v) →
      exec (.cGo t n) s = .next ((s.begun 1 t).wordTrap 1 t c v 0))

/-- The other words of C complete (R211, R212, R213): a stop or wait where no slot it names is taken, credit added to the
running stream up to its largest value, an arrival at the barrier of a bound descriptor, a flush with nothing to flush, a
hem at the end of a bound outgoing link queue, a fence that later streams follow, a priority for every stream of a
descriptor. -/
def Sys2Proof.CopyWordsCompletePart : Prop :=
  ∀ (s : State) (t : BitVec 4) (n : BitVec 4) (v : BitVec 16) (l : BitVec 3) (q : BitVec 8) (sc p : BitVec 3), CanRun s 1 t →
    let pc := s.piece.nextPc 1
    let b := dfld (SMap.get [] s.piece.sd n.toNat) 20
    (s.piece.slotsOf n.toNat = [] → Completes (.cStop t n) s 1 t pc s.piece s ∧ Completes (.cWait t n) s 1 t pc s.piece s)
    ∧ (s.piece.slots = [] → Completes (.cWaitAll t) s 1 t pc s.piece s)
    ∧ (s.piece.runningSlot n.toNat = none → Completes (.cAdv t n v) s 1 t pc s.piece s
        ∧ Completes (.cFlush t n) s 1 t pc s.piece s)
    ∧ (∀ k, s.piece.runningSlot n.toNat = some k → ∃ u, exec (.cAdv t n v) s = .next u ∧ WordDone s u 1 t pc
          ∧ u.piece.slot k = { s.piece.slot k with
              credit := if dfld (s.piece.slot k).desc 10 = 1 then min ((s.piece.slot k).credit + v.toNat) 0xFFFFF
                else (s.piece.slot k).credit }
          ∧ (∀ j, j ≠ k → u.piece.slot j = s.piece.slot j) ∧ OnlyPiece s u)
    ∧ (∀ k, s.piece.runningSlot n.toNat = some k →
        (s.piece.c.waitQ = true → (s.piece.slot k).flush = false → Completes (.cFlush t n) s 1 t pc s.piece s)
        ∧ (s.piece.c.waitQ = false → ¬FlushDue (s.piece.slot k) → Completes (.cFlush t n) s 1 t pc s.piece s)
        ∧ (s.piece.c.waitQ = false → FlushDue (s.piece.slot k) → ∃ u, exec (.cFlush t n) s = .next u
            ∧ u.piece.c.pc = s.piece.c.pc ∧ u.piece.c.waitQ = true
            ∧ u.piece.slot k = { s.piece.slot k with flush := true } ∧ OnlyPiece s u))
    ∧ (2 ^ 31 ≤ b → b % 2 ^ 31 % 16 = 0 → (s.begun 1 t).inWindow (b % 2 ^ 31) 16 { write := true } = true →
        ∃ u e, exec (.cBar t n) s = .next u ∧ WordDone s u 1 t pc ∧ u.barEvs = s.barEvs ++ [e] ∧ e.addr = b % 2 ^ 31
          ∧ e.what = 0 ∧ e.agent = .engines s.focusP ∧ u.piece.besidesWord = s.piece.besidesWord)
    ∧ (∀ k, s.linkKey q.toNat true = some k → (s.linkQ k).lost = false → (s.linkQ k).send.length < 16 →
        ∃ u, exec (.cLnk t l q) s = .next u ∧ WordDone s u 1 t pc
          ∧ u.linkQ k = { s.linkQ k with send := (s.linkQ k).send ++ [{ kind := .hem, level := l, lanes := List.replicate 16 {} }] }
          ∧ (∀ j, j ≠ k → u.linkQ j = s.linkQ j) ∧ u.piece.besidesWord = s.piece.besidesWord)
    ∧ (∃ u, exec (.cFence t sc) s = .next u ∧ WordDone s u 1 t pc ∧ OnlyPiece s u
          ∧ (∀ x ∈ s.piece.slots, { op := x.2.order, scope := sc.toNat } ∈ u.piece.cfence)
          ∧ { u.piece with cfence := [] }.besidesWord = { s.piece with cfence := [] }.besidesWord)
    ∧ (∃ u, exec (.cPri t n p) s = .next u ∧ WordDone s u 1 t pc ∧ OnlyPiece s u
          ∧ (∀ k ∈ s.piece.slotsOf n.toNat, (s.piece.slot k).st ≠ .free →
              u.piece.slot k = { s.piece.slot k with pri := p.toNat })
          ∧ (∀ k, k ∉ s.piece.slotsOf n.toNat → u.piece.slot k = s.piece.slot k))

/-- `c.jrnl` completes where every update of its journalled stream below the input count has been applied (R214): CHECK
takes the count and USED takes 0 in the vault. Without a journalled stream it completes at once. -/
def Sys2Proof.JournalCheckpointsPart : Prop :=
  ∀ (s : State) (t : BitVec 4) (n : BitVec 4), CanRun s 1 t →
    ((∀ k, s.piece.latestSlot n.toNat = some k → dfld (s.piece.slot k).desc 7 ≠ 1) →
      Completes (.cJrnl t n) s 1 t (s.piece.nextPc 1) s.piece s)
    ∧ (∀ k, s.piece.latestSlot n.toNat = some k → dfld (s.piece.slot k).desc 7 = 1 →
      let m := (s.piece.slot k).mark.getD (s.piece.slot k).seq
      let j := dfld (s.piece.slot k).desc 23
      (∀ x ∈ s.updates s.focusP (some k), m ≤ x.2.2) →
      ∃ u, exec (.cJrnl t n) s = .next u ∧ WordDone s u 1 t (s.piece.nextPc 1)
        ∧ (∀ i, i < 4 → u.byte true (j + i) = nth 0 (bytesOf 4 m) i ∧ u.byte true (j + 4 + i) = 0)
        ∧ (∀ a, a < j ∨ j + 8 ≤ a → u.byte true a = s.byte true a) ∧ u.mem = s.mem
        ∧ u.piece.regs = s.piece.regs)

/-- `c.rep` and `m.rep` complete where the scan of their block finds no word that bars it (R215): the engine is at the word
after, and the block's words are run through the given number of times: at the end of each pass but the last the engine
returns to the first of them. -/
def Sys2Proof.BlocksRepeatPart : Prop :=
  ∀ (s s1 : State) (t : BitVec 4) (l : BitVec 5) (c : BitVec 12),
    (∀ r ∈ [(Instr.cRep t l c, 1), (.mRep t l c, 2)], CanRun s r.2 t → l ≠ 0 →
      (s.begun r.2 t).scanRep r.2 (2 ^ 55) l.toNat ((s.piece.eng r.2).pc + 4) = .ok s1 →
      ∃ u, exec r.1 s = .next u ∧ (u.piece.eng r.2).pc = (s.piece.eng r.2).pc + 4
        ∧ (u.piece.eng r.2).rep = some ((s.piece.eng r.2).pc + 4, l.toNat, l.toNat, c.toNat + 1)
        ∧ u.piece.regs = s.piece.regs ∧ (∀ v a, u.byte v a = s1.byte v a))
    ∧ (∀ (a : W64) (len left passes : Nat), CanRun s 1 t → s.piece.c.rep = some (a, len, left, passes) →
      ∃ u, exec (.cFence t 0) s = .next u
        ∧ (1 < left → u.piece.c.pc = s.piece.c.pc + 4 ∧ u.piece.c.rep = some (a, len, left - 1, passes))
        ∧ (left ≤ 1 → 1 < passes → u.piece.c.pc = a ∧ u.piece.c.rep = some (a, len, len, passes - 1))
        ∧ (left ≤ 1 → passes ≤ 1 → u.piece.c.pc = s.piece.c.pc + 4 ∧ u.piece.c.rep = none))

/-- A stream that is served moves its data (R205, R206, R207): a full token of a stream into a queue is pushed and takes a
credit, the element read for a memory-to-memory stream is handed out as a write, a valid lane of a scatter stream becomes
an update of its bank element, and a stream with every element done and nothing left to push ends. -/
def Sys2Proof.StreamsTransferPart : Prop :=
  ∀ (s : State) (p k : Nat) (cs : List Nat), Served s p k cs →
    let s0 := s.atService p k cs
    let x := (s.pieceOf p).slot k
    let d := x.desc
    (dfld d 0 = 0 → dfld d 13 = 0 → dfld d 15 = 1 → dfld d 2 < 10 → dfld d 3 = 0 → 16 ≤ x.fill.length →
      (dfld d 10 = 1 → x.credit ≠ 0) →
      let e : QEntry := { tok := some { kind := .data, lanes := x.fill.take 16 }, at_ := s.time + 1 }
      ∃ u, exec (.streamTransfer p k) s = .next u
        ∧ (u.pieceOf p).qOf (dfld d 16) = (match x.ent with
            | some id => ((s.pieceOf p).qOf (dfld d 16)).map fun y => if y.strm = true ∧ y.rid = id ∧ y.tok = none then e else y
            | none => (s.pieceOf p).qOf (dfld d 16) ++ [e])
        ∧ (u.pieceOf p).slot k = { x with last := some s.time, fill := [], bytes := [], oks := [], nib := none, flush := false
                                          ent := none, credit := if dfld d 10 = 1 then x.credit - 1 else x.credit }
        ∧ (u.pieceOf p).regs = (s.pieceOf p).regs ∧ (∀ v a, u.byte v a = s.byte v a))
    ∧ (dfld d 0 = 0 → dfld d 13 = 0 → dfld d 15 = 1 → dfld d 2 < 10 → x.fill = [] → x.bytes = [] → x.nib = none →
      x.hem = none → x.stop = false → dtotal d ≤ x.idx → dfld d 20 < 2 ^ 31 →
      ∃ u, exec (.streamTransfer p k) s = .next u
        ∧ ((u.pieceOf p).slot k).st = .ending ∧ (x.ent = none → (u.pieceOf p).q = (s.pieceOf p).q)
        ∧ (∀ v a, u.byte v a = s.byte v a))
    ∧ (∀ s1 pl, dfld d 0 = 0 → dfld d 13 = 0 → dfld d 15 = 0 → x.idx < dtotal d → x.elems ≠ [] →
      fmtBits (dfld d 2) ≠ 4 → dfld d 20 < 2 ^ 31 →
      s0.agPlaces (BitVec.ofNat 64 (dfld d 19) + BitVec.ofInt 64 (doff d x.idx * (fmtBits (dfld d 2) / 8 : Nat)))
          (elemBytes (dfld d 2)) (dfld d 1) { write := true, turned := if dfld d 6 = 1 then .liningOnly else .refuse }
        = .ok s1 [pl] →
      ∃ u o, exec (.streamTransfer p k) s = .next u ∧ u.ops = s.ops ++ [o] ∧ o.kind = .write ∧ o.agent = .engines p
        ∧ o.vault = pl.vault ∧ o.addr = pl.addr ∧ o.data = x.elems.take pl.n
        ∧ ((u.pieceOf p).slot k).idx = x.idx + 1 ∧ ((u.pieceOf p).slot k).elems = []
        ∧ (∀ v a, u.byte v a = s1.byte v a))
    ∧ (∀ s1 pl lane rest, dfld d 0 = 3 → x.fill = lane :: rest → lane.valid = true → x.check ≤ x.seq → x.seq ∉ x.used →
      fmtBits (dfld d 2) ≠ 4 → pl.pair = none →
      s0.agPlaces (BitVec.ofNat 64 (dfld d 18)
          + BitVec.ofInt 64 (dstride d 0 * lane.coord.toNat * (fmtBits (dfld d 2) / 8 : Nat)))
          (elemBytes (dfld d 2)) (dfld d 1) { write := true, host := false, turned := if dfld d 6 = 1 then .liningOnly else .refuse }
        = .ok s1 [pl] →
      ∃ u w, exec (.streamTransfer p k) s = .next u ∧ u.scatters = s.scatters ++ [w] ∧ w.piece = p ∧ w.slot = some k
        ∧ w.vault = pl.vault ∧ w.addr = pl.addr ∧ w.fmt = dfld d 2 ∧ w.sop = dfld d 5 ∧ w.val = lane.val ∧ w.seq = x.seq
        ∧ w.jrnl = (if dfld d 7 = 1 then some (dfld d 23, dfld d 24) else none)
        ∧ ((u.pieceOf p).slot k).seq = x.seq + 1 ∧ ((u.pieceOf p).slot k).fill = rest
        ∧ (∀ v a, u.byte v a = s1.byte v a))

/-- A stream whose operations have performed at package scope leaves its slot free (R207); those that a `c.fence` of system scope
may still wait for are remembered (R213). -/
def Sys2Proof.StreamsEndPart : Prop :=
  ∀ (s : State) (p k : Nat), (s.pieceOf p).live = true → ((s.pieceOf p).slot k).st = .ending →
    ((s.pieceOf p).slot k).mark = none → (∀ id ∈ ((s.pieceOf p).slot k).ops, s.opDone id 3 = true) →
    ∃ u, exec (.streamEnd p k) s = .next u ∧ ((u.pieceOf p).slot k).st = .free
      ∧ (∀ j, j ≠ k → (u.pieceOf p).slot j = (s.pieceOf p).slot j)
      ∧ { u.pieceOf p with slots := [], cdone := [] } = { s.pieceOf p with slots := [], cdone := [] }
      ∧ (∀ id ∈ ((s.pieceOf p).slot k).ops, s.opDone id 4 = false → (((s.pieceOf p).slot k).order, id) ∈ (u.pieceOf p).cdone)
      ∧ (∀ q, q ≠ p → u.pieceOf q = s.pieceOf q) ∧ (∀ v a, u.byte v a = s.byte v a)

/-- A bank element applies a scatter update in one step (R84, R128, R214): the element at its address takes the operation's
result, its sequence number enters the journal, and its flags the piece's CONVERT group. -/
def Sys2Proof.ScatterUpdatesApplyPart : Prop :=
  ∀ (s : State) (w : Scatter), s.scatters.find? (fun x => x.id == w.id) = some w →
    s.scatterBehind w = false → (∀ p ∈ w.places, s.contended w.vault p.1 p.2 = false) →
    (∀ j, w.jrnl = some j → s.journalFull j = false) →
    let n := elemBytes w.fmt
    let s0 := w.places.foldl (fun s p => s.detect w.vault p.1 p.2) s
    let r := s0.readParts w.vault w.places
    r.integ = none → r.pois = false →
    let v := match w.scale with
      | some c => scaleLane w.val c
      | none => (w.val, 0)
    let old := ofBytes r.data
    let el := if fmtBits w.fmt = 4 then (if w.nib then old / 16 % 16 else old % 16) else old
    let new := scatterNew w.fmt w.sop el v.1
    let b := if fmtBits w.fmt = 4 then (if w.nib then old % 16 + new.1 % 16 * 16 else old / 16 * 16 + new.1 % 16) else new.1
    let s1 := State.writeParts w.vault w.places (bytesOf n b) s0
    let s2 := match w.jrnl with
      | some j => s1.journalAppend j w.seq
      | none => s1
    ∃ u, exec (.scatterUpdate w.id) s = .next u
      ∧ (∀ z a, u.byte z a = s2.byte z a)
      ∧ (∀ x ∈ u.scatters, x.id ≠ w.id) ∧ (∀ x ∈ s.scatters, x.id ≠ w.id → x ∈ u.scatters)
      ∧ ((s.pieceOf w.piece).live = true → (u.pieceOf w.piece).sys.fpflags
          = (s.pieceOf w.piece).sys.fpflags ||| ((v.2 ||| new.2).setWidth 64 <<< 8))
      ∧ (w.sop = 3 → new = narrow w.fmt v.1)

end

namespace Sys2Proof.Machine

/-! ## The matrix engine -/

/-- An M word that waits while a nest runs can take its effect. -/
structure CanM (s : State) (t : BitVec 4) : Prop where
  run : CanRun s 2 t
  idle : s.piece.mx.nest = none

/-- A word of M has completed with the matrix state `m`; nothing else of the machine has changed. -/
def SetsMatrix (i : Instr) (s : State) (t : BitVec 4) (m : Matrix) : Prop :=
  Completes i s 2 t (s.piece.nextPc 2) { s.piece with mx := m } s

/-- What accumulator lane `n` of row `r` of the bottom core of column `j` becomes in a pass (R139, R224): the sum, rounded
to wif or saturated to int32, of what it holds and what the chain of its column gives. -/
def passedLane (p : Piece) (fresh r j n : Nat) : Lane :=
  let above := if p.mx.bindC.isSome then some (nth 0 p.mx.crow (128 * j + n)) else none
  let given := (p.chain p.mx.arow fresh j n p.mh 0 above 0).1
  let old := p.mx.accLane (accKey (p.mh - 1) j r n)
  if p.mx.afmt = 6 then (satI32 (laneInt old + laneInt given)).1 else (wifAdd old given).1

/-- Lane `n` of column block `k` of a drained row (R225): the accumulator as the drain form reads it, scaled unless the
form is 1. -/
def drainedLane (p : Piece) (row k n : Nat) : Lane :=
  let x := p.mx.accLane (accKey (p.mh - 1) (k / 8) row (16 * (k % 8) + n))
  let sc := SMap.get wifOne p.mx.scale (16 * k + n)
  match p.mx.form with
  | 1 => intLane (laneInt x)
  | f =>
    let y := if f = 2 then (cvtIF x).1 else x
    (wifMul y sc).1

end Sys2Proof.Machine

section
open Sys2Proof Sys2Proof.Machine

/-- The words of M that set its state complete (R219, R220, R221, R225, R226, R227, R230). Codes `m.fmt` does not take
raise FORMAT; a core row the piece has not, and a binding whose selector names nothing it has, raise ILLEGAL before a tack
is popped. -/
def Sys2Proof.MatrixSettingsCompletePart : Prop :=
  ∀ (s : State) (t : BitVec 4) (f o : BitVec 2) (b a : BitVec 4) (r : BitVec 3) (x : BitVec 10) (d : BitVec 4), CanM s t →
    let m := s.piece.mx
    let codeOk (c : BitVec 4) : Prop := 1 ≤ c.toNat ∧ c.toNat ≤ 6
    let desc := SMap.get [] s.piece.sd d.toNat
    ((codeOk a ∨ a = 10) ∧ codeOk b → SetsMatrix (.mFmt t f b a) s t { m with afmt := a.toNat, bfmt := b.toNat, form := f.toNat })
    ∧ (¬((codeOk a ∨ a = 10) ∧ codeOk b) →
        exec (.mFmt t f b a) s = .next ((s.begun 2 t).wordTrap 2 t 0x15 (wordOf (.mFmt t f b a)) 0))
    ∧ SetsMatrix (.mSclOne t) s t { m with scale := [] }
    ∧ (r.toNat < s.piece.mh →
        (s.selHere x (decide (o = 2)) = true →
          (o = 0 → SetsMatrix (.mBind t r o x) s t { m with bindA := SMap.set none m.bindA r.toNat (some x) })
          ∧ (o = 1 → SetsMatrix (.mBind t r o x) s t { m with bindC := some x })
          ∧ (o = 2 → SetsMatrix (.mBind t r o x) s t { m with res := .sel x, memN := 0 })
          ∧ (o = 3 → SetsMatrix (.mBind t r o x) s t { m with bindB := SMap.set none m.bindB r.toNat (some x) }))
        ∧ (o = 0 → SetsMatrix (.mUnbind t r o) s t { m with bindA := SMap.set none m.bindA r.toNat none })
        ∧ (o = 1 → SetsMatrix (.mUnbind t r o) s t { m with bindC := none })
        ∧ (o = 2 → SetsMatrix (.mUnbind t r o) s t { m with res := .none, memN := 0 })
        ∧ (o = 3 → SetsMatrix (.mUnbind t r o) s t { m with bindB := SMap.set none m.bindB r.toNat none }))
    ∧ (s.piece.mh ≤ r.toNat → ∀ i ∈ [Instr.mBind t r o x, .mUnbind t r o],
        exec i s = .next (s.wordTrap 2 t 0x01 (wordOf i) 0))
    ∧ (s.selHere x (decide (o = 2)) = false → exec (.mBind t r o x) s = .next (s.wordTrap 2 t 0x01 (wordOf (.mBind t r o x)) 0))
    ∧ (s.selHere x false = false → exec (.mScl t x) s = .next (s.wordTrap 2 t 0x01 (wordOf (.mScl t x)) 0))
    ∧ (dfld desc 0 = 0 → dfld desc 15 = 0 → dfld desc 3 = 0 → dfld desc 2 < 10 →
        (fmtInt (dfld desc 2) = false ∨ dscale desc = 0x3F800000) →
        SetsMatrix (.mBindMem t d) s t { m with res := .mem desc, memN := 0 })
    ∧ (m.drains = [] → (s.begun 2 t).drainWritesDone = true → SetsMatrix (.mWait t) s t m)

/-- The words of M on its planes and accumulators complete (R217, R225, R227, R231): a swap of Loaded linings exchanges
face and lining in every core, `m.keep` and its release mark them, `m.zero` zeroes its rows in every core and no other,
and the toile product, where every core of the piece is healthy, leaves every lining Released and nothing else changed. -/
def Sys2Proof.PlaneWordsCompletePart : Prop :=
  ∀ (s : State) (t : BitVec 4) (n f : BitVec 1) (k r : BitVec 9), CanM s t → s.piece.mw ≤ 16 →
    let here (i j : Nat) : Prop := i < s.piece.mh ∧ j < s.piece.mw
    (s.piece.swapReady = true → ∃ u, exec (.mSwb t) s = .next u ∧ WordDone s u 2 t (s.piece.nextPc 2) ∧ OnlyPiece s u
        ∧ (∀ i j, here i j → u.piece.plane i j false = { s.piece.plane i j true with fresh := false }
          ∧ u.piece.plane i j true = { s.piece.plane i j false with fresh := false })
        ∧ { u.piece.mx with planes := [] } = { s.piece.mx with planes := [] })
    ∧ (∃ u, exec (.mKeep t n f) s = .next u ∧ WordDone s u 2 t (s.piece.nextPc 2) ∧ OnlyPiece s u
        ∧ (∀ i j, here i j →
          u.piece.plane i j false = { s.piece.plane i j false with hold := (s.piece.plane i j false).hold || f == 1 }
          ∧ u.piece.plane i j true = { s.piece.plane i j true with hold := (s.piece.plane i j true).hold || n == 1 })
        ∧ { u.piece.mx with planes := [] } = { s.piece.mx with planes := [] })
    ∧ (∃ u, exec (.mKeepRelease t n f) s = .next u ∧ WordDone s u 2 t (s.piece.nextPc 2) ∧ OnlyPiece s u
        ∧ (∀ i j, here i j →
          (f = 1 → (u.piece.plane i j false).st = .released ∧ (u.piece.plane i j false).hold = false)
          ∧ (n = 1 → (u.piece.plane i j true).st = .released ∧ (u.piece.plane i j true).hold = false)
          ∧ (f = 0 → u.piece.plane i j false = s.piece.plane i j false)
          ∧ (n = 0 → u.piece.plane i j true = s.piece.plane i j true)))
    ∧ (r.toNat + k.toNat + 1 ≤ 512 → ∃ u, exec (.mZero t k r) s = .next u ∧ WordDone s u 2 t (s.piece.nextPc 2) ∧ OnlyPiece s u
        ∧ (∀ i j row c, here i j → r.toNat ≤ row → row ≤ r.toNat + k.toNat → c < 128 → u.piece.mx.accLane (accKey i j row c) = 0)
        ∧ (∀ i j row c, here i j → row < 512 → (row < r.toNat ∨ r.toNat + k.toNat < row) → c < 128 →
            u.piece.mx.accLane (accKey i j row c) = s.piece.mx.accLane (accKey i j row c))
        ∧ u.piece.mx.planes = s.piece.mx.planes)
    ∧ (∃ u, exec (.mToil t) s = .next u ∧ u.piece.mx.nests = 0
        ∧ (∀ i j, i < u.piece.mh → j < u.piece.mw → (u.piece.plane i j true).st = .released))
    ∧ (s.choose.1 = 0 → s.hub.toilref = toileSig → ∃ u, exec (.mToil t) s = .next u ∧ WordDone s u 2 t (s.piece.nextPc 2)
        ∧ u = { s.choose.2 with pieces := s.choose.2.pieces.insert s.focusP u.piece }
        ∧ (∀ i j, here i j → u.piece.plane i j true = {} ∧ u.piece.plane i j false = s.piece.plane i j false)
        ∧ { u.piece.mx with planes := [], nests := 0, toile := false } = { s.piece.mx with planes := [], nests := 0, toile := false })

/-- The words of M that take several steps start and end as R219 says: `m.go` turns the nest table (a lining written in the same cycle as it stood before, R191) and starts its nest,
`m.mma` starts its passes and completes after them, `m.drn` starts its drain and completes when the last token has left,
`m.ldb` has every lining Loading and then Loaded, `m.scl` takes its last token and completes. A row outside the
accumulators is refused with its number. -/
def Obligations.MatrixWordsRun : Prop :=
  ∀ (s : State) (t : BitVec 4) (l : BitVec 3) (r n : BitVec 9) (kr : BitVec 7) (x : BitVec 10), CanM s t →
    let m := s.piece.mx
    let ls := (List.range (l.toNat + 1)).map fun k => SMap.get ({} : Level) m.turned k
    (rowsFit ls r.toNat = true → (s.begun 2 t).nestTrap (ls.any fun y => y.endA % 2 == 1) (wordOf (.mGo t l r)) = none →
      m.toile = false → (s.hub.toilcfg.toNat % 65536 = 0 ∨ m.nests < s.hub.toilcfg.toNat % 65536) →
      ∃ u g, exec (.mGo t l r) s = .next u ∧ WordDone s u 2 t (s.piece.nextPc 2) ∧ OnlyPiece s u
        ∧ u.piece.mx.mtFace = m.turned ∧ (m.mtwLast = none → m.turned = m.mtLin ∧ u.piece.mx.mtLin = m.mtFace)
        ∧ (∀ k f v o, m.mtwLast = some (k, f, v, o) → SMap.get {} m.turned k = o
          ∧ SMap.get {} u.piece.mx.mtLin k = ((SMap.get {} m.mtFace k).put f v).getD (SMap.get {} m.mtFace k))
        ∧ u.piece.mx.nest = some g
        ∧ g.top = l.toNat ∧ g.rb = r.toNat ∧ g.todo = [.popA, .pass r.toNat] ∧ u.piece.mx.acc = m.acc
        ∧ u.piece.mx.planes = m.planes)
    ∧ (rowsFit ls r.toNat = false →
      exec (.mGo t l r) s = .next ((s.begun 2 t).wordTrap 2 t 0x01 (BitVec.ofInt 64 (firstOut ls r.toNat)) 0))
    ∧ (m.cnt = 0 → (s.begun 2 t).nestTrap false (wordOf (.mMma t n r)) = none →
      ∃ u g, exec (.mMma t n r) s = .next u ∧ u.piece.m.pc = s.piece.m.pc ∧ u.piece.mx.nest = some g ∧ u.piece.mx.cnt = 1
        ∧ g.todo = (List.range (n.toNat + 1)).flatMap fun k => [.popA, .pass (r.toNat + k)])
    ∧ (m.cnt ≠ 0 → SetsMatrix (.mMma t n r) s t { m with cnt := 0 })
    ∧ (m.cnt = 0 → m.res ≠ .none → ∃ u g, exec (.mDrn t n r) s = .next u ∧ u.piece.m.pc = s.piece.m.pc
        ∧ u.piece.mx.drains = [g] ∧ g.rows = (List.range (n.toNat + 1)).map (r.toNat + ·) ∧ g.tok = 0 ∧ u.piece.mx.cnt = 1)
    ∧ (m.cnt ≠ 0 → m.drains = [] → (s.begun 2 t).drainWritesDone = true → SetsMatrix (.mDrn t n r) s t { m with cnt := 0 })
    ∧ (m.cnt = 0 → s.piece.mw ≤ 16 → (∀ i, i < s.piece.mh → SMap.get none m.bindB i ≠ none) →
      ∃ u, exec (.mLdb t kr) s = .next u ∧ u.piece.m.pc = s.piece.m.pc ∧ u.piece.mx.cnt = 1
        ∧ ∀ i j, i < s.piece.mh → j < s.piece.mw → (u.piece.plane i j true).st = .loading)
    ∧ (m.cnt ≠ 0 → s.piece.mw ≤ 16 → (∀ i, i < s.piece.mh → (kr.toNat + 1) * s.piece.mw ≤ SMap.get 0 m.ldRow i) →
      ∃ u, exec (.mLdb t kr) s = .next u ∧ WordDone s u 2 t (s.piece.nextPc 2) ∧ u.piece.mx.cnt = 0
        ∧ ∀ i j, i < s.piece.mh → j < s.piece.mw →
          u.piece.plane i j true = fillPlane m.bfmt (kr.toNat + 1) (s.piece.plane i j true))
    ∧ (∀ s1 k, s.selHere x false = true → 8 * s.piece.mw ≤ m.cnt + 1 →
      (s.begun 2 t).mTake x 0 (wordOf (.mScl t x)) false = .tok s1 k →
      ∃ u, exec (.mScl t x) s = .next u ∧ WordDone s u 2 t (s.piece.nextPc 2) ∧ u.piece.mx.cnt = 0
        ∧ ∀ i, i < 16 → SMap.get wifOne u.piece.mx.scale (16 * m.cnt + i)
            = if (k.lane i).valid then (k.lane i).val else wifOne)

/-- A step of a nest (R224, R229): a pass adds into the lanes of its row what R139 gives and no other lane changes; a zero,
a swap, and the next pop of A rows act as R230 and R229 say; after the last action the nest is over. -/
def Sys2Proof.NestsPassPart : Prop :=
  ∀ (s : State) (p : Nat) (g : Nest) (rest : List NestAct), (s.pieceOf p).live = true → (s.pieceOf p).m.stopped = false →
    (s.pieceOf p).abort = none → (s.pieceOf p).mx.nest = some g → (s.pieceOf p).mw ≤ 16 →
    let q := s.pieceOf p
    (∀ r, g.todo = .pass r :: rest → r < 512 → (q.mx.bindC ≠ none → 128 * q.mw ≤ q.mx.crow.length) → q.badCell = none →
      q.badAcc r = none → ∃ u, exec (.nestPass p) s = .next u
        ∧ (∀ j c, j < q.mw → c < 128 → (u.pieceOf p).mx.accLane (accKey (q.mh - 1) j r c) = passedLane q s.fresh r j c)
        ∧ (∀ i j row c, j < 16 → row < 512 → c < 128 → i ≠ q.mh - 1 ∨ row ≠ r →
            (u.pieceOf p).mx.accLane (accKey i j row c) = q.mx.accLane (accKey i j row c))
        ∧ (∃ g', (u.pieceOf p).mx.nest = some g' ∧ g'.todo = rest)
        ∧ (u.pieceOf p).mx.planes = q.mx.planes ∧ (u.pieceOf p).regs = q.regs ∧ (∀ v a, u.byte v a = s.byte v a))
    ∧ (g.todo = .popA :: rest → ∃ u, exec (.nestPass p) s = .next u ∧ (u.pieceOf p).mx.arow = []
        ∧ (u.pieceOf p).mx.acc = q.mx.acc ∧ (u.pieceOf p).mx.nest = some { g with todo := .intake :: rest })
    ∧ (g.todo = .swap :: rest → q.swapReady = true → ∃ u, exec (.nestPass p) s = .next u
        ∧ (∀ i j, i < q.mh → j < q.mw → (u.pieceOf p).plane i j false = { q.plane i j true with fresh := false })
        ∧ (u.pieceOf p).mx.nest = some { g with todo := rest })
    ∧ (g.todo = [] → g.last = true → ∃ u, exec (.nestPass p) s = .next u ∧ (u.pieceOf p).mx.nest = none
        ∧ (u.pieceOf p).mx.acc = q.mx.acc)

/-- A token of a drain goes to its y queue (R225): kind data, the row as its tag, all lanes valid, each the lane of its
column in the drain's form; the accumulators are unchanged. -/
def Sys2Proof.DrainsPushPart : Prop :=
  ∀ (s : State) (p : Nat) (d : Drain) (row : Nat) (rows : List Nat) (x : BitVec 10) (n : Nat), (s.pieceOf p).live = true →
    (s.pieceOf p).m.stopped = false → (s.pieceOf p).abort = none → (s.pieceOf p).mx.drains = [d] → d.rows = row :: rows →
    (s.pieceOf p).mx.res = .sel x → selOf x = .y n → ((s.pieceOf p).yOf n).length < 16 →
    (∀ k, SMap.get false (s.pieceOf p).mx.accBad k = false) →
    let lanes : List LaneV := (List.range 16).map fun i => { valid := true, val := drainedLane (s.pieceOf p) row d.tok i }
    ∃ u, exec (.drainTokenPush p) s = .next u
      ∧ (u.pieceOf p).yOf n = (s.pieceOf p).yOf n ++ [{ kind := .data, tag := BitVec.ofNat 32 row, lanes := lanes }]
      ∧ (d.tok + 1 < 8 * (s.pieceOf p).mw → (u.pieceOf p).mx.drains = [{ d with tok := d.tok + 1 }])
      ∧ (8 * (s.pieceOf p).mw ≤ d.tok + 1 → (u.pieceOf p).mx.drains = if rows = [] then [] else [{ d with rows := rows, tok := 0 }])
      ∧ (u.pieceOf p).mx.acc = (s.pieceOf p).mx.acc ∧ (u.pieceOf p).regs = (s.pieceOf p).regs
      ∧ (∀ v a, u.byte v a = s.byte v a)

end

namespace Sys2Proof.Machine

/-! ## The fabric engine -/

/-- A word of F in a piece with a block can take its effect (R245). -/
structure CanF (s : State) (t : BitVec 4) : Prop where
  run : CanRun s 3 t
  block : s.piece.blk.side ≠ 0

/-- The words of F, with the tack field each is issued with: `f.kset` gives its tack later (R309). -/
def fabricRows (t : BitVec 4) (o : BitVec 21) (e n : BitVec 6) (k : BitVec 8) (l f : BitVec 3) (x y : BitVec 4) (w : BitVec 5) :
    List (Instr × BitVec 4) :=
  [(.fCfgl t o, t), (.fTurn t, t), (.fTurnNow t, t), (.fKset t e, t &&& 0b1011), (.fHem t k l e, t), (.fArm t, t), (.fStop t, t),
   (.fWdr t, t), (.fSink t y x n, t), (.fSinkClr t n, t), (.fTag t w f, t), (.fTagClr t, t), (.fTagSetClr t w f, t),
   (.fPleat t n y x, t)]

/-- A word of F completes with the block `b`; nothing else of the machine has changed. -/
def SetsBlock (i : Instr) (s : State) (t : BitVec 4) (b : Block) : Prop :=
  Completes i s 3 t (s.piece.f.pc + 4) { s.piece with blk := b } s

end Sys2Proof.Machine

section
open Sys2Proof Sys2Proof.Machine

/-- The words of F complete (R245, R246, R247, R250, R252, R253, R254, R255, R256): an accepted image is written
into the linings one plane a cycle, and the word retires with the last; a refused one changes none of them; `f.arm`, `f.sink`, `f.tag` and `f.pleat` set the state R247, R255, R254
and R256 name; `f.stop`, `f.wdr` and `f.hem` retire once what they wait for has come. In a piece with no block each raises
ILLEGAL. -/
def Sys2Proof.FabricWordsCompletePart : Prop :=
  ∀ (s : State) (t : BitVec 4) (o : BitVec 21) (e n : BitVec 6) (k : BitVec 8) (l f : BitVec 3) (x y : BitVec 4) (w : BitVec 5),
    (CanF s t →
      let b := s.piece.blk
      let s0 := s.begun 3 t
      let xy := elemIdx x.toNat y.toNat
      let put (b : Block) (i : Nat) (v : Elem) : Block := (({ s.piece with blk := b } : Piece).setElem i v).blk
      (s.piece.f.counted = false → b.turning = false → s0.depsMet s0.piece.f.deps = true → ∀ s1,
        (∀ m, s0.image (s0.fimg + BitVec.ofNat 64 (64 * o.toNat)) = .ok s1 m →
          ∃ u, exec (.fCfgl t o) s = .next u ∧ u.piece.f.pc = s.piece.f.pc ∧ u.piece.f.counted = true
            ∧ u.piece.blk = { s1.piece.blk with loading := m })
        ∧ (∀ c v z, s0.image (s0.fimg + BitVec.ofNat 64 (64 * o.toNat)) = .bad s1 c v z →
          exec (.fCfgl t o) s = .next (s1.wordTrap 3 t c v z) ∧ s1.piece.blk = b))
      ∧ (s.piece.f.counted = true → ∀ i pl rest, b.loading = (i, pl) :: rest →
        let b' : Block := { put b i { s.piece.elem i with lining := pl } with loading := rest }
        (rest = [] → SetsBlock (.fCfgl t o) s t b')
        ∧ (rest ≠ [] → ∃ u, exec (.fCfgl t o) s = .next u ∧ u.piece.blk = b' ∧ u.piece.f.pc = s.piece.f.pc ∧ OnlyPiece s u))
      ∧ (e.toNat < 4 * b.side → s.piece.portCls e.toNat = 1 ∨ s.piece.portCls e.toNat = 5 →
        Completes (.fKset t e) s 3 (t &&& 0b1011) (s.piece.f.pc + 4) (s.piece.setEdge e.toNat { s.piece.edge e.toNat with
          kset := (s.piece.edge e.toNat).kset ++ [if tackG t then some (tackP t, s0.piece.carry 3) else none] }) s)
      ∧ (s.piece.f.counted = false → e.toNat < 4 * b.side → s.piece.portCls e.toNat ≠ 0 →
        ∃ u, exec (.fHem t k l e) s = .next u ∧ u.piece.f.pc = s.piece.f.pc ∧ u.piece.f.counted = true
          ∧ (u.piece.edge e.toNat).hem = some (l.toNat, k.toNat) ∧ OnlyPiece s u)
      ∧ (s.piece.f.counted = true → (s.piece.edge e.toNat).hem = none → SetsBlock (.fHem t k l e) s t b)
      ∧ SetsBlock (.fArm t) s t { b with armed := true, armAt := if b.armed then b.armAt else s.time + 1 }
      ∧ (b.armed = true → ∃ u, exec (.fStop t) s = .next u ∧ u.piece.blk = { b with armed := false, stopAt := s.time + 1, lastMove := s.time }
          ∧ u.piece.f.pc = s.piece.f.pc)
      ∧ (b.armed = false → b.lastMove + 1 < s.time → s.nodesDone = true → SetsBlock (.fStop t) s t b)
      ∧ (b.turning = false → SetsBlock (.fWdr t) s t b)
      ∧ (x.toNat < b.side → y.toNat < b.side →
        SetsBlock (.fSink t y x n) s t { b with snk := SMap.set none b.snk n.toNat (some xy) })
      ∧ (SMap.get none b.snk n.toNat = none → SetsBlock (.fSinkClr t n) s t b)
      ∧ (∀ i, SMap.get none b.snk n.toNat = some i →
        SetsBlock (.fSinkClr t n) s t (put b i { s.piece.elem i with status := 0 }))
      ∧ (∀ c : Bool, (∀ i ∈ blockElems b.side, tagLayOk (setTagW (s.piece.layoutOf i) (f.toNat, w.toNat)) = true) →
        SetsBlock (if c then .fTagSetClr t w f else .fTag t w f) s t
          { b with tagOps := b.tagOps ++ [(s.time + 1, some (f.toNat, w.toNat), c)] })
      ∧ (∀ c : Bool, ∀ i ∈ blockElems b.side, tagLayOk (setTagW (s.piece.layoutOf i) (f.toNat, w.toNat)) = false →
        exec (if c then .fTagSetClr t w f else .fTag t w f) s
          = .next (s0.wordTrap 3 t 0x14 (wordOf (if c then .fTagSetClr t w f else .fTag t w f)) 0))
      ∧ SetsBlock (.fTagClr t) s t { b with tagOps := b.tagOps ++ [(s.time + 1, none, true)] }
      ∧ (x.toNat < b.side → y.toNat < b.side →
        let lining (i : Nat) : Plane := if i = xy then { (s.piece.elem i).lining with pleat := n.toNat + 1 } else (s.piece.elem i).lining
        (pleatOk b.side lining xy = true →
          SetsBlock (.fPleat t n y x) s t (put b xy { s.piece.elem xy with lining := lining xy }))
        ∧ (pleatOk b.side lining xy = false →
          exec (.fPleat t n y x) s = .next (s0.wordTrap 3 t 0x14 (wordOf (.fPleat t n y x)) 0))))
    ∧ (CanRun s 3 t → s.piece.blk.side = 0 → ∀ r ∈ fabricRows t o e n k l f x y w,
        exec r.1 s = .next (s.wordTrap 3 r.2 0x01 (wordOf r.1) 0))

/-- `f.turn` and `f.turn now` start a turn where none is in progress, and retire when no input edge port is still to insert
one (R248, R250): at the start every element of the block is to turn, and every input port waits for a hem of level 0, or,
with `now` or where its last token was one, inserts its turn at once. -/
def Sys2Proof.TurnsStartPart : Prop :=
  ∀ (s : State) (t : BitVec 4) (now : Bool), CanF s t →
    let i : Instr := if now then .fTurnNow t else .fTurn t
    let p := s.piece
    (p.f.counted = false → p.blk.turning = false → ∃ u, exec i s = .next u ∧ OnlyPiece s u
      ∧ u.piece.f.pc = p.f.pc ∧ u.piece.f.counted = true
      ∧ (∀ k ∈ p.turnPorts, (u.piece.edge k).mark = if now ∨ (p.edge k).lastHem0 then 2 else 1)
      ∧ (∀ k, k ∉ p.turnPorts → u.piece.edge k = p.edge k)
      ∧ (∀ e ∈ blockElems p.blk.side, (u.piece.elem e).turnDue = true ∧ (u.piece.elem e).face = (p.elem e).face
          ∧ (u.piece.elem e).lining = (p.elem e).lining)
      ∧ u.piece.regs = p.regs ∧ (∀ v a, u.byte v a = s.byte v a))
    ∧ (p.f.counted = false → p.blk.turning = true → ∃ u, exec i s = .next u ∧ u.piece.f.pc = p.f.pc ∧ u.piece.blk = p.blk)
    ∧ (p.f.counted = true → (∀ k ∈ p.turnPorts, (p.edge k).mark ≠ 1 ∧ (p.edge k).mark ≠ 2) →
      Completes i s 3 t (p.f.pc + 4) p s)

end

namespace Sys2Proof.Machine

/-! ## The elements of a block -/

/-- The element whose move is in focus. -/
def State.actor (s : State) : Elem := s.piece.elem s.focusE
/-- The face, or the pleat's, that it runs. -/
def State.facing (s : State) : PleatOf := s.piece.pleat s.focusE false

/-- The move `m` in focus fires in this step on the token `k` (R241): it is ready, its face reads without an error, its
element is awake, and a hem that advances the tag counter does not overflow it (R244). -/
structure CanFire (s : State) (m : Mv) (k : Token) : Prop where
  live : s.piece.live = true
  ready : s.piece.moveState s.focusE s.focusS m s.time = .ready k
  sound : s.planeBad s.focusE s.focusS = none
  awake : s.actor.gate = 0
  counts : k.kind = .hem → m.src < 4 → tagNext s.facing.plane.tagLay s.actor.tagCtr k.level.toNat ≠ none

/-- An element without what firing a move may change besides its effect. -/
def Elem.besidesMove (x : Elem) : Elem :=
  { x with ports := [], inb := [], ctlb := [], flight := [], tagCtr := 0, row0 := 0, cycle := 0, fired := 0, nextSlot := 0
           usedSrc := [], usedDst := [], started := [], idle := 0 }

/-- The move `m` has fired on `k`: its source is taken unless it is read in place, the ports of `gone` are empty, no port
but these and those of `put` has changed, the operations `fl` have started, and the element is as `y` besides. No other
element and nothing else of the machine has changed. -/
structure Fired (s u : State) (m : Mv) (k : Token) (gone put : List Nat) (y : Elem) (fl : List Flight) : Prop where
  only : OnlyPiece s u
  rest : { u.piece with blk := {}, moved := false } = { s.piece with blk := {}, moved := false }
  block : { u.piece.blk with elems := [], lastMove := 0 } = { s.piece.blk with elems := [], lastMove := 0 }
  others : ∀ i, i ≠ s.focusE → u.piece.elem i = s.piece.elem i
  elem : u.actor.besidesMove = y.besidesMove
  flight : u.actor.flight = s.actor.flight ++ fl
  taken : (m.src < 4 → u.actor.buf (s.facing.inKey m.src) = (s.actor.buf (s.facing.inKey m.src)).tail)
    ∧ (22 < m.src → m.src ∉ put → (u.actor.port m.src).tok = none) ∧ ∀ c ∈ gone, (u.actor.port c).tok = none
  inPlace : 10 ≤ m.src → m.src ≤ 21 → m.src ∉ put → m.src ∉ gone → u.actor.port m.src = s.actor.port m.src
  ports : ∀ c, c ≠ m.src → c ∉ gone → c ∉ put → u.actor.port c = s.actor.port c
  bufs : ∀ d, (4 ≤ m.src ∨ d ≠ s.facing.inKey m.src) → u.actor.buf d = s.actor.buf d
  ctl : m.src ≠ 8 → m.g ≠ 1 → m.g ≠ 2 → u.actor.ctlb = s.actor.ctlb
  counter : u.actor.tagCtr = if k.kind = .hem ∧ m.src < 4 ∧ s.facing.plane.tagIn = some m.src then
      (tagNext s.facing.plane.tagLay s.actor.tagCtr k.level.toNat).getD 0 else s.actor.tagCtr

/-- An operation starts on `k` and is to deliver `outs` one after the other, a cycle apart, from `lat` cycles on (R257); its
operand ports are empty. -/
def Starts (i : Instr) (s : State) (m : Mv) (k : Token) (gone : List Nat) (y : Elem) (lat : Nat) (outs : List (List (Nat × Token))) :
    Prop := ∃ u, exec i s = .next u ∧ Fired s u m k gone [] y (flightsFrom m.dst (s.time + lat) outs)

/-- A result computed lane by lane: kind, level, tag and coordinates of the first operand; a lane is valid where every lane
it reads is, and else zero (R257). -/
def laneResult (a : Token) (ok : Nat → Bool) (f : Nat → Lane) : Token :=
  { a with lanes := (List.range 16).map fun i =>
      if (a.lane i).valid && ok i then { valid := true, val := f i, coord := (a.lane i).coord } else {} }

/-- The flags of the valid lanes of a result. -/
def laneFlags (a : Token) (ok : Nat → Bool) (f : Nat → FFlags) : FFlags :=
  (List.range 16).foldl (fun fl i => if (a.lane i).valid && ok i then fl ||| f i else fl) 0

/-- An operation on 32-bit integers as one on lanes (R121, R258): bits [31:0] are read, and the result is sign-extended. -/
def alu32 (f : Word32 → Word32 → Word32) (a b : Lane) : Lane × FFlags :=
  ((f (a.setWidth 32) (b.setWidth 32)).signExtend 40, 0)
/-- A lane as a signed integer. -/
def int32 (a : Lane) : Int := (a.setWidth 32 : Word32).toInt

/-- The binary operations: member of its family, operand port, result port, latency and result (R258, R259). -/
def binaryRows (g : BitVec 3) (s : BitVec 6) (l : BitVec 4) (t : BitVec 2) (i : BitVec 8) :
    List (Instr × (Nat × Nat) × (Nat × Nat) × Nat × (Lane → Lane → Lane × FFlags)) :=
  let flag (f : Word32 → Word32 → Bool) : Lane → Lane → Lane × FFlags := alu32 fun x y => if f x y then 1 else 0
  [(.add g s l t i, (48, 0), (24, 26), 1, alu32 (· + ·)), (.sub g s l t i, (48, 1), (24, 26), 1, alu32 (· - ·)),
   (.and g s l t i, (48, 2), (24, 26), 1, alu32 (· &&& ·)), (.or g s l t i, (48, 3), (24, 26), 1, alu32 (· ||| ·)),
   (.xor g s l t i, (48, 4), (24, 26), 1, alu32 (· ^^^ ·)),
   (.shl g s l t i, (48, 5), (24, 26), 1, alu32 fun x y => x <<< (y.toNat % 32)),
   (.shr g s l t i, (48, 6), (24, 26), 1, alu32 fun x y => x >>> (y.toNat % 32)),
   (.sar g s l t i, (48, 7), (24, 26), 1, alu32 fun x y => x.sshiftRight (y.toNat % 32)),
   (.min g s l t i, (49, 0), (24, 26), 1, alu32 fun x y => if x.toInt ≤ y.toInt then x else y),
   (.max g s l t i, (49, 1), (24, 26), 1, alu32 fun x y => if x.toInt ≤ y.toInt then y else x),
   (.ceq g s l t i, (49, 2), (24, 26), 1, flag fun x y => x == y),
   (.clt g s l t i, (49, 3), (24, 26), 1, flag fun x y => decide (x.toInt < y.toInt)),
   (.cle g s l t i, (49, 4), (24, 26), 1, flag fun x y => decide (x.toInt ≤ y.toInt)),
   (.adds g s l t i, (49, 5), (24, 26), 1, fun a b => satI32 (int32 a + int32 b)),
   (.subs g s l t i, (49, 6), (24, 26), 1, fun a b => satI32 (int32 a - int32 b)),
   (.fadd g s l t i, (51, 0), (27, 29), 4, wifAdd), (.fsub g s l t i, (51, 1), (27, 29), 4, wifSub),
   (.fmul g s l t i, (51, 2), (27, 29), 4, wifMul), (.fmin g s l t i, (51, 5), (27, 29), 4, fun a b => (wifMin a b, 0)),
   (.fmax g s l t i, (51, 6), (27, 29), 4, fun a b => (wifMax a b, 0)),
   (.fclt g s l t i, (52, 0), (27, 29), 4, fun a b => (wifCmp 0 a b, 0)),
   (.fcle g s l t i, (52, 1), (27, 29), 4, fun a b => (wifCmp 1 a b, 0)),
   (.fceq g s l t i, (52, 2), (27, 29), 4, fun a b => (wifCmp 2 a b, 0))]

/-- The second operand of a binary operation by its IMM form (R156): a port, an integer, or a constant. -/
def secondLane (f : Plane) (x : Elem) (port imm : Nat) (n : Nat) : LaneV :=
  match imm / 64 with
  | 0 => (((x.port port).tok).getD {}).lane n
  | 1 => { valid := true, val := if port = 27 then (roundDyadic (BitVec.ofNat 6 imm).toInt 0).1 else (BitVec.ofNat 6 imm).signExtend 40 }
  | _ => { valid := true, val := (f.const (imm % 8)).setWidth 40 }

/-- The operations of one operand (R258, R259, R260). -/
def unaryLaneRows (f : Plane) (g : BitVec 3) (s : BitVec 6) (l : BitVec 4) (t : BitVec 2) (k h lo : BitVec 3) (r : BitVec 5) :
    List (Instr × Mv × Nat × Nat × (Lane → Lane × FFlags)) :=
  let m (dst var : Nat) : Mv := opMv dst var g s l t 0
  let c (n : BitVec 3) : Lane := (f.const n.toNat).setWidth 40
  [(.abs g s l t, m 50 1, 26, 1, fun a => satI32 (int32 a).natAbs), (.neg g s l t, m 50 2, 26, 1, fun a => satI32 (-int32 a)),
   (.cvtIf g s l t, m 50 3, 26, 2, cvtIF), (.cvtFi g s l t, m 50 4, 26, 2, cvtFI),
   (.exp2 g s l t, m 53 0, 30, 8, sfuExp2), (.log2 g s l t, m 53 1, 30, 8, sfuLog2), (.rcp g s l t, m 53 2, 30, 8, sfuRcp),
   (.rsqrt g s l t, m 53 3, 30, 8, sfuRsqrt), (.sqrt g s l t, m 53 4, 30, 8, sfuSqrt), (.tanh g s l t, m 53 5, 30, 8, sfuTanh),
   (.sigm g s l t, m 53 6, 30, 8, sfuSigm),
   (.mulsr g s l t k r, opMv 49 7 g s l t (k.toNat * 32 + r.toNat), 26, 2, fun a =>
     let p := int32 a * ((f.const k.toNat).setWidth 32 : Word32).toInt
     let q := rshRne p r.toNat
     ((satI32 q).1, if q * 2 ^ r.toNat = p then (satI32 q).2 else (satI32 q).2 ||| flNX)),
   (.fclip g s l t h lo, opMv 51 7 g s l t (h.toNat * 8 + lo.toNat), 29, 4, fun a => match wifVal a with
     | .nan z => (wifNan z, 0)
     | _ => (wifMin (wifMax a (c lo)) (c h), 0))]

/-! ### Reductions and the exchange unit -/

/-- A token whose lane 0 alone is valid, with a value. -/
def inLane0 (a : Token) (v : Option Lane) : Token :=
  { a with lanes := (match v with
      | some v => { valid := true, val := v, coord := (a.lane 0).coord }
      | none => {}) :: List.replicate 15 {} }
/-- The values of the valid lanes, in lane order. -/
def validVals (a : Token) : List Lane := (a.lanes.filter (·.valid)).map (·.val)
/-- The addition of a reduction in its form: int32 with saturation, or wif. -/
def addIn (int : Bool) (a b : Lane) : Lane := if int then (satI32 (int32 a + int32 b)).1 else (wifAdd a b).1
/-- The maximum of a reduction in its form. -/
def maxIn (int : Bool) (a b : Lane) : Lane :=
  if int then (if int32 a ≤ int32 b then b.setWidth 32 else (a.setWidth 32 : Word32)).signExtend 40 else wifMax a b
/-- The minimum of a reduction in its form. -/
def minIn (int : Bool) (a b : Lane) : Lane :=
  if int then (if int32 a ≤ int32 b then (a.setWidth 32 : Word32) else b.setWidth 32).signExtend 40 else wifMin a b
/-- A lane read in a reduction's form. -/
def readIn (int : Bool) (a : Lane) : Lane := if int then (a.setWidth 32 : Word32).signExtend 40 else a
/-- A fold of the valid lanes from the first. -/
def foldIn (f : Lane → Lane → Lane) : List Lane → Option Lane
  | [] => none
  | v :: vs => some (vs.foldl f v)

/-- The lane a fibre's running sum stands at: of the open fibre, or its start from `red.b` or the default (R261). -/
def runLane (opened : Bool) (held : List LaneV) (b : Option Token) (start : Lane) (n : Nat) : LaneV :=
  if opened then nth {} held n
  else match b with
    | some t => if (t.lane n).valid then { valid := true, val := (t.lane n).val } else { val := start }
    | none => { val := start }
/-- The token at `red.b` that a fibre starts from, where the face writes that port. -/
def redB (s : State) (opened : Bool) : Option Token :=
  if !opened && s.facing.plane.writes 31 then some (((s.actor.port 31).tok).getD {}) else none
/-- What stands at `red.b` where a fibre starts pairs with the first operand (R257, R261; log 65, DEDUCED: a data token there
starts the empty fibre that a hem closes). -/
def RedPairs (s : State) (opened : Bool) (k : Token) : Prop :=
  ∀ b, redB s opened = some b → if k.kind = .hem then b.kind = .hem → b.level = k.level else b.kind ≠ .hem
/-- The ports a reduction empties at a fibre's start. -/
def redGone (s : State) (opened : Bool) : List Nat := if !opened && s.facing.plane.writes 31 then [31] else []

end Sys2Proof.Machine

section
open Sys2Proof Sys2Proof.Machine

/-- A move to a port that starts nothing fires (R241, R243, R255): the shaped token stands at the port for the next cycle;
`st1` takes a row, `snk` updates the status word, `nul` discards. -/
def Obligations.MovesWriteTheirPort : Prop :=
  ∀ (s : State) (g : BitVec 3) (src dst : BitVec 6) (l : BitVec 4) (t : BitVec 2) (k : Token),
    let m := opMv dst.toNat 0 g src l t 0
    let d := dst.toNat
    let a := m.shape s.actor.tagCtr k
    let x := s.actor
    CanFire s m k →
    (4 ≤ d → d ≤ 7 → ∃ u, exec (.move g src dst l t) s = .next u ∧ Fired s u m k [] [s.facing.outKey (d - 4)] x []
        ∧ u.actor.port (s.facing.outKey (d - 4)) = { tok := some a, avail := s.time + 1, slot := s.focusS })
    ∧ (d = 9 → ∃ u y, exec (.move g src dst l t) s = .next u ∧ Fired s u m k [] [] y []
        ∧ y = { x with status := sinkWord x.status a })
    ∧ (d = 23 → ∃ u y, exec (.move g src dst l t) s = .next u ∧ Fired s u m k [] [] y []
        ∧ (∀ n, SMap.get none y.st1 n = if n / 16 = x.row1 then some (a.lane (n % 16)).val else SMap.get none x.st1 n)
        ∧ y = { x with st1 := y.st1, row1 := (x.row1 + 1) % 16 })
    ∧ (18 ≤ d → d ≤ 21 → ∃ u, exec (.move g src dst l t) s = .next u ∧ Fired s u m k [] [d] x []
        ∧ (u.actor.port d).tok = some a ∧ (u.actor.port d).avail = s.time + 1 ∧ (u.actor.port d).old = (x.port d).seen s.time)
    ∧ (d = 42 → ∃ u, exec (.move g src dst l t) s = .next u ∧ Fired s u m k [] [] x [])
    ∧ (d ∈ [24, 25, 27, 28, 31, 33, 34, 37] → src.toNat ≠ d → ∃ u, exec (.move g src dst l t) s = .next u
        ∧ Fired s u m k [] [d] x [] ∧ u.actor.port d = { tok := some a, avail := s.time + 1, slot := s.focusS })

/-- The ALU, FMU and SFU operations start (R257 to R260): the result is computed lane by lane and leaves at its port after
the latency; a hem passes, and one that meets anything but a hem of its level raises FORMAT. -/
def Obligations.LaneOperationsStart : Prop :=
  ∀ (s : State) (g : BitVec 3) (src : BitVec 6) (l : BitVec 4) (t : BitVec 2) (i : BitVec 8) (c h lo : BitVec 3) (r : BitVec 5) (k : Token),
    let x := s.actor
    (i.toNat < 192 → ∀ w ∈ binaryRows g src l t i,
      let m := opMv w.2.1.1 w.2.1.2 g src l t i.toNat
      let a := m.shape x.tagCtr k
      let b := secondLane s.facing.plane x w.2.2.1.1 i.toNat
      let gone := if i.toNat < 64 then [w.2.2.1.1] else []
      CanFire s m k →
      (k.kind ≠ .hem → (i.toNat < 64 → (((x.port w.2.2.1.1).tok).getD {}).kind ≠ .hem) →
        ∃ u, exec w.1 s = .next u ∧ Fired s u m k gone [] x
          [{ fam := m.dst, due := s.time + w.2.2.2.1
             outs := [(w.2.2.1.2, laneResult a (fun n => (b n).valid) fun n => (w.2.2.2.2 (a.lane n).val (b n).val).1)]
             fl := laneFlags a (fun n => (b n).valid) fun n => (w.2.2.2.2 (a.lane n).val (b n).val).2 }])
      ∧ (k.kind = .hem → (i.toNat < 64 → (((x.port w.2.2.1.1).tok).getD {}).kind = .hem
            ∧ (((x.port w.2.2.1.1).tok).getD {}).level = k.level) →
        Starts w.1 s m k gone x w.2.2.2.1 [[(w.2.2.1.2, a)]])
      ∧ (∀ z, i.toNat < 64 → (x.port w.2.2.1.1).tok = some z → ((k.kind = .hem) ≠ (z.kind = .hem)) →
        exec w.1 s = .next (s.elemTrap s.focusE 0x15 (kindLevel a z) m.dst s.focusS)))
    ∧ (∀ w ∈ unaryLaneRows s.facing.plane g src l t c h lo r,
      let a := w.2.1.shape x.tagCtr k
      CanFire s w.2.1 k →
      (k.kind ≠ .hem → ∃ u, exec w.1 s = .next u ∧ Fired s u w.2.1 k [] [] x
          [{ fam := w.2.1.dst, due := s.time + w.2.2.2.1
             outs := [(w.2.2.1, laneResult a (fun _ => true) fun n => (w.2.2.2.2 (a.lane n).val).1)]
             fl := laneFlags a (fun _ => true) fun n => (w.2.2.2.2 (a.lane n).val).2 }])
      ∧ (k.kind = .hem → Starts w.1 s w.2.1 k [] x w.2.2.2.1 [[(w.2.2.1, a)]]))
    ∧ (∀ w ∈ [(Instr.fma g src l t, 3, wifFma), (.fnma g src l t, 4, wifFnma)],
      let m := opMv 51 w.2.1 g src l t 0
      let a := m.shape x.tagCtr k
      let b := ((x.port 27).tok).getD {}
      let z := ((x.port 28).tok).getD {}
      CanFire s m k → k.kind ≠ .hem → b.kind ≠ .hem → z.kind ≠ .hem →
        ∃ u, exec w.1 s = .next u ∧ Fired s u m k [27, 28] [] x
          [{ fam := 51, due := s.time + 4
             outs := [(29, laneResult a (fun n => (b.lane n).valid && (z.lane n).valid)
               fun n => (w.2.2 (a.lane n).val (b.lane n).val (z.lane n).val).1)]
             fl := laneFlags a (fun n => (b.lane n).valid && (z.lane n).valid)
               fun n => (w.2.2 (a.lane n).val (b.lane n).val (z.lane n).val).2 }])
    ∧ (k.kind = .hem → ∀ w ∈ [(Instr.fma g src l t, opMv 51 3 g src l t 0, [27, 28], 4, 29),
        (.fnma g src l t, opMv 51 4 g src l t 0, [27, 28], 4, 29), (.sel g src l t, opMv 50 0 g src l t 0, [24, 25], 1, 26)],
      CanFire s w.2.1 k → (∀ p ∈ w.2.2.1, ∀ z, (x.port p).tok = some z → z.kind = .hem ∧ z.level = k.level) →
        Starts w.1 s w.2.1 k w.2.2.1 x w.2.2.2.1 [[(w.2.2.2.2, w.2.1.shape x.tagCtr k)]])
    ∧ (let m := opMv 50 0 g src l t 0
      let a := m.shape x.tagCtr k
      let pick (n : Nat) : LaneV := ((if ((a.lane n).val.setWidth 32 : Word32) = 0 then (x.port 25).tok else (x.port 24).tok).getD {}).lane n
      CanFire s m k → k.kind ≠ .hem → (∀ p ∈ [24, 25], (((x.port p).tok).getD {}).kind ≠ .hem) →
        Starts (.sel g src l t) s m k [24, 25] x 1 [[(26, laneResult a (fun n => (pick n).valid) fun n => (pick n).val)]])
    ∧ (let m := opMv 50 5 g src l t 0
      CanFire s m k → Starts (.pass g src l t) s m k [] x 1 [[(26, m.shape x.tagCtr k)]])

/-- The reductions start (R261): `lsum`, `lmax`, `lmin` and `cnt` give lane 0, in lane order; `acc` and `accm` keep a running
sum or maximum of each lane and give it at a hem, before the hem; `scan` gives the running sum through each lane. A hem at `red.b`
that meets anything but a hem of its level raises FORMAT. -/
def Obligations.ReductionsStart : Prop :=
  ∀ (s : State) (g : BitVec 3) (src : BitVec 6) (l : BitVec 4) (t : BitVec 2) (f : BitVec 1) (k : Token),
    let x := s.actor
    let int := f == 1
    let m (v : Nat) : Mv := opMv 54 v g src l t f.toNat
    let a (v : Nat) : Token := (m v).shape x.tagCtr k
    let vs (v : Nat) : List Lane := (validVals (a v)).map (readIn int)
    (k.kind ≠ .hem →
      (∀ w ∈ [(Instr.lsum g src l t f, 0, some ((foldIn (addIn int) (vs 0)).getD 0)),
              (.lmax g src l t f, 1, foldIn (maxIn int) (vs 1)), (.lmin g src l t f, 2, foldIn (minIn int) (vs 2))],
        CanFire s (m w.2.1) k → ∃ u fl, exec w.1 s = .next u ∧ Fired s u (m w.2.1) k [] [] x
          [{ fam := 54, due := s.time + 4, outs := [(32, inLane0 (a w.2.1) w.2.2)], fl := fl }])
      ∧ (let n := opMv 54 3 g src l t 0
        CanFire s n k → Starts (.cnt g src l t) s n k [] x 1
          [[(32, inLane0 (n.shape x.tagCtr k) (some ((BitVec.ofNat 32 (validVals (n.shape x.tagCtr k)).length).signExtend 40)))]])
      ∧ (CanFire s (m 4) k → RedPairs s x.part.accOpen k → ∃ u y fl, exec (.acc g src l t f) s = .next u ∧ Fired s u (m 4) k (redGone s x.part.accOpen) [] y fl
          ∧ (∀ z ∈ fl, z.outs = []) ∧ y = { x with part := { x.part with accOpen := true, accLanes := y.part.accLanes } }
          ∧ ∀ n, n < 16 →
            let h := runLane x.part.accOpen x.part.accLanes (redB s x.part.accOpen) 0 n
            nth {} y.part.accLanes n = if ((a 4).lane n).valid then { valid := true, val := addIn int h.val ((a 4).lane n).val }
              else if x.part.accOpen then nth {} x.part.accLanes n else { valid := h.valid, val := h.val })
      ∧ (CanFire s (m 5) k → RedPairs s x.part.accmOpen k → ∃ u y, exec (.accm g src l t f) s = .next u ∧ Fired s u (m 5) k (redGone s x.part.accmOpen) [] y []
          ∧ y = { x with part := { x.part with accmOpen := true, accmLanes := y.part.accmLanes } }
          ∧ ∀ n, n < 16 →
            let h := runLane x.part.accmOpen x.part.accmLanes (redB s x.part.accmOpen)
              (if int then BitVec.ofInt 40 (-2147483648) else wifInf true) n
            nth {} y.part.accmLanes n = if ((a 5).lane n).valid then { valid := true, val := maxIn int h.val ((a 5).lane n).val }
              else if x.part.accmOpen then nth {} x.part.accmLanes n else { valid := h.valid, val := h.val })
      ∧ (CanFire s (m 6) k → RedPairs s x.part.scanOpen k → (a 6).lanes.length = 16 →
          let start := if x.part.scanOpen then x.part.scanSum else ((redB s x.part.scanOpen).map fun b =>
            if (b.lane 0).valid then (b.lane 0).val else 0).getD 0
          let upTo (n : Nat) : Lane := (validVals { lanes := (a 6).lanes.take n }).foldl (addIn int) start
          ∃ u y fl, exec (.scan g src l t f) s = .next u ∧ Fired s u (m 6) k (redGone s x.part.scanOpen) [] y
              [{ fam := 54, due := s.time + 5, fl := fl, outs := [(32, { a 6 with lanes := (List.range 16).map fun n =>
                if ((a 6).lane n).valid then { (a 6).lane n with val := upTo (n + 1) } else {} })] }]
            ∧ y = { x with part := { x.part with scanOpen := true, scanSum := upTo 16 } }))
    ∧ (k.kind = .hem →
      (∀ w ∈ [(Instr.lsum g src l t f, m 0, 4), (.lmax g src l t f, m 1, 4), (.lmin g src l t f, m 2, 4),
              (.cnt g src l t, opMv 54 3 g src l t 0, 1)],
        CanFire s w.2.1 k → Starts w.1 s w.2.1 k [] x w.2.2 [[(32, w.2.1.shape x.tagCtr k)]])
      ∧ (CanFire s (m 4) k → RedPairs s x.part.accOpen k → (x.part.accOpen = true → x.part.accLanes.length = 16) →
        let sums := (List.range 16).map fun n => runLane x.part.accOpen x.part.accLanes (redB s x.part.accOpen) 0 n
        Starts (.acc g src l t f) s (m 4) k (redGone s x.part.accOpen)
          { x with part := { x.part with accOpen := false, accLanes := [] } } 4
          [[(32, { lanes := sums.map fun v => if v.valid then { valid := true, val := v.val } else {} })], [(32, a 4)]])
      ∧ (CanFire s (m 5) k → RedPairs s x.part.accmOpen k → (x.part.accmOpen = true → x.part.accmLanes.length = 16) →
        let maxs := (List.range 16).map fun n => runLane x.part.accmOpen x.part.accmLanes (redB s x.part.accmOpen)
          (if int then BitVec.ofInt 40 (-2147483648) else wifInf true) n
        Starts (.accm g src l t f) s (m 5) k (redGone s x.part.accmOpen)
          { x with part := { x.part with accmOpen := false, accmLanes := [] } } 2
          [[(32, { lanes := maxs.map fun v => if v.valid then { valid := true, val := v.val } else {} })], [(32, a 5)]])
      ∧ (CanFire s (m 6) k → RedPairs s x.part.scanOpen k → Starts (.scan g src l t f) s (m 6) k (redGone s x.part.scanOpen)
          { x with part := { x.part with scanOpen := false, scanSum := 0 } } 5 [[(32, a 6)]]))
    ∧ (∀ w ∈ [(Instr.acc g src l t f, 4, x.part.accOpen), (.accm g src l t f, 5, x.part.accmOpen), (.scan g src l t f, 6, x.part.scanOpen)],
      CanFire s (m w.2.1) k → ∀ b, redB s w.2.2 = some b →
        ((k.kind ≠ .hem ∧ b.kind = .hem) ∨ (k.kind = .hem ∧ b.kind = .hem ∧ b.level ≠ k.level)) →
        exec w.1 s = .next (s.elemTrap s.focusE 0x15 (kindLevel (a w.2.1) b) 54 s.focusS))

end

namespace Sys2Proof.Machine

/-- Lane `j` of a sequence of tokens of 16 lanes each. -/
def laneOf (ts : List Token) (j : Nat) : LaneV := (nth {} ts (j / 16)).lane (j % 16)

/-- The tokens of operands at ports pair with the first operand (R257): all hems of its level, or none a hem. -/
def Pairs (x : Elem) (k : Token) (ports : List Nat) : Prop :=
  ∀ p ∈ ports, ∀ z, (x.port p).tok = some z → (k.kind = .hem → z.kind = .hem ∧ z.level = k.level) ∧ (k.kind ≠ .hem → z.kind ≠ .hem)

/-- The address a memory node gives a lane (R270): c6 plus the stride of c7 times an index. -/
def nodeAdr (f : Plane) (k : Int) : W64 := f.const 6 + BitVec.ofInt 64 ((((f.const 7).extractLsb' 8 32 : Word32).toInt) * k)
/-- The element format and the swizzle mode of a memory node. -/
def nodeFmt (f : Plane) : Nat := (f.const 7).toNat % 16
/-- The swizzle mode. -/
def nodeSwz (f : Plane) : Nat := (f.const 7).toNat / 16 % 8

end Sys2Proof.Machine

section
open Sys2Proof Sys2Proof.Machine

/-- `pack`, `unpk`, `steer`, `mrg`, `dup`, `tile` and `swst` start (R262, R266, R269) and give the tokens these rules name; a
hem flushes what `pack` holds and passes. -/
def Sys2Proof.ExchangeOperationsStartPart : Prop :=
  ∀ (s : State) (g : BitVec 3) (src : BitVec 6) (l : BitVec 4) (t : BitVec 2) (z c : BitVec 1) (k : Token),
    let x := s.actor
    let m (v i : Nat) : Mv := opMv 55 v g src l t i
    let m1 (v i : Nat) : Mv := opMv 56 v g src l t i
    let a (n : Mv) : Token := n.shape x.tagCtr k
    let at_ (p : Nat) : Token := ((x.port p).tok).getD {}
    let low (v : LaneV) : Word32 := v.val.setWidth 32
    (let n := m 0 (c.toNat + 2 * z.toNat);
      CanFire s n k →
      (k.kind = .hem → Starts (.pack g src l t z c) s n k [] { x with part := { x.part with packLanes := [], packPos := 0 } } 2
        ((if x.part.packLanes = [] then [] else [[(35, laneList x.part.packKind x.part.packLanes)]]) ++ [[(35, a n)]]))
      ∧ (k.kind ≠ .hem →
        let vs := (a n).lanes.filter (·.valid)
        let placed := vs.mapIdx fun i v => if c = 1 then { v with coord := BitVec.ofNat 32 (x.part.packPos + i) } else v
        let ls := x.part.packLanes ++ placed.filter fun v => !(z == 1 && v.val.toNat % 2 ^ 39 == 0)
        let kind := (if c = 1 then TokKind.sparse else k.kind)
        Starts (.pack g src l t z c) s n k [] { x with part := { x.part with
            packLanes := if 16 ≤ ls.length then ls.drop 16 else ls, packPos := x.part.packPos + vs.length, packKind := kind } } 2
          (if 16 ≤ ls.length then [[(35, laneList kind (ls.take 16))]] else [])))
    ∧ (CanFire s (m 1 0) k →
      (k.kind ≠ .hem → Starts (.unpk g src l t) s (m 1 0) k [] x 1 (((a (m 1 0)).lanes.filter (·.valid)).map fun v =>
        [(35, { a (m 1 0) with lanes := v :: List.replicate 15 {} })]))
      ∧ (k.kind = .hem → Starts (.unpk g src l t) s (m 1 0) k [] x 1 [[(35, a (m 1 0))]]))
    ∧ (CanFire s (m 5 0) k → Pairs x k [33] → Starts (.steer g src l t) s (m 5 0) k [33] x 1
        [if k.kind = .hem then [(35, a (m 5 0)), (36, a (m 5 0))]
         else if low ((at_ 33).lane 0) = 0 then [(35, a (m 5 0))] else [(36, a (m 5 0))]])
    ∧ (CanFire s (m 6 0) k →
      (k.kind = .hem → Pairs x k [33, 34] → Starts (.mrg g src l t) s (m 6 0) k [33, 34] x 1 [[(35, a (m 6 0))]])
      ∧ (k.kind ≠ .hem →
        let port := if low ((a (m 6 0)).lane 0) = 0 then 33 else 34
        Starts (.mrg g src l t) s (m 6 0) k [port] x 1 [[(35, at_ port)]]))
    ∧ (CanFire s (m 7 0) k → Starts (.dup g src l t) s (m 7 0) k [] x 1 [[(35, a (m 7 0)), (36, a (m 7 0))]])
    ∧ (let n := m1 2 c.toNat
      let gone := if c = 1 then [33] else []
      CanFire s n k → Pairs x k gone →
      (k.kind = .hem → Starts (.tile g src l t c) s n k gone x 18 [[(35, a n)]])
      ∧ (k.kind ≠ .hem → ∃ u fl, exec (.tile g src l t c) s = .next u ∧ Fired s u n k gone [] { x with tileBusy := s.time + 16 }
        [{ fam := 58, due := s.time + 18, fl := fl
           outs := [(35, { a n with lanes := (List.range 16).map fun j =>
             { valid := true, coord := ((a n).lane j).coord
               val := (List.range 16).foldl (fun v i => if ((a n).lane i).valid then
                   (wifFma ((a n).lane i).val (tileLane x.st0 s.piece.mx.epoch s.focusE (if x.stPar then 1 else 0) (16 * i + j)) v).1
                 else v) (if c = 1 then (if ((at_ 33).lane j).valid then ((at_ 33).lane j).val else 0) else 0) } })] }]))
    ∧ (CanFire s (m1 3 0) k → Starts (.swst g src l t) s (m1 3 0) k [] x 1 [[(22, a (m1 3 0))]])

/-- `reord`, `topk`, `spa`, `merge2`, `union` and the isect pair start (R263, R264, R265, R267, R268): `reord` gives its full
batches, lane j the lane R263 names; `topk` ranks and `spa` adds, and both give what they hold at the hem; the merging
operations take a token at each input, check it, and give what can be placed. -/
def Sys2Proof.HoldingOperationsStartPart : Prop :=
  ∀ (s : State) (g : BitVec 3) (src : BitVec 6) (l : BitVec 4) (t : BitVec 2) (c : BitVec 3) (n : BitVec 7) (k : Token),
    let x := s.actor
    let a (m : Mv) : Token := m.shape x.tagCtr k
    (let m := opMv 55 2 g src l t c.toNat
      let v := (s.facing.plane.const c.toNat).toNat
      let n0 := v % 64 + 1
      let n1 := v / 2 ^ 6 % 64 + 1
      let n2 := v / 2 ^ 12 % 64 + 1
      let L := n0 * n1 * n2
      let idx (j : Nat) : Nat := j % n0 * (v / 2 ^ 18 % 1024) + j / n0 % n1 * (v / 2 ^ 28 % 1024) + j / (n0 * n1) * (v / 2 ^ 38 % 1024)
      let T := (L + 15) / 16
      let ls := if k.kind = .hem then x.part.reord else x.part.reord ++ (a m).lanes
      let N := if k.kind = .hem then (ls.length + L - 1) / L else ls.length / L
      CanFire s m k →
      ((L ≤ 1024 ∧ v < 2 ^ 48 ∧ (n0 - 1) * (v / 2 ^ 18 % 1024) + (n1 - 1) * (v / 2 ^ 28 % 1024) + (n2 - 1) * (v / 2 ^ 38 % 1024) < L) →
        ∃ ts : List Token, Starts (.reord g src l t c) s m k []
            { x with part := { x.part with reord := ls.drop (N * L), reordKind := if k.kind = .hem then x.part.reordKind else k.kind } } 2
            (ts.map (fun y => [(35, y)]) ++ if k.kind = .hem then [[(35, a m)]] else [])
          ∧ ts.length = N * T
          ∧ ∀ b j, b < N → j < L → laneOf ts (b * T * 16 + j) = nth {} ls (b * L + idx j))
      ∧ (¬(L ≤ 1024 ∧ v < 2 ^ 48 ∧ (n0 - 1) * (v / 2 ^ 18 % 1024) + (n1 - 1) * (v / 2 ^ 28 % 1024) + (n2 - 1) * (v / 2 ^ 38 % 1024) < L) → exec (.reord g src l t c) s
          = .next (s.elemTrap s.focusE 0x14 (s.facing.plane.const c.toNat) 55 s.focusS)))
    ∧ (let m := opMv 56 0 g src l t n.toNat
      CanFire s m k →
      (k.kind ≠ .hem →
        let r := topLanes (k.kind != .sparse) (a m).lanes x.part.topPos x.part.topk
        Starts (.topk g src l t n) s m k [] { x with part := { x.part with topk := r.1, topPos := r.2, topOpen := true } } 4 [])
      ∧ (k.kind = .hem →
        let es := x.part.topk.take n.toNat
        ∃ ts : List Token, Starts (.topk g src l t n) s m k [] { x with part := { x.part with topk := [], topPos := 0, topOpen := false } } 4
            (ts.map (fun y => [(35, y)])
              ++ [[(18, { kind := .data, lanes := { valid := true, val := (BitVec.ofNat 32 es.length).signExtend 40 } :: List.replicate 15 {} }),
                   (35, a m)]])
          ∧ ts.length = (n.toNat + 15) / 16 ∧ (∀ y ∈ ts, y.kind = .sparse ∧ y.lanes.length = 16)
          ∧ ∀ j, j < 16 * ts.length → laneOf ts j = nth {} es j))
    ∧ (let m := opMv 56 1 g src l t 0
      let vs := (a m).lanes.filter (·.valid)
      CanFire s m k →
      (k.kind = .sparse → (∀ v ∈ vs, v.coord.toNat < 512) → ∃ u y fl, exec (.spa g src l t) s = .next u ∧ Fired s u m k [] [] y fl
        ∧ (∀ f ∈ fl, f.outs = []) ∧ y = { x with part := { x.part with spa := y.part.spa, spaOpen := true, spaBusy := y.part.spaBusy } }
        ∧ ∀ i, i < 512 →
          let hit := (vs.filter fun v => v.coord.toNat == i).map (·.val)
          SMap.get none y.part.spa i = if hit = [] then SMap.get none x.part.spa i
            else some (hit.foldl (fun r v => (wifAdd r v).1) ((SMap.get none x.part.spa i).getD 0)))
      ∧ (k.kind = .hem →
        let ls := x.part.spa.map fun kv => ({ valid := true, val := kv.2.getD 0, coord := BitVec.ofNat 32 kv.1 } : LaneV)
        ls.length ≤ 512 → ∃ ts : List Token, Starts (.spa g src l t) s m k [] { x with part := { x.part with spa := [], spaOpen := false } } 3
            (ts.map (fun y => [(35, y)]) ++ [[(35, a m)]])
          ∧ ts.length = (ls.length + 15) / 16 ∧ ∀ j, j < 16 * ts.length → laneOf ts j = nth {} ls j)
      ∧ (k.kind ≠ .hem → k.kind ≠ .sparse →
        exec (.spa g src l t) s = .next (s.elemTrap s.focusE 0x15 (kindLevel (a m) {}) src.toNat s.focusS)))
    ∧ (∀ w ∈ [(Instr.merge2 g src l t, MergeMode.merge, 3, 2), (.union g src l t, .union, 4, 3)],
      let m := opMv 55 w.2.2.1 g src l t 0
      CanFire s m k → ∀ st, (x.part.merge w.2.1).take w.2.1 false (a m) = .ok st →
        let r := mergeRun w.2.1 40 st
        Starts w.1 s m k [] { x with part := x.part.setMerge w.2.1 r.1 } w.2.2.2 (r.2.map (mergePorts w.2.1)))
    ∧ (∀ (p : BitVec 6) (q : BitVec 8) st1 st2, s.piece.live = true → p.toNat < 4 → q.toNat < 4 → p.toNat ≠ q.toNat →
      s.piece.isectReady s.focusE p.toNat q.toNat s.time = true →
      let hl := s.piece.isectHead s.focusE p.toNat false s.time
      let hr := s.piece.isectHead s.focusE q.toNat true s.time
      (match hl with
        | none => st1 = x.part.isc
        | some y => x.part.isc.take .isect false y = .ok st1) →
      (match hr with
        | none => st2 = st1
        | some y => MergeSt.take st1 .isect true y = .ok st2) →
      let r := mergeRun .isect 40 st2
      ∃ u, exec (.isect p q) s = .next u ∧ OnlyPiece s u
        ∧ u.actor.part = x.part.setMerge .isect r.1
        ∧ u.actor.flight = x.flight ++ flightsFrom 39 (s.time + 3) (r.2.map fun o => [(40, o.1), (41, o.2)])
        ∧ u.actor.buf (s.facing.inKey p.toNat)
            = (if hl.isSome then (x.buf (s.facing.inKey p.toNat)).tail else x.buf (s.facing.inKey p.toNat))
        ∧ u.actor.buf (s.facing.inKey q.toNat)
            = (if hr.isSome then (x.buf (s.facing.inKey q.toNat)).tail else x.buf (s.facing.inKey q.toNat))
        ∧ u.actor.ports = x.ports ∧ (∀ i, i ≠ s.focusE → u.piece.elem i = s.piece.elem i))

/-- The memory nodes run (R270) where their lanes pass their checks on places of this package: `gthr` gives the widened
elements at its addresses, `sctr` and `rmw` hand an update of each valid lane to the bank elements; a hem passes behind
the updates before it. -/
def Obligations.MemoryNodesRun : Prop :=
  ∀ (s s1 : State) (g : BitVec 3) (src : BitVec 6) (l : BitVec 4) (t o : BitVec 2) (k : Token) (ps : List Place),
    let x := s.actor
    let f := s.facing.plane
    let n := elemBytes (nodeFmt f)
    let m (v i : Nat) : Mv := opMv 57 v g src l t i
    let a (v i : Nat) : Token := (m v i).shape x.tagCtr k
    let vs (v i : Nat) : List LaneV := (a v i).lanes.filter (·.valid)
    (CanFire s (m 0 0) k → k.kind ≠ .hem → nodeFmt f < 10 → x.memOps = [] → (∀ p ∈ ps, p.pair = none) →
      State.nodePlaces n (nodeSwz f) { write := false, turned := .face } ((vs 0 0).map fun v => nodeAdr f (int32 v.val)) s = .ok s1 ps →
      s1.agReadable s1.engAgent ps = true → ∀ s2 d, State.agLocal s1.engAgent (s1.choose.1 == 0) ps s1.choose.2 = .ok s2 d →
      ∃ u, exec (.gthr g src l t) s = .next u
        ∧ u.actor.flight = x.flight ++ [{ fam := 57, due := s2.time + 4, outs := [(38, laneResult (a 0 0) (fun _ => true) fun i =>
              widen (nodeFmt f) (laneElem (nodeFmt f) false ((d.drop (n * (((a 0 0).lanes.take i).filter (·.valid)).length)).take n)))] }]
        ∧ u.actor.memOps = [] ∧ (src.toNat < 4 → u.actor.buf (s.facing.inKey src.toNat) = (x.buf (s.facing.inKey src.toNat)).tail)
        ∧ (∀ v b, u.byte v b = s2.byte v b))
    ∧ (CanFire s (m 1 o.toNat) k → k.kind ≠ .hem → nodeFmt f < 10 → (∀ p ∈ ps, p.pair = none) →
      State.nodePlaces n (nodeSwz f) { write := true, host := false, turned := .lining }
        ((vs 1 o.toNat).map fun v => nodeAdr f v.coord.toNat) s = .ok s1 ps →
      ∃ u new, exec (.sctr g src l t o) s = .next u ∧ u.scatters = s1.scatters ++ new ∧ u.actor.flight = x.flight
        ∧ new.map (fun w => (w.vault, w.addr, w.va, w.val)) = (ps.zip (vs 1 o.toNat)).map (fun w => (w.1.vault, w.1.addr, w.1.va, w.2.val))
        ∧ (∀ w ∈ new, w.piece = s1.focusP ∧ w.elem = s1.focusE ∧ w.slot = none ∧ w.fmt = nodeFmt f ∧ w.sop = o.toNat
            ∧ w.jrnl = none ∧ w.scale = none)
        ∧ (∀ v b, u.byte v b = s1.byte v b))
    ∧ (let b := ((x.port 37).tok).getD {}
      let on := (List.range 16).filter fun i => ((a 2 o.toNat).lane i).valid && (b.lane i).valid
      let off (i : Nat) : Nat := (((a 2 o.toNat).lane i).val.setWidth 32 : Word32).toNat
      CanFire s (m 2 o.toNat) k → k.kind ≠ .hem → b.kind ≠ .hem → nodeFmt f < 10 →
      (∀ i ∈ on, off i % n = 0 ∧ off i + n ≤ 2 ^ 22) →
      ∃ u new, exec (.rmw g src l t o) s = .next u ∧ Fired { s with scatters := u.scatters, opCount := u.opCount } u (m 2 o.toNat) k [37] [] x []
        ∧ u.scatters = s.scatters ++ new
        ∧ new.map (fun w => (w.addr, w.val)) = on.map (fun i => (s.bankPlace s.focusE (off i), (b.lane i).val))
        ∧ (∀ w ∈ new, w.vault = true ∧ w.piece = s.focusP ∧ w.elem = s.focusE ∧ w.fmt = nodeFmt f ∧ w.sop = o.toNat))
    ∧ (k.kind = .hem →
      (CanFire s (m 0 0) k → Starts (.gthr g src l t) s (m 0 0) k [] x 4 [[(38, a 0 0)]])
      ∧ (CanFire s (m 1 o.toNat) k → ∃ u, exec (.sctr g src l t o) s = .next u ∧ Fired s u (m 1 o.toNat) k [] [] x
        [{ fam := 57, due := s.time + 2, outs := [(38, a 1 o.toNat)], after := some s.opCount }]))

end

namespace Sys2Proof.Machine

/-- A unit of piece `p` may act: the piece exists and its task is not being aborted. -/
def Acting (s : State) (p : Nat) : Prop := (s.pieceOf p).live = true ∧ (s.pieceOf p).abort = none

/-- A piece without its block, its q, y and bq queues, its floating-point flags and the marks of the cycle. -/
def Piece.besidesBlock (p : Piece) : Piece :=
  { p with blk := {}, q := [], y := [], bq := [], pushes := [], moved := false, blocked := false, parkEv := false
           sys := { p.sys with fpflags := 0, flagsNow := 0 } }

/-- Only piece `p` has changed, and of it only its block, its q, y and bq queues and its floating-point flags. -/
structure BlockStep (s u : State) (p : Nat) : Prop where
  only : u = { s with pieces := s.pieces.insert p (u.pieceOf p) }
  rest : (u.pieceOf p).besidesBlock = (s.pieceOf p).besidesBlock

/-- An input queue has given its head token to the block (R237): to the buffer of the side, as it was, or, where a kset was
asked for and the token is one of data, as a kset of the next number (R252). -/
structure EdgeGave (s u : State) (p n e d : Nat) (t : Token) (rest : List QEntry) : Prop where
  queue : ∀ k, (u.pieceOf p).qOf k = if k = n then rest else (s.pieceOf p).qOf k
  buffer : ((u.pieceOf p).elem e).buf d = ((s.pieceOf p).elem e).buf d ++ [{ tok := t, avail := s.time + 1 }]
  others : ∀ i, i ≠ e → (u.pieceOf p).elem i = (s.pieceOf p).elem i
  regs : (u.pieceOf p).regs = (s.pieceOf p).regs
  memory : ∀ v a, u.byte v a = s.byte v a

end Sys2Proof.Machine

section
open Sys2Proof Sys2Proof.Machine

/-- An operation delivers its result when its time has come and its ports are free (R257): the tokens stand at them, its
flags join FPFLAGS.FABRIC, and no other port of the element, and no other element, has changed. -/
def Sys2Proof.ResultsAreDeliveredPart : Prop :=
  ∀ (s : State) (p e n : Nat) (a b : List Flight) (f : Flight), Acting s p →
    let x := (s.pieceOf p).elem e
    x.flight = a ++ f :: b → (∀ g ∈ a, unitOf g.fam ≠ n) → unitOf f.fam = n → f.due ≤ s.time →
    (s.at p).updatesDone e f.after = true → (n = 55 → (x.port 33).tok = none) →
    (∀ o ∈ f.outs, o.1 = 18 ∨ (x.port o.1).open s.time = true) → (f.outs.map (·.1)).Nodup → (∀ o ∈ f.outs, o.1 ≠ 22) →
    ∃ u, exec (.operationResult p e n) s = .next u ∧ BlockStep s u p
      ∧ ((u.pieceOf p).elem e).flight = a ++ b
      ∧ (∀ o ∈ f.outs, ((u.pieceOf p).elem e).port o.1 = { tok := some o.2, avail := s.time })
      ∧ (∀ c, c ∉ f.outs.map (·.1) → ((u.pieceOf p).elem e).port c = x.port c)
      ∧ (∀ i, i ≠ e → (u.pieceOf p).elem i = (s.pieceOf p).elem i)
      ∧ (u.pieceOf p).sys.fpflags = (s.pieceOf p).sys.fpflags ||| BitVec.ofNat 64 (f.fl.toNat * 2 ^ FGroup.fabric.lo)

/-- A token on a link of an element that is no pleat crosses to its neighbour where it can enter (R239, R240): into the
buffer of a bound input, into the stray entry of an unbound one, or, unless it is a turn, to the exit of a bypass. -/
def Sys2Proof.TokensHopPart : Prop :=
  ∀ (s : State) (p e d n : Nat) (t : Token), Acting s p → d < 4 →
    let q := s.pieceOf p
    let i := facing d
    (q.pleat e false).count = 1 → neighbour q.blk.side e d = some n → ((q.elem e).port (4 + d)).ready s.time = some t →
    ((q.elem e).port (4 + d)).syn = 0 → q.canEnter n i s.time = true →
    ∃ u, exec (.tokenLinkHop p e d) s = .next u ∧ BlockStep s u p
      ∧ ((u.pieceOf p).elem e).port (4 + d) = {}
      ∧ ((q.face n).exit i = 0 → (q.face n).inBound i = true →
          ((u.pieceOf p).elem n).buf i = (q.elem n).buf i ++ [{ tok := t, avail := s.time }] ∧ ((u.pieceOf p).elem n).ports = (q.elem n).ports)
      ∧ ((q.face n).exit i = 0 → (q.face n).inBound i = false → SMap.get none ((u.pieceOf p).elem n).stray i = some t)
      ∧ (∀ o, (q.face n).exit i = o + 1 → t.kind ≠ .turn →
          ((u.pieceOf p).elem n).port (4 + o) = { tok := some t, avail := s.time + 1 } ∧ ((u.pieceOf p).elem n).inb = (q.elem n).inb)
      ∧ (∀ j, j ≠ e → j ≠ n → (u.pieceOf p).elem j = q.elem j)

/-- An edge port moves a token between a queue and its element (R237, R252, R253): an input port of class 1 gives the head
of its q queue to its side; an output port of class 2 gives the token of its link to its y queue, and one of class 3 gives
lane 0 of it to bq. -/
def Sys2Proof.EdgePortsTransferPart : Prop :=
  ∀ (s : State) (p port e d : Nat) (t : Token), Acting s p →
    let q := s.pieceOf p
    let f := q.face e
    edgeElem q.blk.side port = (e, d) → (q.edge port).hem = none → SMap.get 0 q.blk.turnBind port = 0 →
    (∀ c rest, c.tok = some t → c.pois = false → f.cls d = 1 → q.blk.runs s.time = true → (q.elem e).stopped = false → (q.edge port).mark < 2 →
      q.qOf (f.num d) = c :: rest → q.canEnter e d s.time = true →
      f.exit d = 0 → f.inBound d = true →
      ((q.edge port).kset = [] → q.gives = [] → ∃ u, exec (.edgePortTransfer p port) s = .next u
        ∧ BlockStep s u p ∧ EdgeGave s u p (f.num d) e d t rest)
      ∧ (∀ g gs, (q.edge port).kset = g :: gs → t.kind = .data → ∃ u, exec (.edgePortTransfer p port) s = .next u
        ∧ EdgeGave s u p (f.num d) e d { t with kind := .kset, tag := q.blk.ksetN } rest
        ∧ (u.pieceOf p).blk.ksetN = q.blk.ksetN + 1 ∧ ((u.pieceOf p).edge port).kset = gs))
    ∧ (((q.elem e).port (4 + d)).ready s.time = some t → t.kind ≠ .turn → t.kind ≠ .kset →
      (f.cls d = 2 → q.yFull (f.num d) = false → ∃ u, exec (.edgePortTransfer p port) s = .next u ∧ BlockStep s u p
        ∧ (∀ k, (u.pieceOf p).yOf k = if k = f.num d then q.yOf k ++ [t] else q.yOf k)
        ∧ ((u.pieceOf p).elem e).port (4 + d) = {} ∧ (∀ i, i ≠ e → (u.pieceOf p).elem i = q.elem i))
      ∧ (f.cls d = 3 → t.kind ≠ .hem → (t.lane 0).valid = true → q.bq.length < 4 →
        ∃ u, exec (.edgePortTransfer p port) s = .next u ∧ BlockStep s u p
        ∧ (u.pieceOf p).bq = q.bq ++ [(t.lane 0).val.signExtend 64]
        ∧ ((u.pieceOf p).elem e).port (4 + d) = {} ∧ (∀ i, i ≠ e → (u.pieceOf p).elem i = q.elem i)))

/-- An element that R249 lets turn turns: face and lining change places in it, its tag counter is 0, every turn token at its
buffers is gone, and a turn token stands on every neighbour link that a move of the old face writes. -/
def Sys2Proof.ElementsTurnPart : Prop :=
  ∀ (s : State) (p e : Nat), Acting s p →
    let q := s.pieceOf p
    let x := q.elem e
    (q.pleat e false).count = 1 → (q.pleat e false).member = 0 → (q.pleat e false).origin = e →
    (s.at p).turns e ((q.pleat e false).members q.blk.side) = true → ((q.pleat e false).members q.blk.side) = [e] → x.lining.bad = [] →
    ∃ u, exec (.elementTurn p e) s = .next u
      ∧ ((u.pieceOf p).elem e).face = x.lining ∧ ((u.pieceOf p).elem e).lining = x.face
      ∧ ((u.pieceOf p).elem e).tagCtr = 0 ∧ ((u.pieceOf p).elem e).faceNew = true ∧ ((u.pieceOf p).elem e).turnDue = false
      ∧ (∀ d, d < 4 → (q.face e).inBound d = true → (q.face e).exit d = 0 → ((u.pieceOf p).elem e).buf d = (x.buf d).tail)
      ∧ (∀ d, d < 4 → (q.face e).moveWrites d = true → (edgeOf q.blk.side e d) = none →
          (((u.pieceOf p).elem e).port (4 + d)).tok = some { kind := .turn, lanes := List.replicate 16 {} }
          ∧ SMap.get 0 ((u.pieceOf p).elem e).fence d = fenceShut)
      ∧ (∀ i, i ≠ e → ((u.pieceOf p).elem i).face = (q.elem i).face ∧ ((u.pieceOf p).elem i).inb = (q.elem i).inb)
      ∧ (u.pieceOf p).regs = q.regs ∧ (u.pieceOf p).q = q.q ∧ (∀ v a, u.byte v a = s.byte v a)

/-- A kset at the head of an input is handled (R252): one that names the element writes its constants into face and lining,
the token goes on to every output that a move of the face writes, and a number handled before is discarded. -/
def Sys2Proof.KsetsAreHandledPart : Prop :=
  ∀ (s : State) (p e d : Nat) (b : BufTok) (rest : List BufTok), Acting s p →
    let q := s.pieceOf p
    let x := q.elem e
    let f := q.face e
    let l := b.tok.lane 8
    let named : Prop := l.valid = false ∨ (l.val.toNat % 16 = e % 16 ∧ l.val.toNat / 16 % 16 = e / 16)
    let put (c : SMap W64) (i : Nat) : W64 := if i < 8 ∧ (b.tok.lane i).valid = true then (b.tok.lane i).val.setWidth 64 else SMap.get 0 c i
    x.gate = 0 → x.stopped = false → x.faceAt ≤ s.time → (q.pleat e false).member = 0 → (q.pleat e false).count = 1 →
    (q.pleat e false).members q.blk.side = [e] →
    x.buf d = b :: rest → b.tok.kind = .kset → b.avail ≤ s.time → f.exit d = 0 → d < 4 →
    (x.ksets.contains b.tok.tag = true → ∃ u, exec (.ksetHandle p e d) s = .next u ∧ BlockStep s u p
      ∧ ((u.pieceOf p).elem e).buf d = rest ∧ ((u.pieceOf p).elem e).face = x.face ∧ ((u.pieceOf p).elem e).lining = x.lining
      ∧ ((u.pieceOf p).elem e).ports = x.ports)
    ∧ (x.ksets.contains b.tok.tag = false →
      (∀ o, o < 4 → f.moveWrites o = true → (x.port (4 + o)).open s.time = true ∧ x.fenced o s.time = false) →
      ∃ u, exec (.ksetHandle p e d) s = .next u ∧ BlockStep s u p
        ∧ ((u.pieceOf p).elem e).buf d = rest ∧ ((u.pieceOf p).elem e).ksets = x.ksets ++ [b.tok.tag]
        ∧ (named → ∀ i, ((u.pieceOf p).elem e).face.const i = put x.face.consts i
            ∧ ((u.pieceOf p).elem e).lining.const i = put x.lining.consts i)
        ∧ (¬named → ((u.pieceOf p).elem e).face = x.face ∧ ((u.pieceOf p).elem e).lining = x.lining)
        ∧ (∀ o, o < 4 → (((u.pieceOf p).elem e).port (4 + o)).tok
            = if f.moveWrites o then some b.tok else (x.port (4 + o)).tok)
        ∧ (∀ i, i ≠ e → (u.pieceOf p).elem i = q.elem i))

/-- Gating (R274): an element that has done nothing for 16 cycles is clock-gated, after 2^16 it is power-gated, and one that
something waits for wakes in 2 or 400 cycles, with all it holds, and with it a package that is QUIET. -/
def Sys2Proof.ElementsGateAndWakePart : Prop :=
  ∀ (s : State) (p e : Nat), Acting s p →
    let x := (s.pieceOf p).elem e
    let gated (u : State) (y : Elem) : Prop := BlockStep { s with hub := u.hub } u p ∧ (u.pieceOf p).elem e = y
      ∧ (∀ i, i ≠ e → (u.pieceOf p).elem i = (s.pieceOf p).elem i) ∧ u.hub = { s.hub with power := u.hub.power }
    (x.gate = 0 → x.flight = [] → x.memOps = [] → (s.at p).updatesDone e (some s.opCount) = true → x.idle + 16 ≤ s.time → ∃ u, exec (.elementClockGate p e) s = .next u ∧ gated u { x with gate := 1 } ∧ u.hub = s.hub)
    ∧ (x.gate = 1 → x.idle + 2 ^ 16 ≤ s.time → ∃ u, exec (.elementPowerGate p e) s = .next u ∧ gated u { x with gate := 2 } ∧ (s.hub.power ≠ 0 → u.hub = s.hub))
    ∧ (x.gate = 1 → (s.at p).wanted e = true → ∃ u, exec (.elementWake p e) s = .next u
        ∧ gated u { x with gate := 3, wakeAt := s.time + 2 } ∧ u.hub = s.hub)
    ∧ (x.gate = 2 → (s.at p).wanted e = true → ∃ u, exec (.elementWake p e) s = .next u
        ∧ gated u { x with gate := 3, wakeAt := s.time + 400 } ∧ u.hub = s.hub)
    ∧ (x.gate = 3 → x.wakeAt ≤ s.time → ∃ u, exec (.elementWake p e) s = .next u ∧ gated u { x with gate := 0, idle := s.time }
        ∧ u.hub.power = if s.hub.power = 1 then 0 else s.hub.power)

/-- WATCHDOG is raised when the stall count reaches WDOG.LIMIT (R273): TVAL is the limit, and the record names a blocked
element, or, where only engines are blocked, S. -/
def Sys2Proof.WatchdogIsRaisedPart : Prop :=
  ∀ (s : State) (k : Nat), Acting s k →
    let p := s.pieceOf k
    let lim := p.sys.wdog.toNat % 2 ^ 40
    lim ≠ 0 → lim ≤ p.stall → p.active = false → (∀ r ∈ p.traps, r.code ≠ 0x13) →
    ∃ u r, exec (.watchdog k) s = .next u ∧ (u.pieceOf k).traps = p.traps ++ [r]
      ∧ r.code = 0x13 ∧ r.async = true ∧ r.val = BitVec.ofNat 64 lim
      ∧ (p.blockedElem s.time = none → r.unit = 0 ∧ r.loc = 0xFFFFF)
      ∧ (∀ e, p.blockedElem s.time = some e → r.unit = 4 ∧ (r.loc.toNat % 16, r.loc.toNat / 16 % 16) = (e % 16, e / 16 % 16))
      ∧ (u.pieceOf k).regs = p.regs ∧ (∀ j, j ≠ k → u.pieceOf j = s.pieceOf j) ∧ (∀ v a, u.byte v a = s.byte v a)

end

namespace Sys2Proof.Machine

/-! ## The hub -/

/-- Only the hub's own registers have changed, and what leaves the package. -/
def OnlyHub (s u : State) : Prop := u = { s with hub := u.hub, outbox := u.outbox }

/-- Whether an agent is the source that a launch queue names (R41). -/
def SourceOf (q : LQueue) (ag : HubAgent) : Prop :=
  q.en = true ∧ ((q.rootq = true ∧ ag = .mgmt)
    ∨ (q.rootq = false ∧ ((q.src = 0 ∧ ag = .host0) ∨ (q.src = 1 ∧ ag = .host1) ∨ (q.src = 2 ∧ ag = .sidecar))))

/-- The state of R34 in which a task starts on a piece: registers, program counters, queues and tacks. -/
structure TaskStarts (p : Piece) (x : Launch) (pos : Nat) : Prop where
  live : p.live = true ∧ p.atSeam = false ∧ p.taskPos = pos ∧ p.abort = none ∧ p.traps = [] ∧ p.active = false
  entry : ∀ e, p.eng e = { pc := BitVec.ofNat 64 (dword x.image 0) }
  args : p.reg 1 = BitVec.ofNat 64 (dword x.image 2) ∧ p.reg 2 = BitVec.ofNat 64 pos
  indices : ∀ l, l < 6 → p.reg (BitVec.ofNat 5 (26 + l)) = BitVec.ofNat 64 (nth 0 (x.tuple pos) l)
  zero : ∀ r : BitVec 5, r.toNat = 0 ∨ (3 ≤ r.toNat ∧ r.toNat ≤ 25) → p.reg r = 0
  empty : p.q = [] ∧ p.y = [] ∧ p.bq = [] ∧ p.steers = [] ∧ p.tacks = [] ∧ p.knots = []
  level : p.level = if x.fld 0x50 7 1 = 1 then 2 else 0

/-- What has placed a piece for a resumed sequence (R354): its number, and the state with a cleared share. -/
def resumed (s : State) (l first : Nat) (at_ : Nat × Nat × Nat) : Nat × State :=
  let r := (s.noteGrant l).placePiece l first at_
  let t := r.2.setLaunch l ((r.2.launch l).placeSeq first fun q => { q with place := .held r.1, panel := at_.1 })
  (r.1, t.clearVault (t.pieceOf r.1).vbase ((t.pieceOf r.1).vunits * 65536))

/-- The registers of the window that the management core sets whole, with the bits they have (R3, R68). -/
def firmwareRows : List (Nat × W64) :=
  [(0x3000, 0x1FFFFFF00000), (0x3100, 0xFFFF), (0x3318, 0xF), (0x3710, BitVec.allOnes 64), (0x3718, BitVec.allOnes 64)
  , (0x3800, 0x1FFFFFFFF000), (0x3E08, 0x1FFFFFFFFF00)]

/-- A notify write of an agent is let through by NCFG (R89). -/
def MayNotify (c : NCfg) (ag : HubAgent) : Prop :=
  ((ag = .host0 ∨ ag = .host1) → c.hostw = true) ∧ (ag = .sidecar → c.sidew = true)

end Sys2Proof.Machine

section
open Sys2Proof Sys2Proof.Machine

/-- Launches are posted (R41, R42, R45, R46, R47, R51): a tail write of the queue's source within its ring moves TAIL, any
other is discarded with OVR or SRCERR; the hub reads the record at HEAD and takes it as a launch or rejects it with its
code; a launch whose last wait is met is READY (R292: a host function that is not enabled writes no tail); after 2^24 cycles without a grant the effective priority rises by one. -/
def Obligations.LaunchesArePosted : Prop :=
  ∀ (s : State),
    (∀ (ag : HubAgent) (n : Nat) (v : W64), n < 64 → s.hub.present ag = true →
      let q := s.lqOf n
      let t : BitVec 16 := v.setWidth 16
      (SourceOf q ag → (t - q.head).toNat ≤ 2 ^ q.size → ∃ u, exec (.lqtailWrite ag n v) s = .next u ∧ OnlyHub s u
        ∧ u.lqOf n = { q with tail := t } ∧ ∀ k, k ≠ n → u.lqOf k = s.lqOf k)
      ∧ (SourceOf q ag → 2 ^ q.size < (t - q.head).toNat → ∃ u, exec (.lqtailWrite ag n v) s = .next u
        ∧ u.lqOf n = { q with ovr := true } ∧ ∀ k, k ≠ n → u.lqOf k = s.lqOf k)
      ∧ (¬SourceOf q ag → ∃ u, exec (.lqtailWrite ag n v) s = .next u
        ∧ u.lqOf n = { q with srcerr := true } ∧ ∀ k, k ≠ n → u.lqOf k = s.lqOf k))
    ∧ (∀ (ag : HubAgent) (n : Nat) (v : W64), s.hub.present ag = false → exec (.lqtailWrite ag n v) s = .next s)
    ∧ (∀ (n slot : Nat) (b : List Byte),
      let q := s.lqOf n
      let s0 := s.detect false (q.base.toNat + 128 * (q.head.toNat % 2 ^ q.size)) 128
      let x : Launch := { image := b }
      let s1 := s0.detect false (x.fld 0x40 0 64 % 2 ^ 45) (16 * (x.fld 0x48 0 8 + x.fld 0x48 8 8))
      q.head ≠ q.tail → s.hub.svc.toNat % 4 ≠ 0 → s.freeLaunch = some slot → s0.ringRecord q = some b →
      (s1.recordCode q x = 0 → ∃ u, exec (.launchRecordRead n) s = .next u
        ∧ (u.launch slot).image = b ∧ (u.launch slot).queue = n ∧ (u.launch slot).index = q.head.toNat
        ∧ (u.launch slot).st = (if x.usedWaits = [] then .ready else .waiting)
        ∧ ((u.launch slot).prio = Nat.min (x.fld 0x50 4 3) q.pmax ∨ SMap.get 0 q.clamp q.head.toNat ≠ 0)
        ∧ (u.lqOf n).head = q.head + 1 ∧ (u.lqOf n).tail = q.tail ∧ (∀ l, l ≠ slot → u.launch l = s1.launch l)
        ∧ (∀ v a, u.byte v a = s1.byte v a))
      ∧ (s1.recordCode q x ≠ 0 → ∃ u, exec (.launchRecordRead n) s = .next u
        ∧ (u.lqOf n).head = q.head + 1 ∧ (u.lqOf n).rej = true ∧ (u.lqOf n).lasterr = BitVec.ofNat 8 (s1.recordCode q x)
        ∧ (∀ l, u.launch l = s1.launch l)))
    ∧ (∀ l, (s.launch l).st = .waiting → (s.launch l).waits = [] → ∃ u, exec (.launchWaitMet l) s = .next u
        ∧ u.launch l = { s.launch l with st := .ready } ∧ (∀ k, k ≠ l → u.launch k = s.launch k)
        ∧ u = { s with hub := u.hub, links := u.links })
    ∧ (∀ l, (s.launch l).open = true → (s.launch l).aged = false → 2 ^ 24 ≤ (s.launch l).age →
      exec (.agingStep l) s = .next (s.setLaunch l { s.launch l with aged := true, eff := Nat.min ((s.launch l).eff + 1) 7 }))

/-- Pieces are granted and reserved (R34, R50, R55, R56): the launch whose grant is due takes the first position its piece
fits, on a piece that did not exist, with a zero vault share, and its task starts in the state of R34; a launch that fits
nowhere reserves the position of R56. -/
def Obligations.PiecesAreGranted : Prop :=
  ∀ (s : State) (l pos : Nat) (o : Nat × Nat × Nat),
    (s.want l = some (.start pos) → s.firstFit l (.start pos) = some o → s.granteeIs l = true →
      ∃ u k, exec (.pieceGrant l) s = .next u ∧ (s.pieceOf k).live = false ∧ TaskStarts (u.pieceOf k) (s.launch l) pos
        ∧ (u.pieceOf k).launch = l ∧ ((u.pieceOf k).panel, (u.pieceOf k).row0, (u.pieceOf k).col0) = o
        ∧ (u.launch l).live = (s.launch l).live + 1 ∧ (u.launch l).reserve = none
        ∧ (∀ a, (u.pieceOf k).vbase ≤ a → a < (u.pieceOf k).vbase + 65536 * (u.pieceOf k).vunits → u.byte true a = 0)
        ∧ (∀ j, j ≠ k → u.pieceOf j = s.pieceOf j))
    ∧ (∀ w, s.want l = some w → (s.launch l).reserve = none → s.firstFit l w = none → s.hub.saveunits ≠ 0 →
      s.reserveAt l w = some o →
      exec (.pieceReserve l) s = .next (s.setLaunch l { s.launch l with reserve := some o, aside := s.setAside l o, poolRec := false }))

/-- Switched-out sequences (R57, R348, R349, R354): at its seam a piece that must leave gives its context a save area and its
resources back, or stays where the pool has no room; a saved sequence comes back on a piece of its class at a seam, with
its area free again, and a restore that fails enters the handler with RESTORE_FAIL. -/
def Obligations.SequencesSwitchAndResume : Prop :=
  ∀ (s : State) (k l first area : Nat) (q : Seq),
    let p := s.pieceOf k
    let x := s.launch p.launch
    let units := ((s.saveShape p).size + 65535) / 65536
    (p.live = true → p.atSeam = true → p.active = false → p.traps = [] → (p.leave = true ∨ s.overlapped p = true) → x.ended = false →
      s.quiet k = true → x.seq p.seqPos = some q → q.next < x.total →
      (∀ n, s.hub.poolFit units = some n → ∃ u, exec (.switchOut k) s = .next u ∧ (u.pieceOf k).live = false
        ∧ u.hub.saves = s.hub.saves ++ [(n, units)]
        ∧ ((u.launch p.launch).seq p.seqPos).map (·.place) = some (.saved (s.hub.savebase.toNat + 65536 * n))
        ∧ (∀ j, j ≠ k → u.pieceOf j = s.pieceOf j))
      ∧ (s.hub.poolFit units = none → ∃ u, exec (.switchOut k) s = .next u ∧ u.pieces = s.pieces ∧ u.hub.saves = s.hub.saves))
    ∧ (∀ o h, s.want l = some (.resume first area) → s.firstFit l (.resume first area) = some o → s.granteeIs l = true →
      let s0 := s.detectArea area 256
      s0.openArea 2 area = .ok h → (s0.launch l).seq first = some q →
      let r := resumed s0 l first o
      (∀ t, r.2.restoreContext r.1 first area = .ok t → ∃ u, exec (.sequenceResume l) s = .next u
        ∧ u.pieceOf r.1 = { t.pieceOf r.1 with result := q.result } ∧ u.hub.saves = (t.hub.freeSave area).saves
        ∧ (∀ v a, u.byte v a = t.byte v a) ∧ (∀ j, j ≠ r.1 → u.pieceOf j = t.pieceOf j))
      ∧ (∀ t line, r.2.restoreContext r.1 first area = .bad t line → ∃ u, exec (.sequenceResume l) s = .next u
        ∧ (u.pieceOf r.1).live = true ∧ (u.pieceOf r.1).sys.tcause = BitVec.ofNat 64 (0x1B + 256 * 6 + 2048)
        ∧ (u.pieceOf r.1).sys.tval = BitVec.ofNat 64 line ∧ (u.pieceOf r.1).active = true
        ∧ u.hub.saves = (t.hub.freeSave area).saves))

/-- Tasks, sequences and launches end (R18, R33, R46, R48, R52, R344, R347, R355): the last task of a sequence gives its piece
up, any other is followed by its next task in the state of R34; an aborted task starts again with ACT 1 and ends its
sequence with ACT 2; a launch whose tasks have ended reaches DONE, adds 1 to its notify register and interrupts its host. -/
def Obligations.TasksAndLaunchesEnd : Prop :=
  ∀ (s : State) (k : Nat) (q : Seq),
    let p := s.pieceOf k
    let x := s.launch p.launch
    (s.taskOver k = true → p.mx.toile = false → p.mx.badSig = none → p.reshape = none → x.seq p.seqPos = some q →
      ((x.ended = true ∨ x.total ≤ q.next) → ∃ u, exec (.taskEnd k) s = .next u ∧ (u.pieceOf k).live = false
        ∧ (u.launch p.launch).live = x.live - 1 ∧ ((u.launch p.launch).seq p.seqPos).map (·.place) = some .ended
        ∧ (∀ j, j ≠ k → u.pieceOf j = s.pieceOf j) ∧ (∀ v a, u.byte v a = s.byte v a))
      ∧ (x.ended = false → q.next < x.total → x.next = q.next → p.leave = false → s.overlapped p = false →
        ∃ u, exec (.taskEnd k) s = .next u ∧ TaskStarts (u.pieceOf k) x q.next ∧ (u.pieceOf k).sys.tvec = p.sys.tvec
        ∧ (∀ j, j ≠ k → u.pieceOf j = s.pieceOf j) ∧ (∀ v a, u.byte v a = s.byte v a)))
    ∧ (p.live = true → (p.cur.map (·.code)) ≠ some 0x1E → s.abortQuiet k = true →
      (p.abort = some 1 → ∃ u, exec (.taskEnd k) s = .next u
        ∧ TaskStarts { u.pieceOf k with traps := [] } x p.taskPos
        ∧ (∀ j, j ≠ k → u.pieceOf j = s.pieceOf j) ∧ (∀ v a, u.byte v a = s.byte v a))
      ∧ (p.abort = some 2 → x.seq p.seqPos = some q → ∃ u, exec (.taskEnd k) s = .next u ∧ (u.pieceOf k).live = false
        ∧ ((u.launch p.launch).seq p.seqPos).map (·.place) = some .ended ∧ (∀ j, j ≠ k → u.pieceOf j = s.pieceOf j)
        ∧ (∀ v a, u.byte v a = s.byte v a)))
    ∧ (∀ l,
      let y := s.launch l
      let n := y.fld 0x50 16 8
      y.st = .draining → y.live = 0 → y.total ≤ y.next → s.linksDone l = true → s.launchQuiet l = true →
      ∃ u, exec (.launchDone l) s = .next u ∧ (u.launch l).st = .done
        ∧ u.notifyVal n = (if y.fld 0x50 24 1 = 1 then s.notifyVal n + 1 else s.notifyVal n)
        ∧ (∀ m, m ≠ n → u.notifyVal m = s.notifyVal m)
        ∧ (y.src = 0 → s.hub.hostEn.1 = true → u.outbox = s.outbox ++ [.msix false (1 + y.queue)])
        ∧ (y.src = 1 → s.hub.hostEn.2 = true → u.outbox = s.outbox ++ [.msix true (1 + y.queue)])
        ∧ (2 ≤ y.src → u.outbox = s.outbox) ∧ (∀ v a, u.byte v a = s.byte v a))

/-- Register writes of agents outside the pieces take effect (R3, R68, R85, R89, R357, R363, R364): the notify writes, the
registers that firmware sets, the move entries, ERRTAIL, and the subgraph loads with their completion. -/
def Obligations.RegisterWritesSet : Prop :=
  ∀ (s : State) (ag : HubAgent) (n : Nat) (v : W64),
    let only (h : Hub) : State := { s with hub := h }
    let fw := ag = .mgmt ∨ ag = .thread
    (n < 256 → s.hub.present ag = true → MayNotify (s.ncfgOf n) ag → ∀ r ∈ [(Instr.notifyWriteReplace ag n v, v),
        (.notifyWriteOr ag n v, s.notifyVal n ||| v), (.notifyWriteAdd ag n v, s.notifyVal n + v)],
      ∃ u, exec r.1 s = .next u ∧ Notified s u n r.2)
    ∧ (∀ r ∈ firmwareRows, ∃ u, exec (.registerWrite .mgmt r.1 v) s = .next u ∧ u = { s with hub := u.hub }
        ∧ u.hubRead r.1 = v &&& r.2 ∧ ∀ off, off ≠ r.1 → u.hubRead off = s.hubRead off)
    ∧ (ag = .host0 ∨ ag = .sidecar ∨ ag = .mgmt → s.hub.present ag = true → s.hub.errheld = [] →
      exec (.errtailWrite ag v) s = .next (only { s.hub with errtail := v.setWidth 16 }))
    ∧ (fw → n < 8 →
      let m := s.hub.mov n
      let set (m : MovEntry) : State := only { s.hub with movs := s.hub.movs.insert n m }
      let fits : Prop := ∀ j, j < 8 → j ≠ n → (s.hub.mov j).v = true → MovEntry.overlaps (s.hub.mov j) { m with v := true } = false
      (m.v = false → fits → exec (.moveHold ag n) s = .next (set { m with v := true, fwd := false })
        ∧ exec (.moveForward ag n) s = .next (set { m with v := true, fwd := true }))
      ∧ (m.v = true → exec (.moveHold ag n) s = .next (set m) ∧ exec (.moveForward ag n) s = .next (set { m with fwd := true })
        ∧ exec (.moveEnd ag n) s = .next (set { m with v := false })))
    ∧ (∀ h : HeldReq, s.hub.held.find? (fun g => g.id == n) = some h → s.holdsReq (unitPa h.bytes) = true → h.since + 2 ^ 20 ≤ s.time →
      3 ≤ s.replayRoom h.pair →
      exec (.moveHoldExpire n) s = .next ((s.dropHeld n).refuseReq h.pair h.bytes 3))
    ∧ (fw → s.hub.sgbusy = false →
      let dom := if ag = .mgmt then none else some s.domain
      let ask (r : W64) : State := only { s.hub with sgbusy := true, sgreq := r, sgfrom := s.hub.sgaddr, sgdom := dom }
      exec (.subgraphLoad ag v) s = .next (ask (v &&& 0x7FFF))
      ∧ exec (.subgraphUnload ag v) s = .next (ask ((v &&& 0x7FFF) ||| 0x8000)))
    ∧ (s.hub.sgbusy = true →
      let side := s.hub.sgreq.toNat / 2 ^ 9 % 2
      let i := s.hub.sgreq.toNat % 2 ^ 9
      let key := 32 * (512 * side + i) + s.hub.sgreq.toNat / 2 ^ 10 % 32
      let s0 := s.detect false s.hub.sgfrom.toNat 256
      (side = 1 → 128 ≤ i → exec .subgraphLoadDone s = .next (only { s.hub with sgbusy := false, sgstat := 3 }))
      ∧ (¬(side = 1 ∧ 128 ≤ i) → s.hub.sgreq.toNat / 2 ^ 15 % 2 = 1 → ∃ u, exec .subgraphLoadDone s = .next u
        ∧ u.subgraph key = none ∧ (∀ m, m ≠ key → u.subgraph m = s.subgraph m) ∧ u.hub.sgbusy = false ∧ u.hub.sgstat = 0)
      ∧ (¬(side = 1 ∧ 128 ≤ i) → s.hub.sgreq.toNat / 2 ^ 15 % 2 = 0 → ∀ f st b, s0.sgRecord = (f, st, b) →
        ∃ u, exec .subgraphLoadDone s = .next u ∧ u.hub.sgbusy = false ∧ u.hub.sgstat = st
        ∧ u.subgraph key = (if st = 0 then some f else s.subgraph key) ∧ (∀ m, m ≠ key → u.subgraph m = s.subgraph m)))

end

namespace Sys2Proof.Machine

/-! ## Security, power and boot -/

/-- An agent that serves KEYREQ and PWRCTL (R68). -/
def IsOwner (ag : HubAgent) : Prop := ag = .host0 ∨ ag = .mgmt
/-- An agent that obtains nonces and may ask for debug (R301). -/
def IsDebugger (ag : HubAgent) : Prop := ag = .host0 ∨ ag = .host1 ∨ ag = .mgmt

/-- A measurement register extended by a digest (R297): SHA-256 of its 32 bytes and those of the digest. -/
def extended (old digest : BitVec 256) : BitVec 256 :=
  BitVec.ofNat 256 (bytesNat (sha256 (natBytes 32 old.toNat ++ natBytes 32 digest.toNat)))
/-- A measurement register. -/
def State.measOf (s : State) (i : Nat) : BitVec 256 := SMap.get 0 s.hub.meas i

end Sys2Proof.Machine

section
open Sys2Proof Sys2Proof.Machine

/-- Keys (R399, R400): a request that is not refused starts, another gives its code; a load that verifies provisions its
domain and one that does not gives 1; a revocation marks its domain at once and leaves no keys of it at its end. -/
def Sys2Proof.KeyRequestsCompletePart : Prop :=
  ∀ (s : State) (ag : HubAgent) (v : W64),
    let d := v.toNat / 4 % 16
    let load : W64 := (v &&& ~~~3) ||| 1
    let revoke : W64 := (v &&& ~~~3) ||| 2
    (IsOwner ag → s.hub.present ag = true → s.hub.served = true → s.hub.keybusy = false →
      (s.hub.keyRefusal load.toNat = 0 →
        exec (.keyLoad ag v) s = .next { s with hub := { s.hub with keybusy := true, keyreq := load } })
      ∧ (s.hub.keyRefusal load.toNat ≠ 0 →
        exec (.keyLoad ag v) s = .next { s with hub := { s.hub with keystat := s.hub.keyRefusal load.toNat } })
      ∧ (s.hub.keyRefusal revoke.toNat = 0 → ∃ u, exec (.keyRevoke ag v) s = .next u
        ∧ u.hub.keybusy = true ∧ u.hub.keyreq = revoke ∧ (u.keyDom d).ending = true ∧ ∀ e, e ≠ d → u.keyDom e = s.keyDom e)
      ∧ (s.hub.keyRefusal revoke.toNat ≠ 0 →
        exec (.keyRevoke ag v) s = .next { s with hub := { s.hub with keystat := s.hub.keyRefusal revoke.toNat } }))
    ∧ (s.hub.keybusy = true →
      let r := s.hub.keyreq.toNat
      let e := r / 4 % 16
      (r % 4 = 1 → s.hub.keyRefusal r = 0 → s.inMem (r / 2 ^ 12 % 2 ^ 33 * 4096) = true →
        (∃ u, exec (.keyRequestComplete true) s = .next u ∧ u.hub.keybusy = false ∧ u.hub.keystat = 0 ∧ (u.keyDom e).prov = true
          ∧ (∀ f, f ≠ e → u.keyDom f = s.keyDom f) ∧ (∀ w a, u.byte w a = s.byte w a))
        ∧ exec (.keyRequestComplete false) s = .next { s with hub := { s.hub with keybusy := false, keystat := 1 } })
      ∧ (r % 4 = 2 → ∀ ok, ∃ u, exec (.keyRequestComplete ok) s = .next u ∧ u.hub.keybusy = false ∧ u.hub.keystat = 0
        ∧ u.keyDom e = {} ∧ ∀ f, f ≠ e → u.keyDom f = s.keyDom f))

/-- Debug (R301, R306, R402): a read of DBGREQ by a host function or the management core gives a fresh nonce, another reads
zeros; a write is granted, refused, or goes to the verification of its token, which spends the nonce; a halted thread
stands at a boundary with DEBUG_HALT recorded, and a step or a resume lets it go on. -/
def Obligations.DebugRequestsAreServed : Prop :=
  ∀ (s : State) (ag : HubAgent) (v : W64) (p : Nat),
    let level := v.toNat % 4
    (IsDebugger ag → s.hub.present ag = true → ∃ u, exec (.debugNonceRead ag) s = .next u ∧ u.hub.nonceOk = true
        ∧ u.outbox = s.outbox ++ [.readData (bytesOf 8 u.hub.nonce.toNat) false]
        ∧ u = { s with hub := { s.hub with nonce := u.hub.nonce, nonceOk := true, nonceN := u.hub.nonceN }, outbox := u.outbox
                       fresh := u.fresh })
    ∧ (¬IsDebugger ag → exec (.debugNonceRead ag) s = .next { s with outbox := s.outbox ++ [.readData (List.replicate 8 0) false] })
    ∧ (IsDebugger ag → s.hub.present ag = true → 2 ≤ s.hub.boot → s.hub.dbgReq = none → s.hub.entering = 0 → s.hub.power ≤ 1 →
      (level = 0 → ∃ u, exec (.debugRequest ag v) s = .next u ∧ u.hub.dbg = 0 ∧ u.hub.dstat = 0
        ∧ (∀ k, (u.pieceOf k).halted = false ∧ (u.pieceOf k).regs = (s.pieceOf k).regs) ∧ (∀ w a, u.byte w a = s.byte w a))
      ∧ (level = 3 → s.hub.lc = 1 ∨ s.hub.lc = 2 → exec (.debugRequest ag v) s = .next { s with hub := { s.hub with dstat := 1 } })
      ∧ (level = 2 → s.hub.lc = 1 ∨ s.hub.lc = 2 →
        (s.hub.dbgFails < 64 → exec (.debugRequest ag v) s = .next { s with hub := { s.hub with dbgReq := some v, dbgAt := s.time } })
        ∧ (64 ≤ s.hub.dbgFails → exec (.debugRequest ag v) s = .next { s with hub := { s.hub with dstat := 2 } })))
    ∧ (s.hub.dbgReq = some v → s.hub.pwrWait = [] →
      (s.hub.nonceOk = true → ∃ u, exec (.debugVerificationComplete true) s = .next u ∧ u.hub.dbg = BitVec.ofNat 2 level
        ∧ u.hub.dbgReq = none ∧ u.hub.nonceOk = false ∧ u.hub.dstat = 0)
      ∧ (s.hub.nonceOk = true → ∃ u, exec (.debugVerificationComplete false) s = .next u ∧ u.hub.dbg = s.hub.dbg
        ∧ u.hub.dbgReq = none ∧ u.hub.nonceOk = false ∧ (u.hub.dstat = 2 ∨ u.hub.dstat = 3) ∧ u.hub.dbgFails = s.hub.dbgFails + 1)
      ∧ (s.hub.nonceOk = false → ∀ ok, ∃ u, exec (.debugVerificationComplete ok) s = .next u ∧ u.hub.dbg = s.hub.dbg
        ∧ u.hub.dbgReq = none ∧ u.hub.dstat = 3 ∧ u.hub.dbgFails = s.hub.dbgFails + 1))
    ∧ (2 ≤ s.hub.dbg.toNat →
      ((s.pieceOf p).mayHalt = true → ∃ u, exec (.debugHalt p) s = .next u ∧ (u.pieceOf p).halted = true
        ∧ (u.pieceOf p).s.pc = (s.pieceOf p).spc ∧ (u.pieceOf p).sys.tcause = BitVec.ofNat 64 (0x1F + 2048)
        ∧ (u.pieceOf p).regs = (s.pieceOf p).regs ∧ (∀ k, k ≠ p → u.pieceOf k = s.pieceOf k) ∧ (∀ w a, u.byte w a = s.byte w a))
      ∧ ((s.pieceOf p).live = true → (s.pieceOf p).halted = true → ∀ r : Bool, exec (.debugStep p r) s
        = .next (s.modPieceAt p fun x => { x with halted := false, stepping := !r })))

/-- Measurements, attestation and lifecycle (R297, R298, R300): a signed request extends a register by SHA-256; a report is
asked for where its bytes may be reached, and advances the signature counter; a signed command moves the lifecycle on by
one state, and RMA finds all memory zero. -/
def Sys2Proof.AttestationAndLifecyclePart : Prop :=
  ∀ (s : State) (ag : HubAgent) (v : W64) (i : Nat) (digest : BitVec 256) (lc : BitVec 2),
    (s.hub.served = true →
      (3 ≤ i → i < 16 → ∃ u, exec (.measurementExtend i digest) s = .next u ∧ OnlyHub s u
        ∧ u.measOf i = extended (s.measOf i) digest ∧ ∀ j, j ≠ i → u.measOf j = s.measOf j)
      ∧ (lc.toNat = s.hub.lc.toNat + 1 → ∃ u, exec (.lifecycleTransition lc true) s = .next u ∧ u.hub.lc = lc
        ∧ (lc ≠ 3 → u = { s with hub := { s.hub with lc := lc } })
        ∧ (lc = 3 → ∀ w a, a < 2 ^ 41 ∨ w = true → u.byte w a = 0))
      ∧ exec (.lifecycleTransition lc false) s = .next s
      ∧ (ag = .host0 ∨ ag = .host1 → s.hub.present ag = true → s.hub.attReq = none → s.hub.sigCtr < 2 ^ 40 →
        let out := (v.toNat + 95) / 64 * 64
        s.inMem v.toNat = true → s.inMem out = true → s.hostMay v.toNat 32 false = true → s.hostMay out 6284 true = true →
        exec (.attestRequest ag v) s = .next { s with hub := { s.hub with attReq := some v } }))
    ∧ (s.hub.attReq = some v → ∃ u sig, exec .attestationReportDone s = .next u ∧ sig.length = 5716
      ∧ u.hub = { s.hub with attReq := none, sigCtr := s.hub.sigCtr + 1, attStat := 0 }
      ∧ let s1 : State := { s with hub := { s.hub with attReq := none, sigCtr := s.hub.sigCtr + 1, attStat := 0 } }
        let report := bytesOf 8 (s1.hubRead 0).toNat ++ (s1.read false v.toNat 32).data
          ++ ((List.range 16).flatMap fun i => bytesOf 32 (s.measOf i).toNat) ++ bytesOf 8 (s1.hubRead 0x3300).toNat
          ++ bytesOf 8 (s.hub.sigCtr + 1)
        ∀ w a, u.byte w a = (s1.hubWrite ((v.toNat + 95) / 64 * 64) (report ++ sig)).byte w a)

/-- Boot and power (R296, R303, R304, R306, R307, R403, R404): the steps of R296 in their order, with the service level each
reaches; RETAIN and DOWN are entered when nothing is in use and reached when nothing is in flight; a wake measures again;
idle blocks gate and wake, and hot ones halve their cadence. -/
def Obligations.BootAndPower : Prop :=
  ∀ (s : State) (ag : HubAgent) (d0 d1 d2 : BitVec 256) (cap : BitVec 8) (b : Nat),
    let h := s.hub
    let level (u : State) : Nat := u.hub.svc.toNat % 4
    (∃ u, exec .powerGood s = .next u ∧ u.hub.boot = 1 ∧ u.hub.svc = 0 ∧ u.hub.power = 0 ∧ u.pieces = [] ∧ u.vault = []
        ∧ (u.hub.lc, u.hub.sigCtr, u.hub.form, u.hub.step) = (h.lc, h.sigCtr, h.form, h.step) ∧ u.hub.unpick = h.unpickFuse
        ∧ (u.keyDom 0).prov = true ∧ (∀ a, a < 2 ^ 41 → u.byte false a = State.reset.byte false a)
        ∧ (∀ a, 2 ^ 41 ≤ a → u.byte false a = s.byte false a))
    ∧ (∃ u, exec .powerRemoved s = .next u ∧ u.hub.power = 3 ∧ u.hub.svc = 0 ∧ u.pieces = [] ∧ u.hub.keys = []
        ∧ (u.hub.lc, u.hub.sigCtr) = (h.lc, h.sigCtr) ∧ (∀ a, a < 2 ^ 41 → u.byte false a = State.reset.byte false a))
    ∧ (h.boot = 1 → (∃ u, exec (.managementFirmwareVerify true d0) s = .next u ∧ u.hub.boot = 2
          ∧ u.measOf 0 = extended (s.measOf 0) d0 ∧ OnlyHub s u)
        ∧ ∃ u, exec (.managementFirmwareVerify false d0) s = .next u ∧ u.hub.boot = 0 ∧ level u = 0)
    ∧ (h.boot = 2 → ∃ u, exec (.bastingStart true true true cap d1 d2) s = .next u ∧ u.hub.boot = 4 ∧ (h.fatal = false → level u = 1)
        ∧ u.hub.svc.toNat / 4 % 2 = 1 ∧ u.hub.lpcap = BitVec.ofNat 8 (min cap.toNat 128) ∧ u.measOf 1 = extended (s.measOf 1) d1
        ∧ u.measOf 2 = extended (s.measOf 2) d2 ∧ (∀ a, a < 2 ^ 29 → u.byte true a = 0))
    ∧ (h.boot = 3 ∨ h.boot = 4 → h.power ≤ 1 → h.entering = 0 → ∀ (stk : BitVec 8) (panels : BitVec 4) (lanes : BitVec 512),
      ∃ u, exec (.fullServiceStart stk panels lanes) s = .next u ∧ u.hub.boot = 5 ∧ u.hub.stkstat = stk &&& ~~~h.stkLost
        ∧ (h.fatal = false → level u = (if 4 ≤ u.hub.fenced.length then 0
            else if u.hub.fenced = [] ∧ (∀ x ∈ u.hub.unpick, x.2 = false) ∧ u.hub.stkstat = 0xFF ∧ lanes = BitVec.allOnes 512 then 2
            else 3))
        ∧ (∀ x, x < 32 → ∀ l, l < 16 → (u.laneOf x l).up = lanes.getLsbD (16 * x + l)))
    ∧ (IsOwner ag → h.present ag = true → 2 ≤ h.boot → h.dbgReq = none → h.entering = 0 →
      (s.inUse = false →
        (h.power ≤ 1 → ∃ u, exec (.pwrEnterRetain ag) s = .next u ∧ u.hub = { h with entering := 2, dbg := 0 })
        ∧ (∃ u, exec (.pwrEnterDown ag) s = .next u ∧ u.hub = { h with entering := 3, dbg := 0 }))
      ∧ (s.inUse = true →
        (h.power ≤ 1 → exec (.pwrEnterRetain ag) s = .next { s with hub := { h with refused := true } })
        ∧ exec (.pwrEnterDown ag) s = .next { s with hub := { h with refused := true } })
      ∧ (h.power = 2 → exec (.pwrWake ag) s = .next { s with hub := { h with wakeDue := true } }))
    ∧ (s.memQuiet = true →
      (h.entering = 2 → ∃ u, exec .powerStateEntryComplete s = .next u ∧ u.hub.power = 2 ∧ u.hub.svc = 0 ∧ u.vault = []
        ∧ u.links = {} ∧ u.mem = s.mem ∧ u.hub.launches = h.launches ∧ u.hub.lq = h.lq ∧ u.hub.notify = h.notify ∧ u.hub.keys = h.keys)
      ∧ (h.entering = 3 → ∃ u, exec .powerStateEntryComplete s = .next u ∧ u.hub.power = 3 ∧ u.pieces = [] ∧ u.hub.keys = []))
    ∧ (h.power = 2 → h.wakeDue = true → h.fenced.contains 0 = false → ∃ u, exec (.wakeRemeasure true 0 d0 d1 d2) s = .next u
        ∧ u.hub.power = 0 ∧ u.hub.wakeDue = false ∧ u.hub.boot = 4 ∧ (h.fatal = false → level u = 1)
        ∧ (u.measOf 0, u.measOf 1, u.measOf 2) = (extended 0 d0, extended 0 d1, extended 0 d2)
        ∧ (∀ i, 3 ≤ i → u.measOf i = 0))
    ∧ (h.power ≤ 1 →
      (b < 8768 → b ∉ h.hot → exec (.blockCadenceHalve b) s = .next { s with hub := { h with hot := h.hot ++ [b] } })
      ∧ exec (.blockCadenceRestore b) s = .next { s with hub := { h with hot := h.hot.filter (· != b) } }
      ∧ (b < 8768 → b ∉ h.gated → 3 ≤ h.boot → s.blockIdle b = true →
        (s.elemOfBlock b = none →
          let t : State := { s with hub := { h with gated := h.gated ++ [b] } }
          exec (.blockPowerGate b) s
            = .next (if h.power = 0 ∧ 8768 ≤ t.gatedCount then { t with hub := { t.hub with power := 1 } } else t))
        ∧ (∀ k e, s.elemOfBlock b = some (k, e) → ∃ u, exec (.blockPowerGate b) s = .next u
          ∧ (u.pieceOf k).elem e = { (s.pieceOf k).elem e with gate := 2 } ∧ u.hub = { h with power := u.hub.power }
          ∧ ∀ j, j ≠ k → u.pieceOf j = s.pieceOf j))
      ∧ (b ∈ h.gated → exec (.blockWake b) s
        = .next { s with hub := { h with gated := h.gated.filter (· != b), waking := h.waking.erase b, power := 0 } }))

/-- Memory accesses of hosts and of the sidecar (R66, R78, R117, R118, R294, R361, R370): where the wall lets the agent reach
the bytes, a host read answers them and a host write stores them at once or is handed on, as the choice says; where it does
not, a host reads ones, its write is dropped, and a sidecar core takes an access fault. A sidecar core with nothing in
flight loads, updates by an atomic or makes a reservation at once; its stores are handed on at system scope. -/
def Obligations.HostAndSidecarAccesses : Prop :=
  ∀ (s : State) (f : Bool) (core addr n : Nat) (data : List Byte) (v : W64),
    (s.hub.hostUp f = true → addr / 2 ^ 40 = 1 →
      (0 < n → s.inLpddr addr = true → s.inLpddr (addr + n - 1) = true →
        (s.hostMay addr n false = true →
          let s0 := s.detect false addr n
          let r := s0.view (.host f) false addr n false 0
          r.integ = none → exec (.hostMemoryRead f addr n) s = .next { s0 with outbox := s0.outbox ++ [.readData r.data r.pois] })
        ∧ (s.hostMay addr n false = false → ∃ u w, exec (.hostMemoryRead f addr n) s = .next u
          ∧ u.outbox = w ++ [.readData (List.replicate n 0xFF) false] ∧ u.pieces = s.pieces))
      ∧ (data ≠ [] → s.inLpddr addr = true → s.inLpddr (addr + data.length - 1) = true →
        (s.hostMay addr data.length true = true →
          (s.choose.1 % 2 = 0 →
            exec (.hostMemoryWrite f addr data) s = .next ((s.choose.2.detect false addr data.length).hubWrite addr data))
          ∧ (s.choose.1 % 2 ≠ 0 → ∃ o, exec (.hostMemoryWrite f addr data) s
              = .next { s.choose.2 with ops := s.choose.2.ops ++ [o], opCount := s.choose.2.opCount + 1 }
            ∧ o.agent = .host f ∧ o.kind = .write ∧ (o.vault, o.addr, o.size, o.data) = (false, addr, data.length, data)
            ∧ o.deps = [] ∧ o.id = s.choose.2.opCount))
        ∧ (s.hostMay addr data.length true = false → ∃ u, exec (.hostMemoryWrite f addr data) s = .next u
          ∧ u.hub.errseq = s.hub.errseq + 1 ∧ u.pieces = s.pieces)))
    ∧ (core < 16 → 0 < n → n ≤ 8 → 3 ≤ s.hub.boot → s.hub.power ≤ 1 → addr / 2 ^ 45 = s.hub.pkg.toNat →
      let a := addr % 2 ^ 45
      let run (op : SideOp) (P : State → Prop) : Prop := ∃ u, exec (.sidecarMemoryAccess core op addr n v) s = .next u ∧ P u
      inHubWin a = false →
      (s.sidecarMay a = true → s.sidecarMay (a + n - 1) = true →
        (∃ o, exec (.sidecarMemoryAccess core .store addr n v) s = .next { s with ops := s.ops ++ [o], opCount := s.opCount + 1 }
          ∧ o.agent = .sidecar core ∧ o.kind = .write ∧ (o.vault, o.addr, o.size, o.data) = (false, a, n, bytesOf n v.toNat)
          ∧ o.scope = 4 ∧ o.id = s.opCount)
        ∧ (s.ops = [] →
          let s1 := if n ≤ 4 then s else s.choose.2
          let us := if n ≤ 4 then [(0, n)] else [(0, 4), (4, n - 4)]
          let s0 := us.foldl (fun x u => x.detect false (a + u.1) u.2) s1
          let rs := us.map fun u => s0.view (.sidecar core) false (a + u.1) u.2 true s.opCount
          let loads (op : SideOp) (P : State → Prop) : Prop :=
            (4 < n → s.choose.1 = 0) →
            ((∀ r ∈ rs, r.pois = false ∧ r.integ = none) → run op fun u =>
              u.outbox = s0.outbox ++ [.readData (rs.flatMap (·.data)) false] ∧ u.pieces = s.pieces ∧ (∀ w x, u.byte w x = s0.byte w x) ∧ P u)
            ∧ ((∃ r ∈ rs, r.pois = true) → (∀ r ∈ rs, r.integ = none) → run op fun u => u.outbox = s0.outbox ++ [.accessFault core false])
          loads .load (fun u => u.resv = s0.resv)
          ∧ (∀ aq rl, (n = 4 ∨ n = 8) → a % n = 0 → loads (.lr aq rl) fun u => SMap.get none u.resv core = some (a / 128 * 128))
          ∧ (∀ (k : Fin 9) aq rl, (n = 4 ∨ n = 8) → a % n = 0 →
            let t := s.detect false a n
            let r := t.view (.sidecar core) false a n false s.opCount
            r.pois = false → r.integ = none → ∀ w,
              t.write false a (bytesOf n (amoNew k.val (8 * n) (ofBytes r.data) (ofBytes (bytesOf n v.toNat)))) = some w →
              run (.amo k aq rl) fun u => u.outbox = t.outbox ++ [.readData r.data false] ∧ u.pieces = s.pieces
                ∧ ∀ b x, u.byte b x = w.byte b x)))
      ∧ (s.sidecarMay a = false → ∀ op, (∀ p q, op ≠ .fence p q) → (sideAtomic op = true → (n = 4 ∨ n = 8) ∧ a % n = 0) →
        run op fun u => ∃ w, u.outbox = w ++ [.accessFault core (sideWrites op)] ∧ u.pieces = s.pieces))
    ∧ (core < 16 → 3 ≤ s.hub.boot → s.hub.power ≤ 1 → ∀ p q,
      ∃ u, exec (.sidecarMemoryAccess core (.fence p q) addr n v) s = .next u ∧ u = { s with side := u.side })

end

namespace Sys2Proof.Machine

/-! ## The Decroth links -/

/-- Steps of the links change nothing but the links' own state, the hub and what leaves the package. -/
def OnlyLinks (s u : State) : Prop := u = { s with links := u.links, hub := u.hub, outbox := u.outbox }

/-- The flit of a held flit as it goes on the lanes of a pair now. -/
def Flit.onWire (f : Flit) (p : Pair) (n : Nat) : Output := .flit n f.payload (trailer f.payload f.seq p.rxack p.nak f.cred)

/-- Whole flits have been handed to a group: they are held for replay, and their payloads, in order, are the bytes. -/
def Handed (s u : State) (n : Nat) (b : List Byte) : Prop :=
  ∃ fs, (u.pairOf n).replay = (s.pairOf n).replay ++ fs ∧ fs.flatMap (·.payload) = b ∧ ∀ f ∈ fs, f.payload.length = 64

/-- A port none of whose groups lacks a lane. -/
def FullPort (s : State) (port : Nat) : Prop :=
  ∀ g, g < 4 → 2 ≤ (s.pairOf (4 * port + g)).gout ∧ 2 ≤ (s.pairOf (4 * port + g)).gin

/-- A request that the memory server of a pair takes next and may apply. -/
def Serves (s : State) (n : Nat) (b : List Byte) : Prop :=
  s.serving n = true ∧ s.heldAt n = none ∧ s.unitAt n = some b ∧ s.lineBusy n b = false

/-- A reply that the requester of a pair takes next. -/
def Answers (s : State) (n op : Nat) (b : List Byte) : Prop :=
  (s.pairOf n).mem = true ∧ s.unitAt n = some b ∧ unitOp b = op

end Sys2Proof.Machine

section
open Sys2Proof Sys2Proof.Machine

/-- Bindings (R277 to R280): the hub claims the pair of an entry and sends its bind flit; a bind flit of the peer that
agrees completes the binding, one of another domain ends the launch as unfit, another is kept for a later claim; the
memory server takes a pair or refuses it, as it must where the keys differ (log 49, DESIGN CHOICE: the choice says so); bindings incomplete too long end the launch; a pair of an ended launch is
released once its flits are acknowledged. -/
def Obligations.BindingsAreMade : Prop :=
  ∀ (s : State) (l i n pkg t : Nat) (b : Binding) (bid : Word32) (dom : BitVec 4),
    let p := s.pairOf n
    let x := s.launch l
    (x.binds[i]? = some b → x.st = .ready → b.die = false → b.claimed = false → b.pair = n → p.launch = none →
      (p.server = true → b.mem = true) → p.gout ≠ 0 → p.gin ≠ 0 → p.early = none →
      let d := bits (dword x.image 10) 0 4
      ∃ u, exec (.pairClaim l i) s = .next u ∧ OnlyLinks s u
        ∧ u.outbox = s.outbox ++ [.bindFlit n s.hub.pkg.toNat b.bid d b.mem]
        ∧ (u.pairOf n).launch = some l ∧ (u.pairOf n).bid = b.bid ∧ (u.pairOf n).dom = d ∧ (u.pairOf n).peer = b.peer
        ∧ (u.pairOf n).bound = false ∧ (u.pairOf n).cred = 16 ∧ ∀ m, m ≠ n → u.pairOf m = s.pairOf m)
    ∧ (p.launch = some l → p.mem = false → p.bound = false →
      (pkg = p.peer → bid = p.bid →
        (dom.toNat = p.dom → ∃ u, exec (.bindFlitReceive n pkg bid dom .stream) s = .next u ∧ OnlyLinks s u
          ∧ (u.pairOf n).bound = true
          ∧ ∀ c ∈ (u.launch l).binds, c.die = false → c.claimed = true → c.pair = n → c.bound = true)
        ∧ (dom.toNat ≠ p.dom → ∃ u, exec (.bindFlitReceive n pkg bid dom .stream) s = .next u ∧ u.pieces = s.pieces
          ∧ (u.launch l).st = .unfit ∧ u.hub.errseq = s.hub.errseq + 1))
      ∧ (pkg ≠ p.peer ∨ bid ≠ p.bid → exec (.bindFlitReceive n pkg bid dom .stream) s
          = .next (s.setPair n { p with early := some (pkg, bid, dom.toNat) })))
    ∧ (p.launch = none → exec (.bindFlitReceive n pkg bid dom .stream) s
        = .next (s.setPair n { p with early := some (pkg, bid, dom.toNat) }))
    ∧ (let k := s.keyDom dom.toNat
      let ok := k.prov && !k.ending && s.choose.1 % 2 == 0 && (p.launch.isNone || p.mem)
      ∃ u, exec (.bindFlitReceive n pkg bid dom .memory) s = .next u ∧ OnlyLinks s.choose.2 u
        ∧ u.outbox = s.outbox ++ [.bindAnswer n ok]
        ∧ u.pairOf n = (if ok then { p with server := true, served := dom.toNat, lost := false } else p))
    ∧ (p.launch = some l → p.bound = false →
      (p.mem = true → ∃ u, exec (.bindFlitReceive n pkg bid dom (.answer true)) s = .next u ∧ (u.pairOf n).bound = true)
      ∧ ∃ u, exec (.bindFlitReceive n pkg bid dom (.answer false)) s = .next u ∧ (u.launch l).st = .unfit)
    ∧ exec (.bindFlitReceive n pkg bid dom .unbind) s = .next (s.setPair n { p with server := false, early := none })
    ∧ (x.claimAt = some t → x.st = .ready → b ∈ x.binds → b.die = false → b.bound = false → b.lost = false →
      (t + 2 ^ 28 ≤ s.time → ∃ u, exec (.bindingTimeout l) s = .next u ∧ u.pieces = s.pieces ∧ (u.launch l).st = .unfit
        ∧ u.hub.errseq = s.hub.errseq + 1)
      ∧ (s.time < t + 2 ^ 28 → exec (.bindingTimeout l) s = .next s))
    ∧ (p.launch = some l → x.over = true → p.replay = [] → (∀ r ∈ s.links.requests, r.pair = n → r.dead = true) →
      ∃ u, exec (.pairRelease n) s = .next u ∧ OnlyLinks s u ∧ u.outbox = s.outbox ++ [.unbindFlit n]
        ∧ (u.pairOf n).launch = none ∧ (u.pairOf n).bound = false
        ∧ ∀ kv ∈ u.links.queues, ¬(kv.2.launch = l ∧ kv.2.pair = some n))

/-- Flits (R284, R285): the fields of the trailer; a flit whose CRC fails is dropped and asked for again, one in order is
taken with its acknowledgement and credits, one out of order is dropped, and while one is asked for nothing is taken of any other; a group with nothing to send sends an idle flit;
held flits are sent again, oldest first, when no acknowledgement advances, and a group whose replay is exhausted retrains
and then goes on (R393). -/
def Obligations.FlitsAreAcknowledged : Prop :=
  ∀ (s : State) (n cred : Nat) (payload : List Byte) (t : BitVec 72) (seq ack : BitVec 16) (nak : Bool),
    let p := s.pairOf n
    (let tr := trailer payload seq ack nak cred;
      tr.extractLsb' 0 16 = seq ∧ tr.extractLsb' 16 16 = ack ∧ tr.getLsbD 32 = nak
        ∧ (cred < 128 → (tr.extractLsb' 33 7).toNat = cred)
        ∧ (tr.extractLsb' 40 32).toNat = crc32c (nats (payload ++ bytesOf 5 (tr.extractLsb' 0 40).toNat)))
    ∧ (p.gin ≠ 0 →
      let low := (t.extractLsb' 0 40).toNat
      let crc := (t.extractLsb' 40 32).toNat
      let taken := p.cred + (t.extractLsb' 33 7).toNat;
      (flitCrc payload low ≠ crc → exec (.flitReceive n payload t) s = .next (s.setPair n { p with nak := true }))
      ∧ (flitCrc payload low = crc →
        (p.nak = true → t.extractLsb' 0 16 ≠ p.rxack + 1 → exec (.flitReceive n payload t) s = .next s)
        ∧ (p.nak = false ∨ t.extractLsb' 0 16 = p.rxack + 1 → ∃ u, exec (.flitReceive n payload t) s = .next u
          ∧ ∀ f ∈ (u.pairOf n).replay, 2 ^ 15 ≤ (t.extractLsb' 16 16 - f.seq).toNat)
        ∧ (p.replay = [] →
          (payload = [] → p.nak = false ∨ t.extractLsb' 0 16 = p.rxack + 1 →
            exec (.flitReceive n payload t) s = .next (s.setPair n { p with nak := false, cred := taken }))
          ∧ (payload ≠ [] → t.extractLsb' 0 16 = p.rxack + 1 → exec (.flitReceive n payload t) s = .next (s.setPair n { p with
              rxack := p.rxack + 1, nak := false, cred := taken
              rx := if p.launch.isSome ∨ p.server = true then p.rx ++ payload else p.rx }))
          ∧ (payload ≠ [] → t.extractLsb' 0 16 ≠ p.rxack + 1 → exec (.flitReceive n payload t) s = .next s))))
    ∧ (p.sends = true → exec (.idleFlit n) s = .next { s.setPair n { p with freed := p.freed - Nat.min p.freed 127 } with
        outbox := s.outbox ++ [.flit n [] (trailer [] p.txseq p.rxack p.nak (Nat.min p.freed 127))] })
    ∧ (p.sends = true → p.replay ≠ [] → p.sinceAck + 4096 ≤ s.time →
      ((∀ f ∈ p.replay, f.sends < 16) → ∃ u, exec (.replayTimeout n) s = .next u ∧ OnlyLinks s u ∧ u.hub = s.hub
        ∧ u.outbox = s.outbox ++ p.replay.map (·.onWire p n)
        ∧ u.pairOf n = { p with replay := p.replay.map fun f => { f with sends := f.sends + 1, sent := true }, sinceAck := s.time })
      ∧ ((∃ f ∈ p.replay, 16 ≤ f.sends) → p.retrain ≠ 2 →
        exec (.replayTimeout n) s = .next (s.setPair n { p with retrain := 1 }))
      ∧ ((∃ f ∈ p.replay, 16 ≤ f.sends) → p.retrain = 2 → p.bound = true → ∃ u, exec (.replayTimeout n) s = .next u
        ∧ (u.pairOf n).lost = true ∧ (u.pairOf n).bound = false ∧ (u.pairOf n).replay = []))
    ∧ (p.retrain = 1 → p.lost = false → FullPort s (n / 4) → ∃ u w, exec (.groupRetrainComplete n 0) s = .next u
        ∧ u.pieces = s.pieces ∧ u.outbox = w ++ p.replay.map (·.onWire p n)
        ∧ (u.pairOf n).retrain = 2 ∧ (u.pairOf n).replay = p.replay.map fun f => { f with sends := 1, sent := true })

/-- Lanes (R276, R390 to R392): a receiver that loses block lock is timed, and its lane is lost after 2^14 cycles without
it; a lane turned round and retrained serves its new group, and one that fails leaves its group, which is lost when it has
no lane. -/
def Obligations.LanesAreLostAndTurned : Prop :=
  ∀ (s : State) (port lane g : Nat), lane < 16 → g < 4 →
    let x := s.laneOf port lane
    let n := 4 * port + g
    let p := s.pairOf n
    (x.up = true → x.unlock = none →
      exec (.blockLockLoss port lane) s = .next (s.setLane port lane { x with unlock := some s.time }))
    ∧ (x.up = true → exec (.blockLockRegain port lane) s = .next (s.setLane port lane { x with unlock := none }))
    ∧ (∀ t, x.up = true → x.unlock = some t →
      (t + 2 ^ 14 ≤ s.time → ∃ u, exec (.laneLost port lane) s = .next u ∧ (u.laneOf port lane).up = false
        ∧ ((∀ k, k < 4 → (s.pairOf (4 * port + k)).bound = false ∧ (s.pairOf (4 * port + k)).server = false) →
          u.pieces = s.pieces ∧ u.hub.errseq = s.hub.errseq + 1
          ∧ ∀ k, k < 4 → (u.pairOf (4 * port + k)).gout = u.groupCode port true k
            ∧ (u.pairOf (4 * port + k)).gin = u.groupCode port false k))
      ∧ (s.time < t + 2 ^ 14 → exec (.laneLost port lane) s = .next s))
    ∧ (x.turning = true → x.serves = some g →
      (let y : LaneSt := { x with turning := false, up := true };
        (∀ d k, k < 4 → 2 ≤ (s.setLane port lane y).groupCode port d k
          ∨ ((s.pairOf (4 * port + k)).bound = false ∧ (s.pairOf (4 * port + k)).server = false)) →
        (∀ i k, (s.laneOf port i).serves = some k → (s.pairOf (4 * port + k)).idle = false) →
        (∀ f ∈ p.replay, f.sends < 16) →
        ∃ u, exec (.laneTurnaroundComplete port lane true) s = .next u ∧ u.pieces = s.pieces ∧ u.laneOf port lane = y
          ∧ u.hub.errseq = s.hub.errseq + 1)
      ∧ (let z : LaneSt := { x with turning := false, up := false, unlock := none }
        ∃ u, exec (.laneTurnaroundComplete port lane false) s = .next u ∧ (u.laneOf port lane).up = false
          ∧ ((s.setLane port lane z).groupCode port x.out g = 0 → p.bound = true → p.lost = false →
            (∀ i, i < 16 → i ≠ lane → (s.laneOf port i).turning = false) →
            (u.pairOf n).lost = true ∧ (u.pairOf n).bound = false)))

/-- Tokens of link queues (R281 to R283, R291, R382, R397): a token leaves the send buffer as a frame on its pair, for one
credit, or over the die-to-die channel, where it is available 8 or 24 cycles later; a frame that passes its check enters
the receive buffer, and one that fails loses the pair. -/
def Obligations.TokensCrossLinks : Prop :=
  ∀ (s : State) (k n j : Nat) (t : Token) (rest : List Token) (f : BufTok) (later : List BufTok) (q : LinkQ),
    let o := s.linkQ k
    let p := s.pairOf n
    (o.send = t :: rest → o.live = true → o.lost = false →
      (o.pair = some n → p.bound = true → 0 < p.cred → p.sends = true → frameFlits t.kind ≤ s.replayRoom n →
        ∃ u, exec (.linkTokenSend k) s = .next u ∧ OnlyLinks s u ∧ u.hub = s.hub
          ∧ Handed s u n (frameOf (s.keyDom p.dom) p.bid p.frames t)
          ∧ (u.pairOf n).cred = p.cred - 1 ∧ (u.pairOf n).frames = p.frames + 1
          ∧ u.linkQ k = { o with send := rest } ∧ ∀ m, m ≠ k → u.linkQ m = s.linkQ m)
      ∧ (o.pair = none → o.recv.length + o.fly.length < 16 → ∀ a b, s.panelOf o.launch o.seqOut = some a →
          s.panelOf o.launch o.seqIn = some b → exec (.linkTokenSend k) s = .next (s.setLinkQ k { o with
            send := rest, fly := o.fly ++ [{ tok := t, avail := s.time + if a = b then 8 else 24 }] })))
    ∧ (o.fly = f :: later → f.avail ≤ s.time → o.live = true →
      (o.syn = 0 → exec (.dieToDieTokenArrive k) s
        = .next (s.setLinkQ k { o with fly := later, recv := o.recv ++ [f.tok], resent := false }))
      ∧ (o.syn ≠ 0 → o.resent = false → ∃ u, exec (.dieToDieTokenArrive k) s = .next u ∧ u.pieces = s.pieces
        ∧ u.linkQ k = { o with resent := true, fly := { f with avail := s.time + 1 } :: later }
        ∧ u.hub.errseq = s.hub.errseq + 1))
    ∧ (let size := 64 * frameFlits (kindOf (ofBytes (p.rx.take 1) % 16))
      p.bound = true → p.mem = false → p.rx ≠ [] → size ≤ p.rx.length → q.recv.length < 16 →
      (s.links.queues.find? fun kv => kv.2.live && !kv.2.lost && kv.2.pair == some n && kv.2.seqIn.isSome) = some (j, q) →
      (∀ tok, tokenOf (s.keyDom p.dom) p.bid p.framesIn (p.rx.take size) = some tok →
        ∃ u, exec (.streamFrameReceive n) s = .next u ∧ OnlyLinks s u ∧ u.hub = s.hub
          ∧ u.pairOf n = { p with rx := p.rx.drop size, framesIn := p.framesIn + 1 }
          ∧ u.linkQ j = { q with recv := q.recv ++ [tok] })
      ∧ (tokenOf (s.keyDom p.dom) p.bid p.framesIn (p.rx.take size) = none → p.lost = false →
        ∃ u, exec (.streamFrameReceive n) s = .next u ∧ (u.pairOf n).lost = true ∧ (u.pairOf n).bound = false
          ∧ (u.pairOf n).rx = []))

/-- The memory server (R287, R288, R290, R363, R364, R396): a request that the wall lets through and no move covers is
applied and answered with status 0; one that the wall stops is answered with status 1 and changes no byte; one of a
revoked domain loses the binding; one under a move is held, and answered with status 3 when its hold expires. -/
def Obligations.ServerAppliesRequests : Prop :=
  ∀ (s : State) (n : Nat) (b : List Byte), Serves s n b →
    let p := s.pairOf n
    let pa := unitPa b
    let a := pa % 2 ^ 45
    let l := a / 128 * 128
    let s0 := s.detect false l 128
    let ct := (b.drop 64).take 128
    let rows : List (Nat × Instr × List Byte) :=
      [(1, .remoteStoreLine n, ackUnit 1), (2, .remoteStorePartial n, ackUnit 1), (3, .remoteLoad n, loadUnit pa 1 0 []),
       (4, .remoteInvoke n, failUnit pa 1)]
    (s.holdsReq pa = false → s.revokedFor p.served = false → s.servedOk p.served pa = true → s.hub.moveOf a = none →
      (unitOp b = 1 → ∃ u, exec (.remoteStoreLine n) s = .next u ∧ Handed s u n (ackUnit 0)
        ∧ (u.pairOf n).rx = p.rx.drop 192
        ∧ (∀ w y, u.byte w y = (if w = false ∧ l ≤ y ∧ y < l + 128 then nth 0 ct (y - l) else s.byte w y))
        ∧ u.lineMeta l = BitVec.ofNat 61 (ofBytes ((b.drop 8).take 7) + p.served * 2 ^ 56 + 2 ^ 60))
      ∧ (unitOp b = 2 → s0.poisoned false l 128 = false → ∀ old, s0.plainLine l = some old →
        let new := toBytes (xts false (s.keyDom p.served).xts (pa / 128 * 128) (nats ct))
        ∃ u, exec (.remoteStorePartial n) s = .next u ∧ Handed s u n (ackUnit 0) ∧ (u.pairOf n).rx = p.rx.drop 192
          ∧ ∀ w y, u.byte w y
            = (s0.putSealed l p.served (maskMerge (ofBytes ((b.drop 16).take 16)) old new)).byte w y)
      ∧ (unitOp b = 3 → s0.poisoned false l 128 = false → ∃ u, exec (.remoteLoad n) s = .next u
        ∧ Handed s u n (loadUnit pa 0 ((s0.lineMeta l).toNat % 2 ^ 56) (s0.bytes false l 128))
        ∧ (u.pairOf n).rx = p.rx.drop 64 ∧ ∀ w y, u.byte w y = s0.byte w y)
      ∧ (unitOp b = 4 → ∀ v, unitValue (s.keyDom p.served) b = some v → ∃ u, exec (.remoteInvoke n) s = .next u
        ∧ (u.pairOf n).rx = p.rx.drop 64 ∧ (∀ w y, u.byte w y = s.byte w y)
        ∧ u.invokes = s.invokes ++ [({ id := s.opCount, piece := 0, pair := some n, vault := false, addr := a, operand := v
                                       fn := ofBytes ((b.drop 8).take 1) % 32, pa := pa } : Invoke)]))
    ∧ ∀ row ∈ rows, unitOp b = row.1 →
      (s.holdsReq pa = false → s.revokedFor p.served = false → s.servedOk p.served pa = false →
        ∃ u, exec row.2.1 s = .next u ∧ Handed s u n row.2.2 ∧ ∀ w y, u.byte w y = s.byte w y)
      ∧ (s.holdsReq pa = false → s.revokedFor p.served = true → p.lost = false →
        ∃ u, exec row.2.1 s = .next u ∧ (u.pairOf n).lost = true ∧ (u.pairOf n).server = false)
      ∧ (s.holdsReq pa = true → ∃ u, exec row.2.1 s = .next u ∧ (∀ w y, u.byte w y = s.byte w y)
        ∧ u.hub.held = s.hub.held ++ [({ id := s.opCount, pair := n, bytes := b, since := s.time } : HeldReq)])

/-- Replies at the requester (R187, R287, R290, R364, R365, R372, R396): the one that waits for a load gets its bytes out
of the opened line, or INTEGRITY where the tag fails; an acknowledgement ends its store, or raises the trap of its status;
an invocation's result reaches the word that waits; a request without a reply in 2^22 cycles ends as one answered with
status 0x10, and a held one in 2^20 cycles is answered with status 3. -/
def Obligations.RepliesSettleRequests : Prop :=
  ∀ (s : State) (n : Nat) (b : List Byte) (r : RemoteReq) (o : MemOp) (h : HeldReq),
    let line := unitPa b
    let st := ofBytes ((b.drop 8).take 1)
    (Answers s n 0x81 b → (s.requestOf n 0 fun q => q.addr / 128 * 128 == line) = some r → r.dead = false →
      s.opOf r.id = some o → s.awaited o = true → o.isUpdate = false →
      let opened := openLine (s.keyDom r.key) line ((b.drop 64).take 128) (ofBytes ((b.drop 16).take 7))
      ∃ u, exec (.loadReply n) s = .next u
        ∧ (st ≠ 0x12 → u.links.requests = s.links.requests.filter (fun q => q.id != r.id) ∧ ∀ w a, u.byte w a = s.byte w a)
        ∧ (st = 0 → ∀ clear, opened = some clear →
          u.opOf r.id = some { o with data := (clear.drop (r.addr % 128)).take r.size, level := 5 })
        ∧ (st = 0 → opened = none →
          u.opOf r.id = some { o with fail := some (cINTEGRITY, BitVec.ofNat 64 (line + r.key * 2 ^ 56)), level := 5 })
        ∧ (st = 1 → u.opOf r.id = some { o with fail := some (cWALL, 0), level := 5 })
        ∧ (st = 4 → u.opOf r.id = some { o with fail := some (cPOISON, 0), level := 5 }))
    ∧ (Answers s n 0x82 b → ofBytes ((b.drop 8).take 2) = 1 → s.requestOf n 1 (fun _ => true) = some r → r.dead = false →
      let code := ofBytes ((b.drop 10).take 1)
      ∃ u, exec (.storeAcknowledgement n) s = .next u
        ∧ (code ≠ 0x12 → u.links.requests = s.links.requests.filter (fun q => q.id != r.id) ∧ ∀ w a, u.byte w a = s.byte w a)
        ∧ (code = 0 → u.ops = s.ops.filter fun w => w.id != r.id && w.via != some r.id)
        ∧ (code = 1 → s.opOf r.id = some o → (s.pieceOf o.piece).live = true → ∃ sd,
          u.pieceOf o.piece = (s.pieceOf o.piece).raise (asyncTrap o sd cWALL 0)))
    ∧ (Answers s n 0x84 b → (s.requestOf n 2 fun q => q.addr == line) = some r → r.dead = false →
      (s.pieceOf r.piece).await = .invoke r.id → st = 0 →
      ∃ u, exec (.invokeResult n) s = .next u
        ∧ (∀ v, unitValue (s.keyDom r.key) b = some v → (u.pieceOf r.piece).await = .result ((v.setWidth 40 : Lane).signExtend 64))
        ∧ (unitValue (s.keyDom r.key) b = none → ∃ l, (u.pieceOf r.piece).await = .failed cINTEGRITY l))
    ∧ ((s.links.requests.find? fun q => q.id == r.id) = some r → r.dead = false →
      (s.time < r.at_ + 2 ^ 22 → exec (.remoteReplyTimeout r.id) s = .next s)
      ∧ (r.at_ + 2 ^ 22 ≤ s.time → s.opOf r.id = some o → ∃ u, exec (.remoteReplyTimeout r.id) s = .next u
        ∧ (∀ q ∈ u.links.requests, q.id = r.id → q.dead = true)
        ∧ (r.kind = 0 → s.awaited o = true → o.isUpdate = false → u.opOf r.id = some { o with fail := some (cREMOTE_FAIL, 0), level := 5 })
        ∧ (r.kind = 2 → (s.pieceOf o.piece).await = .invoke o.id → (u.pieceOf o.piece).await = .failed cREMOTE_FAIL 0)))
    ∧ ((s.hub.held.find? fun q => q.id == h.id) = some h → s.holdsReq (unitPa h.bytes) = true →
      (s.time < h.since + 2 ^ 20 → exec (.moveHoldExpire h.id) s = .next s)
      ∧ (h.since + 2 ^ 20 ≤ s.time → 3 ≤ s.replayRoom h.pair → ∃ u, exec (.moveHoldExpire h.id) s = .next u
        ∧ u.hub.held = s.hub.held.filter (fun q => q.id != h.id) ∧ (∀ w a, u.byte w a = s.byte w a)
        ∧ Handed s u h.pair (match unitOp h.bytes with
          | 3 => loadUnit (unitPa h.bytes) 3 0 []
          | 4 => failUnit (unitPa h.bytes) 3
          | _ => ackUnit 3)))

end

namespace Sys2Proof.Machine

/-! ## Encodings, steps and reset -/

/-- A step of the part's own units is the instruction of its event. -/
def Does (a : Auto) (i : Instr) : Prop := ∀ s ts, s.agenda = .auto a :: ts → step s = exec i { s with agenda := ts }

/-- The hub registers whose reset value the manual gives as other than from fuses or bring-up, and that value (R39, R63,
R69, R76, R77, R85, R231, R276, R348, R357, R363). -/
def resetRows (q n d : Nat) : List (Nat × W64) :=
  [(8, 0), (0x1000 + 64 * q, 0), (0x1008 + 64 * q, 4), (0x1010 + 64 * q, 0), (0x1018 + 64 * q, 0), (0x1020 + 64 * q, 0),
   (0x4000 + 8 * n, 0), (0x6000 + 8 * n, 0x30), (0x3C00 + 8 * d, 0), (0x8000 + 32 * n, 0), (0x8008 + 32 * n, 0),
   (0x8010 + 32 * n, 0), (0x8018 + 32 * n, 0), (0x3000, 0), (0x3700, 0), (0x3708, 0), (0x3E08, 0), (0x3E10, 0), (0x3208, 0)]

/-- What an engine's turn makes of a word of its own, `w`: it executes the instruction that the word decodes to, or raises
ILLEGAL; an `s.qdisc` first puts itself off to the end of the cycle (R181). -/
structure RunsOwn (s x : State) (e w : Nat) : Prop where
  runs : ∀ m, (e = 0 → isQdisc w = true → x.piece.s.late = true) → decodeText w = .ok m → step s = exec m x
  traps : ∀ err, (e = 0 → isQdisc w = true → x.piece.s.late = true) → decodeText w = .error err →
    step s = .next (x.wordTrap e 0 cILLEGAL (BitVec.ofNat 64 w) 0)
  waits : e = 0 → isQdisc w = true → x.piece.s.late = false →
    step s = .next (x.modPiece fun p => { p with s := { p.s with late := true } })

/-- A state in which engine `e` of the acting piece holds the word it has fetched. -/
def State.holding (s : State) (e w : Nat) : State :=
  s.modPiece fun p => p.setEng e { p.eng e with word := some (BitVec.ofNat 32 w) }

end Sys2Proof.Machine

section
open Sys2Proof Sys2Proof.Machine

/-- The words of text, one encoding for one instruction (R144, R146, R148, R149, R151): the word of a well-formed
instruction decodes to that instruction, with every operand, and every word that decodes is the word of the well-formed
instruction it decodes to, so that no bit is dropped and no reserved bit is ignored. -/
def Obligations.TextDecodesWhatItEncodes : Prop :=
  (∀ (i : Instr) (w : Nat), i.wf = true → encodeText i = some w → decodeText w = .ok i ∧ w < 2 ^ 32)
  ∧ ∀ (i : Instr) (w : Nat), w < 2 ^ 32 → decodeText w = .ok i → encodeText i = some w ∧ i.wf = true

/-- The words of element moves, one encoding for one instruction (R153 to R157). -/
def Obligations.MovesDecodeWhatTheyEncode : Prop :=
  (∀ (i : Instr) (w : Nat), i.wf = true → encodeMove i = some w → decodeMoveWord w = .ok i ∧ w < 2 ^ 32)
  ∧ ∀ (i : Instr) (w : Nat), w < 2 ^ 32 → decodeMoveWord w = .ok i → encodeMove i = some w ∧ i.wf = true

/-- Some words written out from their encodings (R146, R149, R151, R153), with the field values in the order of the table:
`s.addi s3, s1, -5`, `s.add s4, s5, s6`, `s.ld.d`, `s.end` that gives M a tack, `c.go` of descriptor 9, `m.toil`, `f.turn now`,
an `add` and an `rcp` of an element; an unassigned major of S, and a plain move to a port that no move may write, are
no instruction. -/
def Obligations.SomeWordsDecode : Prop :=
  decodeText (0b00#2 ++ 0#4 ++ 0x02#6 ++ 3#5 ++ 1#5 ++ 0b1111111011#10).toNat = .ok (.sAddi 0 3 1 (-5))
  ∧ decodeText (0b00#2 ++ 0#4 ++ 0x00#6 ++ 4#5 ++ 5#5 ++ 6#5 ++ 0#5).toNat = .ok (.sAdd 0 4 5 6)
  ∧ decodeText (0b00#2 ++ 0#4 ++ 0x10#6 ++ 7#5 ++ 8#5 ++ 1#3 ++ 2#3 ++ 3#4).toNat = .ok (.sLdD 0 7 8 1 2)
  ∧ decodeText (0b00#2 ++ 0b0110#4 ++ 0x30#6 ++ 0#5 ++ 0#5 ++ 0#5 ++ 5#5).toNat = .ok (.sEnd 6)
  ∧ decodeText (0b01#2 ++ 0#4 ++ 0#5 ++ 9#4 ++ 0#17).toNat = .ok (.cGo 0 9)
  ∧ decodeText (0b10#2 ++ 0#4 ++ 11#5 ++ 0#3 ++ 0#18).toNat = .ok (.mToil 0)
  ∧ decodeText (0b11#2 ++ 0#4 ++ 1#5 ++ 1#21).toNat = .ok (.fTurnNow 0)
  ∧ decodeMoveWord (0#3 ++ 2#6 ++ 48#6 ++ 0#3 ++ 15#4 ++ 0#2 ++ 0b01000011#8).toNat = .ok (.add 0 2 15 0 0x43)
  ∧ decodeMoveWord (3#3 ++ 1#6 ++ 53#6 ++ 2#3 ++ 15#4 ++ 1#2 ++ 0#8).toNat = .ok (.rcp 3 1 15 1)
  ∧ (∃ e, decodeText (0b00#2 ++ 0#4 ++ 0x0D#6 ++ 0#20).toNat = .error e)
  ∧ ∃ e, decodeMoveWord (0#3 ++ 2#6 ++ 0#6 ++ 0#3 ++ 15#4 ++ 0#2 ++ 0#8).toNat = .error e

/-- A step runs the instruction that stands there (R16, R18, R144, R241): an engine's turn fetches the word at its program
counter, once, and runs its own, raises ILLEGAL for one that R144 rejects and the trap of a fetch that fails, and passes
another engine's, up to eight; an element's turn runs the move that it fires now; a further turn in a cycle is for an engine
that a tack has stalled, or for an `s.qdisc`; the steps of the part's other units, events, and the end of a cycle are taken
from the agenda in its order (the model's own: logs 3 and 5). -/
def Obligations.StepsRunTheirInstruction : Prop :=
  (∀ (s : State) (k e i : Nat) (ts : List Turn) (m : Instr),
    let s0 := State.at { s with agenda := ts } k
    (s.agenda = .engine k e :: ts → e < 4 → s0.engineOn k e = true → s0.piece.engIdle e = false → (e = 3 → s0.piece.faceDue = false) →
      (∀ w, (s0.piece.eng e).word = some w → RunsOwn s s0 e w.toNat)
      ∧ ((s0.piece.eng e).word = none →
        (∀ s1 w, s0.fetch (s0.piece.eng e).pc = .word s1 w →
          (engOf w = e → RunsOwn s (s1.holding e w) e w)
          ∧ (let s2 := s1.modPiece fun p => p.pass1 e w;
            engOf w ≠ e → (s2.piece.eng e).pc ≠ (s1.piece.eng e).pc → step s = s2.engineRun exec e 7))
        ∧ ∀ s1 c l, s0.fetch (s0.piece.eng e).pc = .bad s1 c l →
          step s = .next (s1.wordTrap e 0 c (s0.piece.eng e).pc l)))
    ∧ (s.agenda = .engine k e :: ts → s0.engineOn k e = true → s0.piece.engIdle e = true → step s = .next s0)
    ∧ (s.agenda = .engine k e :: ts → s0.engineOn k e = false → step s = .next { s with agenda := ts })
    ∧ (s.agenda = .retry k e :: ts → (s0.piece.eng e).tackWait = none → step s = .next { s with agenda := ts })
    ∧ (let x := s0.modPiece fun p => p.setEng e { p.eng e with tackWait := none };
      s.agenda = .retry k e :: ts → e < 4 → (s0.piece.eng e).tackWait ≠ none → x.piece.engIdle e = false →
      ∀ w, (x.piece.eng e).word = some w → RunsOwn s x e w.toNat)
    ∧ (s.agenda = .late k :: ts → s0.piece.s.late = false → step s = .next { s with agenda := ts })
    ∧ (s.agenda = .late k :: ts → s0.piece.s.late = true → s0.piece.engIdle 0 = false →
      ∀ w, s0.piece.s.word = some w → RunsOwn s s0 0 w.toNat)
    ∧ (s.agenda = .element k e :: ts → s0.piece.live = true → s0.piece.atSeam = false → s0.piece.abort = none →
      s0.slotNow e = some i →
      decodeMoveWord ((s0.piece.pleat e false).plane.slot i) = .ok m → step s = exec m { s0 with focusE := e, focusS := i })
    ∧ (s.agenda = .event m :: ts → step s = exec m { s with agenda := ts })
    ∧ (s.agenda = .tick :: ts → step s = .next (State.tick { s with agenda := ts }) ∧ (State.tick { s with agenda := ts }).time = s.time + 1)
    ∧ (s.agenda = [] → ∃ u, step s = .next u ∧ u = { s with agenda := u.agenda, choices := u.choices }
      ∧ u.agenda.getLast? = some .tick))
  ∧ ∀ (a b c : Nat) (f : Bool) (w : BitVec 3),
    Does (.queueLoadDeliver a b) (.queueLoadDeliver a b) ∧ Does (.loadDataReturn a b f) (.loadDataReturn a b f) ∧
    Does (.controlTokenArrive a) (.controlTokenArrive a) ∧ Does (.hubTurn a) (.hubTurn a) ∧
    Does (.streamTransfer a b) (.streamTransfer a b) ∧ Does (.streamEnd a b) (.streamEnd a b) ∧
    Does (.scatterUpdate a) (.scatterUpdate a) ∧ Does (.barrierEventApply a) (.barrierEventApply a) ∧
    Does (.nestPass a) (.nestPass a) ∧ Does (.drainTokenPush a) (.drainTokenPush a) ∧
    Does (.operationResult a b c) (.operationResult a b c) ∧ Does (.tokenLinkHop a b c) (.tokenLinkHop a b c) ∧
    Does (.edgePortTransfer a b) (.edgePortTransfer a b) ∧ Does (.elementTurn a b) (.elementTurn a b) ∧
    Does (.ksetHandle a b c) (.ksetHandle a b c) ∧ Does (.elementClockGate a b) (.elementClockGate a b) ∧
    Does (.elementPowerGate a b) (.elementPowerGate a b) ∧ Does (.elementWake a b) (.elementWake a b) ∧
    Does (.watchdog a) (.watchdog a) ∧ Does (.trapDelivery a) (.trapDelivery a) ∧ Does (.taskEnd a) (.taskEnd a) ∧
    Does (.launchRecordRead a) (.launchRecordRead a) ∧ Does (.launchWaitMet a) (.launchWaitMet a) ∧
    Does (.agingStep a) (.agingStep a) ∧ Does (.pieceReserve a) (.pieceReserve a) ∧ Does (.pieceGrant a) (.pieceGrant a) ∧
    Does (.switchOut a) (.switchOut a) ∧ Does (.sequenceResume a) (.sequenceResume a) ∧
    Does (.launchDone a) (.launchDone a) ∧ Does .subgraphLoadDone .subgraphLoadDone ∧
    Does (.remoteSubgraphFire a) (.remoteSubgraphFire a) ∧ Does (.moveHoldExpire a) (.moveHoldExpire a) ∧
    Does (.pairClaim a b) (.pairClaim a b) ∧ Does (.bindingTimeout a) (.bindingTimeout a) ∧
    Does (.pairRelease a) (.pairRelease a) ∧ Does (.linkTokenSend a) (.linkTokenSend a) ∧
    Does (.replayTimeout a) (.replayTimeout a) ∧ Does (.streamFrameReceive a) (.streamFrameReceive a) ∧
    Does (.dieToDieTokenArrive a) (.dieToDieTokenArrive a) ∧ Does (.remoteStoreLine a) (.remoteStoreLine a) ∧
    Does (.remoteStorePartial a) (.remoteStorePartial a) ∧ Does (.remoteLoad a) (.remoteLoad a) ∧
    Does (.remoteInvoke a) (.remoteInvoke a) ∧ Does (.loadReply a) (.loadReply a) ∧
    Does (.storeAcknowledgement a) (.storeAcknowledgement a) ∧ Does (.invokeResult a) (.invokeResult a) ∧
    Does (.remoteReplyTimeout a) (.remoteReplyTimeout a) ∧ Does (.memoryWritePerform a w) (.memoryWritePerform a w) ∧
    Does (.blockLockLoss a b) (.blockLockLoss a b) ∧ Does (.idleFlit a) (.idleFlit a) ∧
    Does .powerStateEntryComplete .powerStateEntryComplete ∧ Does (.laneLost a b) (.laneLost a b)

/-- What reset leaves (R4, R39, R77, R304, R348, R412): the hub's registers read the values of their Reset columns, no
piece is held and no launch is posted, the vaults hold zeros, every byte of the wall table at the base it has at reset has
KIND 3 and DOMAIN 0, and no lane is in service. That any other unwritten byte of DRAM or LPDDR6 reads as zero is the model's
choice (log 1, DESIGN CHOICE); R412 leaves it open. -/
def Obligations.ResetLeavesTheStatedValues : Prop :=
  ∀ (q n d : Nat), q < 64 → n < 256 → d < 64 →
    (∀ row ∈ resetRows q n d, State.reset.hubRead row.1 = row.2)
    ∧ (∀ k, (State.reset.pieceOf k).live = false ∧ (State.reset.launch k).st = .none)
    ∧ (∀ a, State.reset.byte true a = 0)
    ∧ (∀ a, a < 2 ^ 20 → State.reset.byte false a = 3) ∧ (∀ a, 2 ^ 20 ≤ a → State.reset.byte false a = 0)
    ∧ (∀ p, p < 32 → State.reset.hubRead (0x2000 + 32 * p) = 0) ∧ State.reset.hub.power = 0 ∧ State.reset.agenda = []

/-- Memory and vaults are in canonical form after reset (a property of the model's own form of memory). -/
def Obligations.ResetMemoryIsCanonical : Prop := MemOk State.reset

/-- Every step keeps memory and vaults in canonical form, in every state and for every turn (a property of the model's own
form of memory, so that equal contents are equal states). -/
def Obligations.StepsKeepMemoryCanonical : Prop := ∀ s u : State, MemOk s → step s = .next u → MemOk u

/-! ## Statements in several parts -/

/-- The immediate and one-operand words of S, s.swz, s.madd and the prefixes complete with their results. -/
def Obligations.ImmediateAndUnaryWordsComplete : Prop :=
  UnaryWordsWriteTheirResultPart ∧ ImmediateWordsWriteTheirResultPart ∧ PrefixesWaitForTheirWordPart

/-- A load of S is sent and ties its knots, or completes at its word once its reads are answered. -/
def Obligations.LoadsAreSentAndAnswered : Prop :=
  LoadsAreSentPart ∧ AnsweredLoadsCompletePart

/-- Stores, atomics and s.cas retire when their operation is handed to the memory system. -/
def Obligations.StoresAndAtomicsAreHandedOver : Prop :=
  StoresAreHandedOverPart ∧ AtomicsAreHandedOverPart ∧ WindowStoresAreHandedOverPart

/-- The data of a load reaches its register, and an atomic reads, computes and writes in one step. -/
def Obligations.LoadsAndAtomicsPerform : Prop :=
  LoadDataReachesPart ∧ AtomicsPerformPart

/-- A write performs on exactly its bytes, and an address lookup changes no register and no byte. -/
def Obligations.WritesPerformOnTheirBytes : Prop :=
  WritesPerformPart ∧ WriteChangesItsBytesPart ∧ LookupChangesOnlyEntriesPart

/-- The words that read and change q and y queues complete with the field, count or entry that R179 and R181 give. -/
def Obligations.QueueAccessesComplete : Prop :=
  QueueReadsGiveTheFieldPart ∧ QueueChangesCompletePart

/-- Queue loads reserve an entry and fill it in order; queue stores pop a token and write its lanes. -/
def Obligations.QueueMemoryWordsComplete : Prop :=
  QueueLoadsReserveTheirEntryPart ∧ AnsweredQueueLoadsCompletePart ∧ QueueLoadsDeliverPart ∧ QueueStoresPopAndWritePart

/-- The versioned words complete, trap when out of turn, and their cells become what R183 says. -/
def Obligations.VersionedCellsWork : Prop :=
  VersionedWordsCompletePart ∧ CellsAreAppliedPart

/-- s.rinv sends its invocation, its subgraph fires once, and the words that wait take their answer. -/
def Obligations.InvocationsAreAnswered : Prop :=
  InvocationsAreSentPart ∧ InvocationsFirePart ∧ AnsweredWordsWriteTheirResultPart

/-- Branches, fanned branches, branches on bq, and jumps transfer control as R188 and R189 say. -/
def Obligations.BranchesAndJumpsTransfer : Prop :=
  PlainBranchesTransferPart ∧ FannedBranchesSteerPart ∧ BqBranchesPopPart ∧ JumpsLinkPart

/-- s.sdw, s.mtw and s.inj write a descriptor field, a nest level or a control token, and the token arrives. -/
def Obligations.DescriptorsTablesAndControlTokens : Prop :=
  DescriptorTableAndControlWritesPart ∧ ControlTokensArrivePart

/-- s.nop, s.yield, s.end, s.park, s.ecall, s.break and s.eret complete. -/
def Obligations.ControlWordsComplete : Prop :=
  ControlWordsCompletePart ∧ TrapReturnCompletesPart

/-- System registers read and hold what their tables say; counters and shapes are set; invalidations remove their entries. -/
def Obligations.SystemRegistersMove : Prop :=
  SystemRegistersMovePart ∧ CountersAndShapesPart ∧ InvalidationsRemoveEntriesPart

/-- Traps save pc, cause and level and enter the handler; refused words trap before any effect; held traps are delivered. -/
def Obligations.TrapsEnterTheHandler : Prop :=
  TrapsOfWordsEnterTheHandlerPart ∧ RefusedWordsTrapPart ∧ HeldTrapsAreDeliveredPart

/-- Barrier words hand over their event and the bank element counts it as R88 says. -/
def Obligations.BarriersCount : Prop :=
  BarrierWordsHandOverPart ∧ BarrierEventsApplyPart

/-- Notify words and window stores complete, and their writes change the register they name. -/
def Obligations.NotifyRegistersWork : Prop :=
  NotifyWordsCompletePart ∧ NotifyWritesPerformPart

/-- c.go starts a stream or traps on its descriptor; c.jrnl writes its checkpoint. -/
def Obligations.StreamsStartAndJournal : Prop :=
  StreamsStartPart ∧ JournalCheckpointsPart

/-- The other words of C complete, and c.rep and m.rep run their block through the given number of times. -/
def Obligations.CopyWordsComplete : Prop :=
  CopyWordsCompletePart ∧ BlocksRepeatPart

/-- Streams move elements, push tokens, scatter updates that are applied once, and end. -/
def Obligations.StreamsMoveAndEnd : Prop :=
  StreamsTransferPart ∧ StreamsEndPart ∧ ScatterUpdatesApplyPart

/-- The words of M on its settings, planes and accumulators complete. -/
def Obligations.MatrixSettingsComplete : Prop :=
  MatrixSettingsCompletePart ∧ PlaneWordsCompletePart

/-- Passes add what R139 gives into their row, and drains push tokens of their rows. -/
def Obligations.NestsPassAndDrain : Prop :=
  NestsPassPart ∧ DrainsPushPart

/-- The words of F complete: images load or are refused whole, settings are set, and turns start. -/
def Obligations.FabricWordsComplete : Prop :=
  FabricWordsCompletePart ∧ TurnsStartPart

/-- The exchange, ordering and merging operations of elements give the tokens their rules name. -/
def Obligations.ExchangeAndHoldingOperationsStart : Prop :=
  ExchangeOperationsStartPart ∧ HoldingOperationsStartPart

/-- Results are delivered, tokens hop to neighbours, and edge ports move tokens to and from queues. -/
def Obligations.TokensMoveThroughTheBlock : Prop :=
  ResultsAreDeliveredPart ∧ TokensHopPart ∧ EdgePortsTransferPart

/-- An element that may turn exchanges its planes; a kset writes its constants and goes on. -/
def Obligations.ElementsTurnAndTakeKsets : Prop :=
  ElementsTurnPart ∧ KsetsAreHandledPart

/-- Elements gate and wake with all they hold, and the watchdog fires at its limit. -/
def Obligations.ElementsGateAndWatchdog : Prop :=
  ElementsGateAndWakePart ∧ WatchdogIsRaisedPart

/-- Keys are loaded and revoked; measurements, attestation and the lifecycle advance. -/
def Obligations.KeysMeasurementsAndLifecycle : Prop :=
  KeyRequestsCompletePart ∧ AttestationAndLifecyclePart

end
end

