-- ==== Sys2Proof/Laws/SMap.lean ====
section
/-! SUPPORT. Laws of sparse contents: what a key reads as after a write, and that every write keeps the canonical
form. -/

namespace Sys2Proof.Machine

@[simp] theorem SMap.get_nil {α : Type} (d : α) (a : Nat) : SMap.get d [] a = d := rfl

theorem SMap.get_insert {α : Type} (d : α) (m : SMap α) (a b : Nat) (x : α) :
    SMap.get d (SMap.insert m a x) b = if a = b then x else SMap.get d m b := by
  induction m with
  | nil => simp [SMap.insert, SMap.get]
  | cons kv m ih =>
    obtain ⟨k, v⟩ := kv
    simp only [SMap.insert]
    split
    · rename_i hk; subst hk; by_cases h : k = b <;> simp [SMap.get, h]
    · split
      · simp [SMap.get]
      · simp only [SMap.get, ih]
        by_cases h : k = b
        · subst h; simp_all [eq_comm]
        · simp [h]

@[simp] theorem SMap.get_insert_self {α : Type} (d : α) (m : SMap α) (a : Nat) (x : α) :
    SMap.get d (SMap.insert m a x) a = x := by simp [SMap.get_insert]

theorem SMap.get_insert_ne {α : Type} (d : α) (m : SMap α) {a b : Nat} (x : α) (h : a ≠ b) :
    SMap.get d (SMap.insert m a x) b = SMap.get d m b := by simp [SMap.get_insert, h]

/-- A list whose keys start at a bound reads as the default below it. -/
theorem SMap.get_below {α : Type} (d : α) (m : SMap α) {b a : Nat} (h : SMap.sortedFrom b m = true) (hab : a < b) :
    SMap.get d m a = d := by
  induction m generalizing b with
  | nil => rfl
  | cons kv m ih =>
    obtain ⟨k, v⟩ := kv
    simp only [SMap.sortedFrom, Bool.and_eq_true, decide_eq_true_eq] at h
    have hk : k ≠ a := by omega
    simp only [SMap.get, if_neg hk]
    exact ih h.2 (by omega)

theorem SMap.sortedFrom_mono {α : Type} (m : SMap α) {b c : Nat} (h : SMap.sortedFrom b m = true) (hc : c ≤ b) :
    SMap.sortedFrom c m = true := by
  cases m with
  | nil => rfl
  | cons kv m =>
    obtain ⟨k, v⟩ := kv
    simp only [SMap.sortedFrom, Bool.and_eq_true, decide_eq_true_eq] at h ⊢
    exact ⟨by omega, h.2⟩

theorem SMap.get_erase {α : Type} (d : α) (m : SMap α) (a b : Nat) :
    SMap.get d (SMap.erase m a) b = if a = b then d else SMap.get d m b := by
  induction m with
  | nil => simp [SMap.erase, SMap.get]
  | cons kv m ih =>
    obtain ⟨k, v⟩ := kv
    simp only [SMap.erase]
    split
    · rename_i hk; subst hk
      rw [ih]
      by_cases h : k = b <;> simp [SMap.get, h]
    · rename_i hk
      simp only [SMap.get, ih]
      by_cases h : k = b
      · subst h; simp [Ne.symm hk]
      · simp [h]

/-- What a key reads as after a write. -/
theorem SMap.get_set {α : Type} [DecidableEq α] (d : α) (m : SMap α) (a b : Nat) (x : α) :
    SMap.get d (SMap.set d m a x) b = if a = b then x else SMap.get d m b := by
  unfold SMap.set
  split
  · subst_vars; exact SMap.get_erase _ m a b
  · exact SMap.get_insert d m a b x

/-- A write leaves what another key reads as, whatever the defaults of the two keys are. -/
theorem SMap.get_set_ne {α : Type} [DecidableEq α] (d e : α) (m : SMap α) {a b : Nat} (x : α) (h : a ≠ b) :
    SMap.get e (SMap.set d m a x) b = SMap.get e m b := by
  unfold SMap.set
  split
  · rw [SMap.get_erase, if_neg h]
  · exact SMap.get_insert_ne e m x h

@[simp] theorem SMap.get_set_self {α : Type} [DecidableEq α] (d : α) (m : SMap α) (a : Nat) (x : α) :
    SMap.get d (SMap.set d m a x) a = x := by simp [SMap.get_set]

theorem SMap.sortedFrom_insert {α : Type} (m : SMap α) {b : Nat} (a : Nat) (x : α) (h : SMap.sortedFrom b m = true)
    (hb : b ≤ a) : SMap.sortedFrom b (SMap.insert m a x) = true := by
  induction m generalizing b with
  | nil => simp [SMap.insert, SMap.sortedFrom, hb]
  | cons kv m ih =>
    obtain ⟨k, v⟩ := kv
    have h' := h
    simp only [SMap.sortedFrom, Bool.and_eq_true, decide_eq_true_eq] at h
    simp only [SMap.insert]
    split
    · rename_i hk; subst hk; simp [SMap.sortedFrom, h.1, h.2]
    · split
      · simp only [SMap.sortedFrom, Bool.and_eq_true, decide_eq_true_eq]
        exact ⟨hb, by omega, h.2⟩
      · simp only [SMap.sortedFrom, Bool.and_eq_true, decide_eq_true_eq]
        exact ⟨h.1, ih h.2 (by omega)⟩

theorem SMap.sortedFrom_erase {α : Type} (m : SMap α) {b : Nat} (a : Nat) (h : SMap.sortedFrom b m = true) :
    SMap.sortedFrom b (SMap.erase m a) = true := by
  induction m generalizing b with
  | nil => rfl
  | cons kv m ih =>
    obtain ⟨k, v⟩ := kv
    simp only [SMap.sortedFrom, Bool.and_eq_true, decide_eq_true_eq] at h
    simp only [SMap.erase]
    split
    · exact SMap.sortedFrom_mono _ (ih h.2) (by omega)
    · simp only [SMap.sortedFrom, Bool.and_eq_true, decide_eq_true_eq]
      exact ⟨h.1, ih h.2⟩

theorem SMap.mem_insert {α : Type} {m : SMap α} {a : Nat} {x : α} {kv : Nat × α} (h : kv ∈ SMap.insert m a x) :
    kv = (a, x) ∨ kv ∈ m := by
  induction m with
  | nil => simpa [SMap.insert] using h
  | cons k m ih =>
    obtain ⟨k, v⟩ := k
    simp only [SMap.insert] at h
    split at h
    · rcases List.mem_cons.1 h with h | h
      · exact .inl h
      · exact .inr (List.mem_cons_of_mem _ h)
    · split at h
      · rcases List.mem_cons.1 h with h | h
        · exact .inl h
        · exact .inr h
      · rcases List.mem_cons.1 h with h | h
        · exact .inr (h ▸ List.mem_cons_self)
        · exact (ih h).imp id (List.mem_cons_of_mem _)

theorem SMap.mem_erase {α : Type} {m : SMap α} {a : Nat} {kv : Nat × α} (h : kv ∈ SMap.erase m a) : kv ∈ m := by
  induction m with
  | nil => simp [SMap.erase] at h
  | cons k m ih =>
    obtain ⟨k, v⟩ := k
    simp only [SMap.erase] at h
    split at h
    · exact List.mem_cons_of_mem _ (ih h)
    · rcases List.mem_cons.1 h with h | h
      · exact h ▸ List.mem_cons_self
      · exact List.mem_cons_of_mem _ (ih h)

/-- A write keeps the canonical form. -/
theorem SMap.wf_set {α : Type} [DecidableEq α] {d : α} {m : SMap α} (h : SMap.wf d m = true) (a : Nat) (x : α) :
    SMap.wf d (SMap.set d m a x) = true := by
  simp only [SMap.wf, Bool.and_eq_true, List.all_eq_true, decide_eq_true_eq] at h ⊢
  unfold SMap.set
  split
  · exact ⟨SMap.sortedFrom_erase m a h.1, fun kv hk => h.2 kv (SMap.mem_erase hk)⟩
  · refine ⟨SMap.sortedFrom_insert m a x h.1 (Nat.zero_le _), fun kv hk => ?_⟩
    rcases SMap.mem_insert hk with rfl | hk
    · assumption
    · exact h.2 kv hk

theorem SMap.sortedFrom_filter {α : Type} (m : SMap α) {b : Nat} (p : Nat × α → Bool)
    (h : SMap.sortedFrom b m = true) : SMap.sortedFrom b (m.filter p) = true := by
  induction m generalizing b with
  | nil => rfl
  | cons kv m ih =>
    obtain ⟨k, v⟩ := kv
    simp only [SMap.sortedFrom, Bool.and_eq_true, decide_eq_true_eq] at h
    simp only [List.filter_cons]
    split
    · simp only [SMap.sortedFrom, Bool.and_eq_true, decide_eq_true_eq]
      exact ⟨h.1, ih h.2⟩
    · exact SMap.sortedFrom_mono _ (ih h.2) (by omega)

/-- Leaving entries out keeps the canonical form. -/
theorem SMap.wf_filter {α : Type} [DecidableEq α] {d : α} {m : SMap α} (h : SMap.wf d m = true) (p : Nat × α → Bool) :
    SMap.wf d (m.filter p) = true := by
  simp only [SMap.wf, Bool.and_eq_true, List.all_eq_true, decide_eq_true_eq] at h ⊢
  exact ⟨SMap.sortedFrom_filter m p h.1, fun kv hk => h.2 kv (List.mem_filter.1 hk).1⟩

/-- Canonical contents that read alike are equal lists. -/
theorem SMap.ext_sorted {α : Type} (d : α) :
    ∀ (m n : SMap α) (b : Nat), SMap.sortedFrom b m = true → SMap.sortedFrom b n = true →
      (∀ kv ∈ m, kv.2 ≠ d) → (∀ kv ∈ n, kv.2 ≠ d) → (∀ a, SMap.get d m a = SMap.get d n a) → m = n := by
  intro m
  induction m with
  | nil =>
    intro n b _ _ _ hn hg
    cases n with
    | nil => rfl
    | cons kv n =>
      obtain ⟨k, v⟩ := kv
      have := hg k
      simp only [SMap.get, if_true] at this
      exact absurd this.symm (hn (k, v) List.mem_cons_self)
  | cons kv m ih =>
    intro n b hm hns hmd hn hg
    obtain ⟨k, v⟩ := kv
    cases n with
    | nil =>
      have := hg k
      simp only [SMap.get, if_true] at this
      exact absurd this (hmd (k, v) List.mem_cons_self)
    | cons kv' n =>
      obtain ⟨k', v'⟩ := kv'
      simp only [SMap.sortedFrom, Bool.and_eq_true, decide_eq_true_eq] at hm hns
      have hkk : k = k' := by
        rcases Nat.lt_trichotomy k k' with h | h | h
        · have := hg k
          simp only [SMap.get, if_true, if_neg (Nat.ne_of_gt h)] at this
          rw [SMap.get_below d n hns.2 (by omega)] at this
          exact absurd this (hmd (k, v) List.mem_cons_self)
        · exact h
        · have := hg k'
          simp only [SMap.get, if_true, if_neg (Nat.ne_of_gt h)] at this
          rw [SMap.get_below d m hm.2 (by omega)] at this
          exact absurd this.symm (hn (k', v') List.mem_cons_self)
      subst hkk
      have hv : v = v' := by simpa [SMap.get] using hg k
      subst hv
      congr 1
      refine ih n (k + 1) hm.2 hns.2 (fun x hx => hmd x (List.mem_cons_of_mem _ hx))
        (fun x hx => hn x (List.mem_cons_of_mem _ hx)) fun a => ?_
      by_cases h : k = a
      · subst h
        rw [SMap.get_below d m hm.2 (Nat.lt_succ_self _), SMap.get_below d n hns.2 (Nat.lt_succ_self _)]
      · simpa [SMap.get, h] using hg a

/-- Canonical contents that read alike are equal. -/
theorem SMap.ext_of_wf {α : Type} [DecidableEq α] {d : α} {m n : SMap α} (hm : SMap.wf d m = true)
    (hn : SMap.wf d n = true) (h : ∀ a, SMap.get d m a = SMap.get d n a) : m = n := by
  simp only [SMap.wf, Bool.and_eq_true, List.all_eq_true, decide_eq_true_eq] at hm hn
  exact SMap.ext_sorted d m n 0 hm.1 hn.1 hm.2 hn.2 h

end Sys2Proof.Machine
end

