-- ==== Sys2Proof/Laws/State.lean ====
section
/-! SUPPORT. What each field of the state, and of a piece, is after each named update. -/

namespace Sys2Proof.Machine

@[simp] theorem State.setPiece_agenda (s : State) (p : Piece) : (s.setPiece p).agenda = s.agenda := rfl
@[simp] theorem State.setPiece_choices (s : State) (p : Piece) : (s.setPiece p).choices = s.choices := rfl
@[simp] theorem State.setPiece_focusP (s : State) (p : Piece) : (s.setPiece p).focusP = s.focusP := rfl
@[simp] theorem State.setPiece_focusE (s : State) (p : Piece) : (s.setPiece p).focusE = s.focusE := rfl
@[simp] theorem State.setPiece_focusS (s : State) (p : Piece) : (s.setPiece p).focusS = s.focusS := rfl
@[simp] theorem State.setPiece_fresh (s : State) (p : Piece) : (s.setPiece p).fresh = s.fresh := rfl
@[simp] theorem State.setPiece_opCount (s : State) (p : Piece) : (s.setPiece p).opCount = s.opCount := rfl
@[simp] theorem State.setPiece_time (s : State) (p : Piece) : (s.setPiece p).time = s.time := rfl
@[simp] theorem State.setPiece_mem (s : State) (p : Piece) : (s.setPiece p).mem = s.mem := rfl
@[simp] theorem State.setPiece_vault (s : State) (p : Piece) : (s.setPiece p).vault = s.vault := rfl
@[simp] theorem State.setPiece_poison (s : State) (p : Piece) : (s.setPiece p).poison = s.poison := rfl
@[simp] theorem State.setPiece_upset (s : State) (p : Piece) : (s.setPiece p).upset = s.upset := rfl
@[simp] theorem State.setPiece_lmeta (s : State) (p : Piece) : (s.setPiece p).lmeta = s.lmeta := rfl
@[simp] theorem State.setPiece_ops (s : State) (p : Piece) : (s.setPiece p).ops = s.ops := rfl
@[simp] theorem State.setPiece_scatters (s : State) (p : Piece) : (s.setPiece p).scatters = s.scatters := rfl
@[simp] theorem State.setPiece_barEvs (s : State) (p : Piece) : (s.setPiece p).barEvs = s.barEvs := rfl
@[simp] theorem State.setPiece_invokes (s : State) (p : Piece) : (s.setPiece p).invokes = s.invokes := rfl
@[simp] theorem State.setPiece_side (s : State) (p : Piece) : (s.setPiece p).side = s.side := rfl
@[simp] theorem State.setPiece_resv (s : State) (p : Piece) : (s.setPiece p).resv = s.resv := rfl
@[simp] theorem State.setPiece_hub (s : State) (p : Piece) : (s.setPiece p).hub = s.hub := rfl
@[simp] theorem State.setPiece_links (s : State) (p : Piece) : (s.setPiece p).links = s.links := rfl
@[simp] theorem State.setPiece_pieces (s : State) (p : Piece) : (s.setPiece p).pieces = s.pieces.insert s.focusP p := rfl
@[simp] theorem State.setPiece_outbox (s : State) (p : Piece) : (s.setPiece p).outbox = s.outbox := rfl

@[simp] theorem State.modPiece_agenda (s : State) (f : Piece → Piece) : (s.modPiece f).agenda = s.agenda := rfl
@[simp] theorem State.modPiece_choices (s : State) (f : Piece → Piece) : (s.modPiece f).choices = s.choices := rfl
@[simp] theorem State.modPiece_focusP (s : State) (f : Piece → Piece) : (s.modPiece f).focusP = s.focusP := rfl
@[simp] theorem State.modPiece_focusE (s : State) (f : Piece → Piece) : (s.modPiece f).focusE = s.focusE := rfl
@[simp] theorem State.modPiece_focusS (s : State) (f : Piece → Piece) : (s.modPiece f).focusS = s.focusS := rfl
@[simp] theorem State.modPiece_fresh (s : State) (f : Piece → Piece) : (s.modPiece f).fresh = s.fresh := rfl
@[simp] theorem State.modPiece_opCount (s : State) (f : Piece → Piece) : (s.modPiece f).opCount = s.opCount := rfl
@[simp] theorem State.modPiece_time (s : State) (f : Piece → Piece) : (s.modPiece f).time = s.time := rfl
@[simp] theorem State.modPiece_mem (s : State) (f : Piece → Piece) : (s.modPiece f).mem = s.mem := rfl
@[simp] theorem State.modPiece_vault (s : State) (f : Piece → Piece) : (s.modPiece f).vault = s.vault := rfl
@[simp] theorem State.modPiece_poison (s : State) (f : Piece → Piece) : (s.modPiece f).poison = s.poison := rfl
@[simp] theorem State.modPiece_upset (s : State) (f : Piece → Piece) : (s.modPiece f).upset = s.upset := rfl
@[simp] theorem State.modPiece_lmeta (s : State) (f : Piece → Piece) : (s.modPiece f).lmeta = s.lmeta := rfl
@[simp] theorem State.modPiece_ops (s : State) (f : Piece → Piece) : (s.modPiece f).ops = s.ops := rfl
@[simp] theorem State.modPiece_scatters (s : State) (f : Piece → Piece) : (s.modPiece f).scatters = s.scatters := rfl
@[simp] theorem State.modPiece_barEvs (s : State) (f : Piece → Piece) : (s.modPiece f).barEvs = s.barEvs := rfl
@[simp] theorem State.modPiece_invokes (s : State) (f : Piece → Piece) : (s.modPiece f).invokes = s.invokes := rfl
@[simp] theorem State.modPiece_side (s : State) (f : Piece → Piece) : (s.modPiece f).side = s.side := rfl
@[simp] theorem State.modPiece_resv (s : State) (f : Piece → Piece) : (s.modPiece f).resv = s.resv := rfl
@[simp] theorem State.modPiece_hub (s : State) (f : Piece → Piece) : (s.modPiece f).hub = s.hub := rfl
@[simp] theorem State.modPiece_links (s : State) (f : Piece → Piece) : (s.modPiece f).links = s.links := rfl
@[simp] theorem State.modPiece_pieces (s : State) (f : Piece → Piece) : (s.modPiece f).pieces = s.pieces.insert s.focusP (f s.piece) := rfl
@[simp] theorem State.modPiece_outbox (s : State) (f : Piece → Piece) : (s.modPiece f).outbox = s.outbox := rfl

@[simp] theorem State.at_agenda (s : State) (n : Nat) : (s.at n).agenda = s.agenda := rfl
@[simp] theorem State.at_choices (s : State) (n : Nat) : (s.at n).choices = s.choices := rfl
@[simp] theorem State.at_focusP (s : State) (n : Nat) : (s.at n).focusP = n := rfl
@[simp] theorem State.at_focusE (s : State) (n : Nat) : (s.at n).focusE = s.focusE := rfl
@[simp] theorem State.at_focusS (s : State) (n : Nat) : (s.at n).focusS = s.focusS := rfl
@[simp] theorem State.at_fresh (s : State) (n : Nat) : (s.at n).fresh = s.fresh := rfl
@[simp] theorem State.at_opCount (s : State) (n : Nat) : (s.at n).opCount = s.opCount := rfl
@[simp] theorem State.at_time (s : State) (n : Nat) : (s.at n).time = s.time := rfl
@[simp] theorem State.at_mem (s : State) (n : Nat) : (s.at n).mem = s.mem := rfl
@[simp] theorem State.at_vault (s : State) (n : Nat) : (s.at n).vault = s.vault := rfl
@[simp] theorem State.at_poison (s : State) (n : Nat) : (s.at n).poison = s.poison := rfl
@[simp] theorem State.at_upset (s : State) (n : Nat) : (s.at n).upset = s.upset := rfl
@[simp] theorem State.at_lmeta (s : State) (n : Nat) : (s.at n).lmeta = s.lmeta := rfl
@[simp] theorem State.at_ops (s : State) (n : Nat) : (s.at n).ops = s.ops := rfl
@[simp] theorem State.at_scatters (s : State) (n : Nat) : (s.at n).scatters = s.scatters := rfl
@[simp] theorem State.at_barEvs (s : State) (n : Nat) : (s.at n).barEvs = s.barEvs := rfl
@[simp] theorem State.at_invokes (s : State) (n : Nat) : (s.at n).invokes = s.invokes := rfl
@[simp] theorem State.at_side (s : State) (n : Nat) : (s.at n).side = s.side := rfl
@[simp] theorem State.at_resv (s : State) (n : Nat) : (s.at n).resv = s.resv := rfl
@[simp] theorem State.at_hub (s : State) (n : Nat) : (s.at n).hub = s.hub := rfl
@[simp] theorem State.at_links (s : State) (n : Nat) : (s.at n).links = s.links := rfl
@[simp] theorem State.at_pieces (s : State) (n : Nat) : (s.at n).pieces = s.pieces := rfl
@[simp] theorem State.at_outbox (s : State) (n : Nat) : (s.at n).outbox = s.outbox := rfl

@[simp] theorem State.emit_agenda (s : State) (o : Output) : (s.emit o).agenda = s.agenda := rfl
@[simp] theorem State.emit_choices (s : State) (o : Output) : (s.emit o).choices = s.choices := rfl
@[simp] theorem State.emit_focusP (s : State) (o : Output) : (s.emit o).focusP = s.focusP := rfl
@[simp] theorem State.emit_focusE (s : State) (o : Output) : (s.emit o).focusE = s.focusE := rfl
@[simp] theorem State.emit_focusS (s : State) (o : Output) : (s.emit o).focusS = s.focusS := rfl
@[simp] theorem State.emit_fresh (s : State) (o : Output) : (s.emit o).fresh = s.fresh := rfl
@[simp] theorem State.emit_opCount (s : State) (o : Output) : (s.emit o).opCount = s.opCount := rfl
@[simp] theorem State.emit_time (s : State) (o : Output) : (s.emit o).time = s.time := rfl
@[simp] theorem State.emit_mem (s : State) (o : Output) : (s.emit o).mem = s.mem := rfl
@[simp] theorem State.emit_vault (s : State) (o : Output) : (s.emit o).vault = s.vault := rfl
@[simp] theorem State.emit_poison (s : State) (o : Output) : (s.emit o).poison = s.poison := rfl
@[simp] theorem State.emit_upset (s : State) (o : Output) : (s.emit o).upset = s.upset := rfl
@[simp] theorem State.emit_lmeta (s : State) (o : Output) : (s.emit o).lmeta = s.lmeta := rfl
@[simp] theorem State.emit_ops (s : State) (o : Output) : (s.emit o).ops = s.ops := rfl
@[simp] theorem State.emit_scatters (s : State) (o : Output) : (s.emit o).scatters = s.scatters := rfl
@[simp] theorem State.emit_barEvs (s : State) (o : Output) : (s.emit o).barEvs = s.barEvs := rfl
@[simp] theorem State.emit_invokes (s : State) (o : Output) : (s.emit o).invokes = s.invokes := rfl
@[simp] theorem State.emit_side (s : State) (o : Output) : (s.emit o).side = s.side := rfl
@[simp] theorem State.emit_resv (s : State) (o : Output) : (s.emit o).resv = s.resv := rfl
@[simp] theorem State.emit_hub (s : State) (o : Output) : (s.emit o).hub = s.hub := rfl
@[simp] theorem State.emit_links (s : State) (o : Output) : (s.emit o).links = s.links := rfl
@[simp] theorem State.emit_pieces (s : State) (o : Output) : (s.emit o).pieces = s.pieces := rfl
@[simp] theorem State.emit_outbox (s : State) (o : Output) : (s.emit o).outbox = s.outbox ++ [o] := rfl

@[simp] theorem State.setLaunch_agenda (s : State) (l : Nat) (x : Launch) : (s.setLaunch l x).agenda = s.agenda := rfl
@[simp] theorem State.setLaunch_choices (s : State) (l : Nat) (x : Launch) : (s.setLaunch l x).choices = s.choices := rfl
@[simp] theorem State.setLaunch_focusP (s : State) (l : Nat) (x : Launch) : (s.setLaunch l x).focusP = s.focusP := rfl
@[simp] theorem State.setLaunch_focusE (s : State) (l : Nat) (x : Launch) : (s.setLaunch l x).focusE = s.focusE := rfl
@[simp] theorem State.setLaunch_focusS (s : State) (l : Nat) (x : Launch) : (s.setLaunch l x).focusS = s.focusS := rfl
@[simp] theorem State.setLaunch_fresh (s : State) (l : Nat) (x : Launch) : (s.setLaunch l x).fresh = s.fresh := rfl
@[simp] theorem State.setLaunch_opCount (s : State) (l : Nat) (x : Launch) : (s.setLaunch l x).opCount = s.opCount := rfl
@[simp] theorem State.setLaunch_time (s : State) (l : Nat) (x : Launch) : (s.setLaunch l x).time = s.time := rfl
@[simp] theorem State.setLaunch_mem (s : State) (l : Nat) (x : Launch) : (s.setLaunch l x).mem = s.mem := rfl
@[simp] theorem State.setLaunch_vault (s : State) (l : Nat) (x : Launch) : (s.setLaunch l x).vault = s.vault := rfl
@[simp] theorem State.setLaunch_poison (s : State) (l : Nat) (x : Launch) : (s.setLaunch l x).poison = s.poison := rfl
@[simp] theorem State.setLaunch_upset (s : State) (l : Nat) (x : Launch) : (s.setLaunch l x).upset = s.upset := rfl
@[simp] theorem State.setLaunch_lmeta (s : State) (l : Nat) (x : Launch) : (s.setLaunch l x).lmeta = s.lmeta := rfl
@[simp] theorem State.setLaunch_ops (s : State) (l : Nat) (x : Launch) : (s.setLaunch l x).ops = s.ops := rfl
@[simp] theorem State.setLaunch_scatters (s : State) (l : Nat) (x : Launch) : (s.setLaunch l x).scatters = s.scatters := rfl
@[simp] theorem State.setLaunch_barEvs (s : State) (l : Nat) (x : Launch) : (s.setLaunch l x).barEvs = s.barEvs := rfl
@[simp] theorem State.setLaunch_invokes (s : State) (l : Nat) (x : Launch) : (s.setLaunch l x).invokes = s.invokes := rfl
@[simp] theorem State.setLaunch_side (s : State) (l : Nat) (x : Launch) : (s.setLaunch l x).side = s.side := rfl
@[simp] theorem State.setLaunch_resv (s : State) (l : Nat) (x : Launch) : (s.setLaunch l x).resv = s.resv := rfl
@[simp] theorem State.setLaunch_hub (s : State) (l : Nat) (x : Launch) : (s.setLaunch l x).hub = { s.hub with launches := s.hub.launches.insert l x } := rfl
@[simp] theorem State.setLaunch_links (s : State) (l : Nat) (x : Launch) : (s.setLaunch l x).links = s.links := rfl
@[simp] theorem State.setLaunch_pieces (s : State) (l : Nat) (x : Launch) : (s.setLaunch l x).pieces = s.pieces := rfl
@[simp] theorem State.setLaunch_outbox (s : State) (l : Nat) (x : Launch) : (s.setLaunch l x).outbox = s.outbox := rfl

@[simp] theorem State.setPair_agenda (s : State) (n : Nat) (x : Pair) : (s.setPair n x).agenda = s.agenda := rfl
@[simp] theorem State.setPair_choices (s : State) (n : Nat) (x : Pair) : (s.setPair n x).choices = s.choices := rfl
@[simp] theorem State.setPair_focusP (s : State) (n : Nat) (x : Pair) : (s.setPair n x).focusP = s.focusP := rfl
@[simp] theorem State.setPair_focusE (s : State) (n : Nat) (x : Pair) : (s.setPair n x).focusE = s.focusE := rfl
@[simp] theorem State.setPair_focusS (s : State) (n : Nat) (x : Pair) : (s.setPair n x).focusS = s.focusS := rfl
@[simp] theorem State.setPair_fresh (s : State) (n : Nat) (x : Pair) : (s.setPair n x).fresh = s.fresh := rfl
@[simp] theorem State.setPair_opCount (s : State) (n : Nat) (x : Pair) : (s.setPair n x).opCount = s.opCount := rfl
@[simp] theorem State.setPair_time (s : State) (n : Nat) (x : Pair) : (s.setPair n x).time = s.time := rfl
@[simp] theorem State.setPair_mem (s : State) (n : Nat) (x : Pair) : (s.setPair n x).mem = s.mem := rfl
@[simp] theorem State.setPair_vault (s : State) (n : Nat) (x : Pair) : (s.setPair n x).vault = s.vault := rfl
@[simp] theorem State.setPair_poison (s : State) (n : Nat) (x : Pair) : (s.setPair n x).poison = s.poison := rfl
@[simp] theorem State.setPair_upset (s : State) (n : Nat) (x : Pair) : (s.setPair n x).upset = s.upset := rfl
@[simp] theorem State.setPair_lmeta (s : State) (n : Nat) (x : Pair) : (s.setPair n x).lmeta = s.lmeta := rfl
@[simp] theorem State.setPair_ops (s : State) (n : Nat) (x : Pair) : (s.setPair n x).ops = s.ops := rfl
@[simp] theorem State.setPair_scatters (s : State) (n : Nat) (x : Pair) : (s.setPair n x).scatters = s.scatters := rfl
@[simp] theorem State.setPair_barEvs (s : State) (n : Nat) (x : Pair) : (s.setPair n x).barEvs = s.barEvs := rfl
@[simp] theorem State.setPair_invokes (s : State) (n : Nat) (x : Pair) : (s.setPair n x).invokes = s.invokes := rfl
@[simp] theorem State.setPair_side (s : State) (n : Nat) (x : Pair) : (s.setPair n x).side = s.side := rfl
@[simp] theorem State.setPair_resv (s : State) (n : Nat) (x : Pair) : (s.setPair n x).resv = s.resv := rfl
@[simp] theorem State.setPair_hub (s : State) (n : Nat) (x : Pair) : (s.setPair n x).hub = s.hub := rfl
@[simp] theorem State.setPair_links (s : State) (n : Nat) (x : Pair) : (s.setPair n x).links = { s.links with pairs := s.links.pairs.insert n x } := rfl
@[simp] theorem State.setPair_pieces (s : State) (n : Nat) (x : Pair) : (s.setPair n x).pieces = s.pieces := rfl
@[simp] theorem State.setPair_outbox (s : State) (n : Nat) (x : Pair) : (s.setPair n x).outbox = s.outbox := rfl

@[simp] theorem Piece.setTackQ_live (p : Piece) (a b : Nat) (q : List (List Dep)) : (p.setTackQ a b q).live = p.live := rfl
@[simp] theorem Piece.setTackQ_launch (p : Piece) (a b : Nat) (q : List (List Dep)) : (p.setTackQ a b q).launch = p.launch := rfl
@[simp] theorem Piece.setTackQ_seqPos (p : Piece) (a b : Nat) (q : List (List Dep)) : (p.setTackQ a b q).seqPos = p.seqPos := rfl
@[simp] theorem Piece.setTackQ_taskPos (p : Piece) (a b : Nat) (q : List (List Dep)) : (p.setTackQ a b q).taskPos = p.taskPos := rfl
@[simp] theorem Piece.setTackQ_panel (p : Piece) (a b : Nat) (q : List (List Dep)) : (p.setTackQ a b q).panel = p.panel := rfl
@[simp] theorem Piece.setTackQ_row0 (p : Piece) (a b : Nat) (q : List (List Dep)) : (p.setTackQ a b q).row0 = p.row0 := rfl
@[simp] theorem Piece.setTackQ_col0 (p : Piece) (a b : Nat) (q : List (List Dep)) : (p.setTackQ a b q).col0 = p.col0 := rfl
@[simp] theorem Piece.setTackQ_hLog (p : Piece) (a b : Nat) (q : List (List Dep)) : (p.setTackQ a b q).hLog = p.hLog := rfl
@[simp] theorem Piece.setTackQ_wLog (p : Piece) (a b : Nat) (q : List (List Dep)) : (p.setTackQ a b q).wLog = p.wLog := rfl
@[simp] theorem Piece.setTackQ_eb (p : Piece) (a b : Nat) (q : List (List Dep)) : (p.setTackQ a b q).eb = p.eb := rfl
@[simp] theorem Piece.setTackQ_thread (p : Piece) (a b : Nat) (q : List (List Dep)) : (p.setTackQ a b q).thread = p.thread := rfl
@[simp] theorem Piece.setTackQ_bay (p : Piece) (a b : Nat) (q : List (List Dep)) : (p.setTackQ a b q).bay = p.bay := rfl
@[simp] theorem Piece.setTackQ_vbase (p : Piece) (a b : Nat) (q : List (List Dep)) : (p.setTackQ a b q).vbase = p.vbase := rfl
@[simp] theorem Piece.setTackQ_vunits (p : Piece) (a b : Nat) (q : List (List Dep)) : (p.setTackQ a b q).vunits = p.vunits := rfl
@[simp] theorem Piece.setTackQ_cslot (p : Piece) (a b : Nat) (q : List (List Dep)) : (p.setTackQ a b q).cslot = p.cslot := rfl
@[simp] theorem Piece.setTackQ_atSeam (p : Piece) (a b : Nat) (q : List (List Dep)) : (p.setTackQ a b q).atSeam = p.atSeam := rfl
@[simp] theorem Piece.setTackQ_regs (p : Piece) (a b : Nat) (q : List (List Dep)) : (p.setTackQ a b q).regs = p.regs := rfl
@[simp] theorem Piece.setTackQ_pend (p : Piece) (a b : Nat) (q : List (List Dep)) : (p.setTackQ a b q).pend = p.pend := rfl
@[simp] theorem Piece.setTackQ_pois (p : Piece) (a b : Nat) (q : List (List Dep)) : (p.setTackQ a b q).pois = p.pois := rfl
@[simp] theorem Piece.setTackQ_knots (p : Piece) (a b : Nat) (q : List (List Dep)) : (p.setTackQ a b q).knots = p.knots := rfl
@[simp] theorem Piece.setTackQ_sys (p : Piece) (a b : Nat) (q : List (List Dep)) : (p.setTackQ a b q).sys = p.sys := rfl
@[simp] theorem Piece.setTackQ_s (p : Piece) (a b : Nat) (q : List (List Dep)) : (p.setTackQ a b q).s = p.s := rfl
@[simp] theorem Piece.setTackQ_c (p : Piece) (a b : Nat) (q : List (List Dep)) : (p.setTackQ a b q).c = p.c := rfl
@[simp] theorem Piece.setTackQ_m (p : Piece) (a b : Nat) (q : List (List Dep)) : (p.setTackQ a b q).m = p.m := rfl
@[simp] theorem Piece.setTackQ_f (p : Piece) (a b : Nat) (q : List (List Dep)) : (p.setTackQ a b q).f = p.f := rfl
@[simp] theorem Piece.setTackQ_pre (p : Piece) (a b : Nat) (q : List (List Dep)) : (p.setTackQ a b q).pre = p.pre := rfl
@[simp] theorem Piece.setTackQ_popped (p : Piece) (a b : Nat) (q : List (List Dep)) : (p.setTackQ a b q).popped = p.popped := rfl
@[simp] theorem Piece.setTackQ_await (p : Piece) (a b : Nat) (q : List (List Dep)) : (p.setTackQ a b q).await = p.await := rfl
@[simp] theorem Piece.setTackQ_parked (p : Piece) (a b : Nat) (q : List (List Dep)) : (p.setTackQ a b q).parked = p.parked := rfl
@[simp] theorem Piece.setTackQ_parkEv (p : Piece) (a b : Nat) (q : List (List Dep)) : (p.setTackQ a b q).parkEv = p.parkEv := rfl
@[simp] theorem Piece.setTackQ_halted (p : Piece) (a b : Nat) (q : List (List Dep)) : (p.setTackQ a b q).halted = p.halted := rfl
@[simp] theorem Piece.setTackQ_stepping (p : Piece) (a b : Nat) (q : List (List Dep)) : (p.setTackQ a b q).stepping = p.stepping := rfl
@[simp] theorem Piece.setTackQ_steers (p : Piece) (a b : Nat) (q : List (List Dep)) : (p.setTackQ a b q).steers = p.steers := rfl
@[simp] theorem Piece.setTackQ_tacks (p : Piece) (a b : Nat) (q : List (List Dep)) : (p.setTackQ a b q).tacks = SMap.set [] p.tacks (4 * a + b) q := rfl
@[simp] theorem Piece.setTackQ_acqs (p : Piece) (a b : Nat) (q : List (List Dep)) : (p.setTackQ a b q).acqs = p.acqs := rfl
@[simp] theorem Piece.setTackQ_fenceR (p : Piece) (a b : Nat) (q : List (List Dep)) : (p.setTackQ a b q).fenceR = p.fenceR := rfl
@[simp] theorem Piece.setTackQ_fenceW (p : Piece) (a b : Nat) (q : List (List Dep)) : (p.setTackQ a b q).fenceW = p.fenceW := rfl
@[simp] theorem Piece.setTackQ_relDeps (p : Piece) (a b : Nat) (q : List (List Dep)) : (p.setTackQ a b q).relDeps = p.relDeps := rfl
@[simp] theorem Piece.setTackQ_seen (p : Piece) (a b : Nat) (q : List (List Dep)) : (p.setTackQ a b q).seen = p.seen := rfl
@[simp] theorem Piece.setTackQ_seenE (p : Piece) (a b : Nat) (q : List (List Dep)) : (p.setTackQ a b q).seenE = p.seenE := rfl
@[simp] theorem Piece.setTackQ_q (p : Piece) (a b : Nat) (q : List (List Dep)) : (p.setTackQ a b q).q = p.q := rfl
@[simp] theorem Piece.setTackQ_y (p : Piece) (a b : Nat) (q : List (List Dep)) : (p.setTackQ a b q).y = p.y := rfl
@[simp] theorem Piece.setTackQ_bq (p : Piece) (a b : Nat) (q : List (List Dep)) : (p.setTackQ a b q).bq = p.bq := rfl
@[simp] theorem Piece.setTackQ_pushes (p : Piece) (a b : Nat) (q : List (List Dep)) : (p.setTackQ a b q).pushes = p.pushes := rfl
@[simp] theorem Piece.setTackQ_qloads (p : Piece) (a b : Nat) (q : List (List Dep)) : (p.setTackQ a b q).qloads = p.qloads := rfl
@[simp] theorem Piece.setTackQ_mutualOn (p : Piece) (a b : Nat) (q : List (List Dep)) : (p.setTackQ a b q).mutualOn = p.mutualOn := rfl
@[simp] theorem Piece.setTackQ_sd (p : Piece) (a b : Nat) (q : List (List Dep)) : (p.setTackQ a b q).sd = p.sd := rfl
@[simp] theorem Piece.setTackQ_slots (p : Piece) (a b : Nat) (q : List (List Dep)) : (p.setTackQ a b q).slots = p.slots := rfl
@[simp] theorem Piece.setTackQ_cstarts (p : Piece) (a b : Nat) (q : List (List Dep)) : (p.setTackQ a b q).cstarts = p.cstarts := rfl
@[simp] theorem Piece.setTackQ_cfence (p : Piece) (a b : Nat) (q : List (List Dep)) : (p.setTackQ a b q).cfence = p.cfence := rfl
@[simp] theorem Piece.setTackQ_cdone (p : Piece) (a b : Nat) (q : List (List Dep)) : (p.setTackQ a b q).cdone = p.cdone := rfl
@[simp] theorem Piece.setTackQ_mx (p : Piece) (a b : Nat) (q : List (List Dep)) : (p.setTackQ a b q).mx = p.mx := rfl
@[simp] theorem Piece.setTackQ_blk (p : Piece) (a b : Nat) (q : List (List Dep)) : (p.setTackQ a b q).blk = p.blk := rfl
@[simp] theorem Piece.setTackQ_stall (p : Piece) (a b : Nat) (q : List (List Dep)) : (p.setTackQ a b q).stall = p.stall := rfl
@[simp] theorem Piece.setTackQ_lastRun (p : Piece) (a b : Nat) (q : List (List Dep)) : (p.setTackQ a b q).lastRun = p.lastRun := rfl
@[simp] theorem Piece.setTackQ_moved (p : Piece) (a b : Nat) (q : List (List Dep)) : (p.setTackQ a b q).moved = p.moved := rfl
@[simp] theorem Piece.setTackQ_blocked (p : Piece) (a b : Nat) (q : List (List Dep)) : (p.setTackQ a b q).blocked = p.blocked := rfl
@[simp] theorem Piece.setTackQ_traps (p : Piece) (a b : Nat) (q : List (List Dep)) : (p.setTackQ a b q).traps = p.traps := rfl
@[simp] theorem Piece.setTackQ_cur (p : Piece) (a b : Nat) (q : List (List Dep)) : (p.setTackQ a b q).cur = p.cur := rfl
@[simp] theorem Piece.setTackQ_abort (p : Piece) (a b : Nat) (q : List (List Dep)) : (p.setTackQ a b q).abort = p.abort := rfl
@[simp] theorem Piece.setTackQ_leave (p : Piece) (a b : Nat) (q : List (List Dep)) : (p.setTackQ a b q).leave = p.leave := rfl
@[simp] theorem Piece.setTackQ_reshape (p : Piece) (a b : Nat) (q : List (List Dep)) : (p.setTackQ a b q).reshape = p.reshape := rfl
@[simp] theorem Piece.setTackQ_result (p : Piece) (a b : Nat) (q : List (List Dep)) : (p.setTackQ a b q).result = p.result := rfl
@[simp] theorem Piece.setTackQ_restore (p : Piece) (a b : Nat) (q : List (List Dep)) : (p.setTackQ a b q).restore = p.restore := rfl
@[simp] theorem Piece.setTackQ_faceDue (p : Piece) (a b : Nat) (q : List (List Dep)) : (p.setTackQ a b q).faceDue = p.faceDue := rfl
@[simp] theorem Piece.setTackQ_gives (p : Piece) (a b : Nat) (q : List (List Dep)) : (p.setTackQ a b q).gives = p.gives := rfl

@[simp] theorem Piece.setQ_live (p : Piece) (n : Nat) (x : List QEntry) : (p.setQ n x).live = p.live := rfl
@[simp] theorem Piece.setQ_launch (p : Piece) (n : Nat) (x : List QEntry) : (p.setQ n x).launch = p.launch := rfl
@[simp] theorem Piece.setQ_seqPos (p : Piece) (n : Nat) (x : List QEntry) : (p.setQ n x).seqPos = p.seqPos := rfl
@[simp] theorem Piece.setQ_taskPos (p : Piece) (n : Nat) (x : List QEntry) : (p.setQ n x).taskPos = p.taskPos := rfl
@[simp] theorem Piece.setQ_panel (p : Piece) (n : Nat) (x : List QEntry) : (p.setQ n x).panel = p.panel := rfl
@[simp] theorem Piece.setQ_row0 (p : Piece) (n : Nat) (x : List QEntry) : (p.setQ n x).row0 = p.row0 := rfl
@[simp] theorem Piece.setQ_col0 (p : Piece) (n : Nat) (x : List QEntry) : (p.setQ n x).col0 = p.col0 := rfl
@[simp] theorem Piece.setQ_hLog (p : Piece) (n : Nat) (x : List QEntry) : (p.setQ n x).hLog = p.hLog := rfl
@[simp] theorem Piece.setQ_wLog (p : Piece) (n : Nat) (x : List QEntry) : (p.setQ n x).wLog = p.wLog := rfl
@[simp] theorem Piece.setQ_eb (p : Piece) (n : Nat) (x : List QEntry) : (p.setQ n x).eb = p.eb := rfl
@[simp] theorem Piece.setQ_thread (p : Piece) (n : Nat) (x : List QEntry) : (p.setQ n x).thread = p.thread := rfl
@[simp] theorem Piece.setQ_bay (p : Piece) (n : Nat) (x : List QEntry) : (p.setQ n x).bay = p.bay := rfl
@[simp] theorem Piece.setQ_vbase (p : Piece) (n : Nat) (x : List QEntry) : (p.setQ n x).vbase = p.vbase := rfl
@[simp] theorem Piece.setQ_vunits (p : Piece) (n : Nat) (x : List QEntry) : (p.setQ n x).vunits = p.vunits := rfl
@[simp] theorem Piece.setQ_cslot (p : Piece) (n : Nat) (x : List QEntry) : (p.setQ n x).cslot = p.cslot := rfl
@[simp] theorem Piece.setQ_atSeam (p : Piece) (n : Nat) (x : List QEntry) : (p.setQ n x).atSeam = p.atSeam := rfl
@[simp] theorem Piece.setQ_regs (p : Piece) (n : Nat) (x : List QEntry) : (p.setQ n x).regs = p.regs := rfl
@[simp] theorem Piece.setQ_pend (p : Piece) (n : Nat) (x : List QEntry) : (p.setQ n x).pend = p.pend := rfl
@[simp] theorem Piece.setQ_pois (p : Piece) (n : Nat) (x : List QEntry) : (p.setQ n x).pois = p.pois := rfl
@[simp] theorem Piece.setQ_knots (p : Piece) (n : Nat) (x : List QEntry) : (p.setQ n x).knots = p.knots := rfl
@[simp] theorem Piece.setQ_sys (p : Piece) (n : Nat) (x : List QEntry) : (p.setQ n x).sys = p.sys := rfl
@[simp] theorem Piece.setQ_s (p : Piece) (n : Nat) (x : List QEntry) : (p.setQ n x).s = p.s := rfl
@[simp] theorem Piece.setQ_c (p : Piece) (n : Nat) (x : List QEntry) : (p.setQ n x).c = p.c := rfl
@[simp] theorem Piece.setQ_m (p : Piece) (n : Nat) (x : List QEntry) : (p.setQ n x).m = p.m := rfl
@[simp] theorem Piece.setQ_f (p : Piece) (n : Nat) (x : List QEntry) : (p.setQ n x).f = p.f := rfl
@[simp] theorem Piece.setQ_pre (p : Piece) (n : Nat) (x : List QEntry) : (p.setQ n x).pre = p.pre := rfl
@[simp] theorem Piece.setQ_popped (p : Piece) (n : Nat) (x : List QEntry) : (p.setQ n x).popped = p.popped := rfl
@[simp] theorem Piece.setQ_await (p : Piece) (n : Nat) (x : List QEntry) : (p.setQ n x).await = p.await := rfl
@[simp] theorem Piece.setQ_parked (p : Piece) (n : Nat) (x : List QEntry) : (p.setQ n x).parked = p.parked := rfl
@[simp] theorem Piece.setQ_parkEv (p : Piece) (n : Nat) (x : List QEntry) : (p.setQ n x).parkEv = p.parkEv := rfl
@[simp] theorem Piece.setQ_halted (p : Piece) (n : Nat) (x : List QEntry) : (p.setQ n x).halted = p.halted := rfl
@[simp] theorem Piece.setQ_stepping (p : Piece) (n : Nat) (x : List QEntry) : (p.setQ n x).stepping = p.stepping := rfl
@[simp] theorem Piece.setQ_steers (p : Piece) (n : Nat) (x : List QEntry) : (p.setQ n x).steers = p.steers := rfl
@[simp] theorem Piece.setQ_tacks (p : Piece) (n : Nat) (x : List QEntry) : (p.setQ n x).tacks = p.tacks := rfl
@[simp] theorem Piece.setQ_acqs (p : Piece) (n : Nat) (x : List QEntry) : (p.setQ n x).acqs = p.acqs := rfl
@[simp] theorem Piece.setQ_fenceR (p : Piece) (n : Nat) (x : List QEntry) : (p.setQ n x).fenceR = p.fenceR := rfl
@[simp] theorem Piece.setQ_fenceW (p : Piece) (n : Nat) (x : List QEntry) : (p.setQ n x).fenceW = p.fenceW := rfl
@[simp] theorem Piece.setQ_relDeps (p : Piece) (n : Nat) (x : List QEntry) : (p.setQ n x).relDeps = p.relDeps := rfl
@[simp] theorem Piece.setQ_seen (p : Piece) (n : Nat) (x : List QEntry) : (p.setQ n x).seen = p.seen := rfl
@[simp] theorem Piece.setQ_seenE (p : Piece) (n : Nat) (x : List QEntry) : (p.setQ n x).seenE = p.seenE := rfl
@[simp] theorem Piece.setQ_q (p : Piece) (n : Nat) (x : List QEntry) : (p.setQ n x).q = SMap.set [] p.q n x := rfl
@[simp] theorem Piece.setQ_y (p : Piece) (n : Nat) (x : List QEntry) : (p.setQ n x).y = p.y := rfl
@[simp] theorem Piece.setQ_bq (p : Piece) (n : Nat) (x : List QEntry) : (p.setQ n x).bq = p.bq := rfl
@[simp] theorem Piece.setQ_pushes (p : Piece) (n : Nat) (x : List QEntry) : (p.setQ n x).pushes = p.pushes := rfl
@[simp] theorem Piece.setQ_qloads (p : Piece) (n : Nat) (x : List QEntry) : (p.setQ n x).qloads = p.qloads := rfl
@[simp] theorem Piece.setQ_mutualOn (p : Piece) (n : Nat) (x : List QEntry) : (p.setQ n x).mutualOn = p.mutualOn := rfl
@[simp] theorem Piece.setQ_sd (p : Piece) (n : Nat) (x : List QEntry) : (p.setQ n x).sd = p.sd := rfl
@[simp] theorem Piece.setQ_slots (p : Piece) (n : Nat) (x : List QEntry) : (p.setQ n x).slots = p.slots := rfl
@[simp] theorem Piece.setQ_cstarts (p : Piece) (n : Nat) (x : List QEntry) : (p.setQ n x).cstarts = p.cstarts := rfl
@[simp] theorem Piece.setQ_cfence (p : Piece) (n : Nat) (x : List QEntry) : (p.setQ n x).cfence = p.cfence := rfl
@[simp] theorem Piece.setQ_cdone (p : Piece) (n : Nat) (x : List QEntry) : (p.setQ n x).cdone = p.cdone := rfl
@[simp] theorem Piece.setQ_mx (p : Piece) (n : Nat) (x : List QEntry) : (p.setQ n x).mx = p.mx := rfl
@[simp] theorem Piece.setQ_blk (p : Piece) (n : Nat) (x : List QEntry) : (p.setQ n x).blk = p.blk := rfl
@[simp] theorem Piece.setQ_stall (p : Piece) (n : Nat) (x : List QEntry) : (p.setQ n x).stall = p.stall := rfl
@[simp] theorem Piece.setQ_lastRun (p : Piece) (n : Nat) (x : List QEntry) : (p.setQ n x).lastRun = p.lastRun := rfl
@[simp] theorem Piece.setQ_moved (p : Piece) (n : Nat) (x : List QEntry) : (p.setQ n x).moved = p.moved := rfl
@[simp] theorem Piece.setQ_blocked (p : Piece) (n : Nat) (x : List QEntry) : (p.setQ n x).blocked = p.blocked := rfl
@[simp] theorem Piece.setQ_traps (p : Piece) (n : Nat) (x : List QEntry) : (p.setQ n x).traps = p.traps := rfl
@[simp] theorem Piece.setQ_cur (p : Piece) (n : Nat) (x : List QEntry) : (p.setQ n x).cur = p.cur := rfl
@[simp] theorem Piece.setQ_abort (p : Piece) (n : Nat) (x : List QEntry) : (p.setQ n x).abort = p.abort := rfl
@[simp] theorem Piece.setQ_leave (p : Piece) (n : Nat) (x : List QEntry) : (p.setQ n x).leave = p.leave := rfl
@[simp] theorem Piece.setQ_reshape (p : Piece) (n : Nat) (x : List QEntry) : (p.setQ n x).reshape = p.reshape := rfl
@[simp] theorem Piece.setQ_result (p : Piece) (n : Nat) (x : List QEntry) : (p.setQ n x).result = p.result := rfl
@[simp] theorem Piece.setQ_restore (p : Piece) (n : Nat) (x : List QEntry) : (p.setQ n x).restore = p.restore := rfl
@[simp] theorem Piece.setQ_faceDue (p : Piece) (n : Nat) (x : List QEntry) : (p.setQ n x).faceDue = p.faceDue := rfl
@[simp] theorem Piece.setQ_gives (p : Piece) (n : Nat) (x : List QEntry) : (p.setQ n x).gives = p.gives := rfl

@[simp] theorem Piece.setY_live (p : Piece) (n : Nat) (x : List Token) : (p.setY n x).live = p.live := rfl
@[simp] theorem Piece.setY_launch (p : Piece) (n : Nat) (x : List Token) : (p.setY n x).launch = p.launch := rfl
@[simp] theorem Piece.setY_seqPos (p : Piece) (n : Nat) (x : List Token) : (p.setY n x).seqPos = p.seqPos := rfl
@[simp] theorem Piece.setY_taskPos (p : Piece) (n : Nat) (x : List Token) : (p.setY n x).taskPos = p.taskPos := rfl
@[simp] theorem Piece.setY_panel (p : Piece) (n : Nat) (x : List Token) : (p.setY n x).panel = p.panel := rfl
@[simp] theorem Piece.setY_row0 (p : Piece) (n : Nat) (x : List Token) : (p.setY n x).row0 = p.row0 := rfl
@[simp] theorem Piece.setY_col0 (p : Piece) (n : Nat) (x : List Token) : (p.setY n x).col0 = p.col0 := rfl
@[simp] theorem Piece.setY_hLog (p : Piece) (n : Nat) (x : List Token) : (p.setY n x).hLog = p.hLog := rfl
@[simp] theorem Piece.setY_wLog (p : Piece) (n : Nat) (x : List Token) : (p.setY n x).wLog = p.wLog := rfl
@[simp] theorem Piece.setY_eb (p : Piece) (n : Nat) (x : List Token) : (p.setY n x).eb = p.eb := rfl
@[simp] theorem Piece.setY_thread (p : Piece) (n : Nat) (x : List Token) : (p.setY n x).thread = p.thread := rfl
@[simp] theorem Piece.setY_bay (p : Piece) (n : Nat) (x : List Token) : (p.setY n x).bay = p.bay := rfl
@[simp] theorem Piece.setY_vbase (p : Piece) (n : Nat) (x : List Token) : (p.setY n x).vbase = p.vbase := rfl
@[simp] theorem Piece.setY_vunits (p : Piece) (n : Nat) (x : List Token) : (p.setY n x).vunits = p.vunits := rfl
@[simp] theorem Piece.setY_cslot (p : Piece) (n : Nat) (x : List Token) : (p.setY n x).cslot = p.cslot := rfl
@[simp] theorem Piece.setY_atSeam (p : Piece) (n : Nat) (x : List Token) : (p.setY n x).atSeam = p.atSeam := rfl
@[simp] theorem Piece.setY_regs (p : Piece) (n : Nat) (x : List Token) : (p.setY n x).regs = p.regs := rfl
@[simp] theorem Piece.setY_pend (p : Piece) (n : Nat) (x : List Token) : (p.setY n x).pend = p.pend := rfl
@[simp] theorem Piece.setY_pois (p : Piece) (n : Nat) (x : List Token) : (p.setY n x).pois = p.pois := rfl
@[simp] theorem Piece.setY_knots (p : Piece) (n : Nat) (x : List Token) : (p.setY n x).knots = p.knots := rfl
@[simp] theorem Piece.setY_sys (p : Piece) (n : Nat) (x : List Token) : (p.setY n x).sys = p.sys := rfl
@[simp] theorem Piece.setY_s (p : Piece) (n : Nat) (x : List Token) : (p.setY n x).s = p.s := rfl
@[simp] theorem Piece.setY_c (p : Piece) (n : Nat) (x : List Token) : (p.setY n x).c = p.c := rfl
@[simp] theorem Piece.setY_m (p : Piece) (n : Nat) (x : List Token) : (p.setY n x).m = p.m := rfl
@[simp] theorem Piece.setY_f (p : Piece) (n : Nat) (x : List Token) : (p.setY n x).f = p.f := rfl
@[simp] theorem Piece.setY_pre (p : Piece) (n : Nat) (x : List Token) : (p.setY n x).pre = p.pre := rfl
@[simp] theorem Piece.setY_popped (p : Piece) (n : Nat) (x : List Token) : (p.setY n x).popped = p.popped := rfl
@[simp] theorem Piece.setY_await (p : Piece) (n : Nat) (x : List Token) : (p.setY n x).await = p.await := rfl
@[simp] theorem Piece.setY_parked (p : Piece) (n : Nat) (x : List Token) : (p.setY n x).parked = p.parked := rfl
@[simp] theorem Piece.setY_parkEv (p : Piece) (n : Nat) (x : List Token) : (p.setY n x).parkEv = p.parkEv := rfl
@[simp] theorem Piece.setY_halted (p : Piece) (n : Nat) (x : List Token) : (p.setY n x).halted = p.halted := rfl
@[simp] theorem Piece.setY_stepping (p : Piece) (n : Nat) (x : List Token) : (p.setY n x).stepping = p.stepping := rfl
@[simp] theorem Piece.setY_steers (p : Piece) (n : Nat) (x : List Token) : (p.setY n x).steers = p.steers := rfl
@[simp] theorem Piece.setY_tacks (p : Piece) (n : Nat) (x : List Token) : (p.setY n x).tacks = p.tacks := rfl
@[simp] theorem Piece.setY_acqs (p : Piece) (n : Nat) (x : List Token) : (p.setY n x).acqs = p.acqs := rfl
@[simp] theorem Piece.setY_fenceR (p : Piece) (n : Nat) (x : List Token) : (p.setY n x).fenceR = p.fenceR := rfl
@[simp] theorem Piece.setY_fenceW (p : Piece) (n : Nat) (x : List Token) : (p.setY n x).fenceW = p.fenceW := rfl
@[simp] theorem Piece.setY_relDeps (p : Piece) (n : Nat) (x : List Token) : (p.setY n x).relDeps = p.relDeps := rfl
@[simp] theorem Piece.setY_seen (p : Piece) (n : Nat) (x : List Token) : (p.setY n x).seen = p.seen := rfl
@[simp] theorem Piece.setY_seenE (p : Piece) (n : Nat) (x : List Token) : (p.setY n x).seenE = p.seenE := rfl
@[simp] theorem Piece.setY_q (p : Piece) (n : Nat) (x : List Token) : (p.setY n x).q = p.q := rfl
@[simp] theorem Piece.setY_y (p : Piece) (n : Nat) (x : List Token) : (p.setY n x).y = SMap.set [] p.y n x := rfl
@[simp] theorem Piece.setY_bq (p : Piece) (n : Nat) (x : List Token) : (p.setY n x).bq = p.bq := rfl
@[simp] theorem Piece.setY_pushes (p : Piece) (n : Nat) (x : List Token) : (p.setY n x).pushes = p.pushes := rfl
@[simp] theorem Piece.setY_qloads (p : Piece) (n : Nat) (x : List Token) : (p.setY n x).qloads = p.qloads := rfl
@[simp] theorem Piece.setY_mutualOn (p : Piece) (n : Nat) (x : List Token) : (p.setY n x).mutualOn = p.mutualOn := rfl
@[simp] theorem Piece.setY_sd (p : Piece) (n : Nat) (x : List Token) : (p.setY n x).sd = p.sd := rfl
@[simp] theorem Piece.setY_slots (p : Piece) (n : Nat) (x : List Token) : (p.setY n x).slots = p.slots := rfl
@[simp] theorem Piece.setY_cstarts (p : Piece) (n : Nat) (x : List Token) : (p.setY n x).cstarts = p.cstarts := rfl
@[simp] theorem Piece.setY_cfence (p : Piece) (n : Nat) (x : List Token) : (p.setY n x).cfence = p.cfence := rfl
@[simp] theorem Piece.setY_cdone (p : Piece) (n : Nat) (x : List Token) : (p.setY n x).cdone = p.cdone := rfl
@[simp] theorem Piece.setY_mx (p : Piece) (n : Nat) (x : List Token) : (p.setY n x).mx = p.mx := rfl
@[simp] theorem Piece.setY_blk (p : Piece) (n : Nat) (x : List Token) : (p.setY n x).blk = p.blk := rfl
@[simp] theorem Piece.setY_stall (p : Piece) (n : Nat) (x : List Token) : (p.setY n x).stall = p.stall := rfl
@[simp] theorem Piece.setY_lastRun (p : Piece) (n : Nat) (x : List Token) : (p.setY n x).lastRun = p.lastRun := rfl
@[simp] theorem Piece.setY_moved (p : Piece) (n : Nat) (x : List Token) : (p.setY n x).moved = p.moved := rfl
@[simp] theorem Piece.setY_blocked (p : Piece) (n : Nat) (x : List Token) : (p.setY n x).blocked = p.blocked := rfl
@[simp] theorem Piece.setY_traps (p : Piece) (n : Nat) (x : List Token) : (p.setY n x).traps = p.traps := rfl
@[simp] theorem Piece.setY_cur (p : Piece) (n : Nat) (x : List Token) : (p.setY n x).cur = p.cur := rfl
@[simp] theorem Piece.setY_abort (p : Piece) (n : Nat) (x : List Token) : (p.setY n x).abort = p.abort := rfl
@[simp] theorem Piece.setY_leave (p : Piece) (n : Nat) (x : List Token) : (p.setY n x).leave = p.leave := rfl
@[simp] theorem Piece.setY_reshape (p : Piece) (n : Nat) (x : List Token) : (p.setY n x).reshape = p.reshape := rfl
@[simp] theorem Piece.setY_result (p : Piece) (n : Nat) (x : List Token) : (p.setY n x).result = p.result := rfl
@[simp] theorem Piece.setY_restore (p : Piece) (n : Nat) (x : List Token) : (p.setY n x).restore = p.restore := rfl
@[simp] theorem Piece.setY_faceDue (p : Piece) (n : Nat) (x : List Token) : (p.setY n x).faceDue = p.faceDue := rfl
@[simp] theorem Piece.setY_gives (p : Piece) (n : Nat) (x : List Token) : (p.setY n x).gives = p.gives := rfl

@[simp] theorem Piece.setSteer_live (p : Piece) (e : Nat) (q : List Bool) : (p.setSteer e q).live = p.live := rfl
@[simp] theorem Piece.setSteer_launch (p : Piece) (e : Nat) (q : List Bool) : (p.setSteer e q).launch = p.launch := rfl
@[simp] theorem Piece.setSteer_seqPos (p : Piece) (e : Nat) (q : List Bool) : (p.setSteer e q).seqPos = p.seqPos := rfl
@[simp] theorem Piece.setSteer_taskPos (p : Piece) (e : Nat) (q : List Bool) : (p.setSteer e q).taskPos = p.taskPos := rfl
@[simp] theorem Piece.setSteer_panel (p : Piece) (e : Nat) (q : List Bool) : (p.setSteer e q).panel = p.panel := rfl
@[simp] theorem Piece.setSteer_row0 (p : Piece) (e : Nat) (q : List Bool) : (p.setSteer e q).row0 = p.row0 := rfl
@[simp] theorem Piece.setSteer_col0 (p : Piece) (e : Nat) (q : List Bool) : (p.setSteer e q).col0 = p.col0 := rfl
@[simp] theorem Piece.setSteer_hLog (p : Piece) (e : Nat) (q : List Bool) : (p.setSteer e q).hLog = p.hLog := rfl
@[simp] theorem Piece.setSteer_wLog (p : Piece) (e : Nat) (q : List Bool) : (p.setSteer e q).wLog = p.wLog := rfl
@[simp] theorem Piece.setSteer_eb (p : Piece) (e : Nat) (q : List Bool) : (p.setSteer e q).eb = p.eb := rfl
@[simp] theorem Piece.setSteer_thread (p : Piece) (e : Nat) (q : List Bool) : (p.setSteer e q).thread = p.thread := rfl
@[simp] theorem Piece.setSteer_bay (p : Piece) (e : Nat) (q : List Bool) : (p.setSteer e q).bay = p.bay := rfl
@[simp] theorem Piece.setSteer_vbase (p : Piece) (e : Nat) (q : List Bool) : (p.setSteer e q).vbase = p.vbase := rfl
@[simp] theorem Piece.setSteer_vunits (p : Piece) (e : Nat) (q : List Bool) : (p.setSteer e q).vunits = p.vunits := rfl
@[simp] theorem Piece.setSteer_cslot (p : Piece) (e : Nat) (q : List Bool) : (p.setSteer e q).cslot = p.cslot := rfl
@[simp] theorem Piece.setSteer_atSeam (p : Piece) (e : Nat) (q : List Bool) : (p.setSteer e q).atSeam = p.atSeam := rfl
@[simp] theorem Piece.setSteer_regs (p : Piece) (e : Nat) (q : List Bool) : (p.setSteer e q).regs = p.regs := rfl
@[simp] theorem Piece.setSteer_pend (p : Piece) (e : Nat) (q : List Bool) : (p.setSteer e q).pend = p.pend := rfl
@[simp] theorem Piece.setSteer_pois (p : Piece) (e : Nat) (q : List Bool) : (p.setSteer e q).pois = p.pois := rfl
@[simp] theorem Piece.setSteer_knots (p : Piece) (e : Nat) (q : List Bool) : (p.setSteer e q).knots = p.knots := rfl
@[simp] theorem Piece.setSteer_sys (p : Piece) (e : Nat) (q : List Bool) : (p.setSteer e q).sys = p.sys := rfl
@[simp] theorem Piece.setSteer_s (p : Piece) (e : Nat) (q : List Bool) : (p.setSteer e q).s = p.s := rfl
@[simp] theorem Piece.setSteer_c (p : Piece) (e : Nat) (q : List Bool) : (p.setSteer e q).c = p.c := rfl
@[simp] theorem Piece.setSteer_m (p : Piece) (e : Nat) (q : List Bool) : (p.setSteer e q).m = p.m := rfl
@[simp] theorem Piece.setSteer_f (p : Piece) (e : Nat) (q : List Bool) : (p.setSteer e q).f = p.f := rfl
@[simp] theorem Piece.setSteer_pre (p : Piece) (e : Nat) (q : List Bool) : (p.setSteer e q).pre = p.pre := rfl
@[simp] theorem Piece.setSteer_popped (p : Piece) (e : Nat) (q : List Bool) : (p.setSteer e q).popped = p.popped := rfl
@[simp] theorem Piece.setSteer_await (p : Piece) (e : Nat) (q : List Bool) : (p.setSteer e q).await = p.await := rfl
@[simp] theorem Piece.setSteer_parked (p : Piece) (e : Nat) (q : List Bool) : (p.setSteer e q).parked = p.parked := rfl
@[simp] theorem Piece.setSteer_parkEv (p : Piece) (e : Nat) (q : List Bool) : (p.setSteer e q).parkEv = p.parkEv := rfl
@[simp] theorem Piece.setSteer_halted (p : Piece) (e : Nat) (q : List Bool) : (p.setSteer e q).halted = p.halted := rfl
@[simp] theorem Piece.setSteer_stepping (p : Piece) (e : Nat) (q : List Bool) : (p.setSteer e q).stepping = p.stepping := rfl
@[simp] theorem Piece.setSteer_steers (p : Piece) (e : Nat) (q : List Bool) : (p.setSteer e q).steers = SMap.set [] p.steers e q := rfl
@[simp] theorem Piece.setSteer_tacks (p : Piece) (e : Nat) (q : List Bool) : (p.setSteer e q).tacks = p.tacks := rfl
@[simp] theorem Piece.setSteer_acqs (p : Piece) (e : Nat) (q : List Bool) : (p.setSteer e q).acqs = p.acqs := rfl
@[simp] theorem Piece.setSteer_fenceR (p : Piece) (e : Nat) (q : List Bool) : (p.setSteer e q).fenceR = p.fenceR := rfl
@[simp] theorem Piece.setSteer_fenceW (p : Piece) (e : Nat) (q : List Bool) : (p.setSteer e q).fenceW = p.fenceW := rfl
@[simp] theorem Piece.setSteer_relDeps (p : Piece) (e : Nat) (q : List Bool) : (p.setSteer e q).relDeps = p.relDeps := rfl
@[simp] theorem Piece.setSteer_seen (p : Piece) (e : Nat) (q : List Bool) : (p.setSteer e q).seen = p.seen := rfl
@[simp] theorem Piece.setSteer_seenE (p : Piece) (e : Nat) (q : List Bool) : (p.setSteer e q).seenE = p.seenE := rfl
@[simp] theorem Piece.setSteer_q (p : Piece) (e : Nat) (q : List Bool) : (p.setSteer e q).q = p.q := rfl
@[simp] theorem Piece.setSteer_y (p : Piece) (e : Nat) (q : List Bool) : (p.setSteer e q).y = p.y := rfl
@[simp] theorem Piece.setSteer_bq (p : Piece) (e : Nat) (q : List Bool) : (p.setSteer e q).bq = p.bq := rfl
@[simp] theorem Piece.setSteer_pushes (p : Piece) (e : Nat) (q : List Bool) : (p.setSteer e q).pushes = p.pushes := rfl
@[simp] theorem Piece.setSteer_qloads (p : Piece) (e : Nat) (q : List Bool) : (p.setSteer e q).qloads = p.qloads := rfl
@[simp] theorem Piece.setSteer_mutualOn (p : Piece) (e : Nat) (q : List Bool) : (p.setSteer e q).mutualOn = p.mutualOn := rfl
@[simp] theorem Piece.setSteer_sd (p : Piece) (e : Nat) (q : List Bool) : (p.setSteer e q).sd = p.sd := rfl
@[simp] theorem Piece.setSteer_slots (p : Piece) (e : Nat) (q : List Bool) : (p.setSteer e q).slots = p.slots := rfl
@[simp] theorem Piece.setSteer_cstarts (p : Piece) (e : Nat) (q : List Bool) : (p.setSteer e q).cstarts = p.cstarts := rfl
@[simp] theorem Piece.setSteer_cfence (p : Piece) (e : Nat) (q : List Bool) : (p.setSteer e q).cfence = p.cfence := rfl
@[simp] theorem Piece.setSteer_cdone (p : Piece) (e : Nat) (q : List Bool) : (p.setSteer e q).cdone = p.cdone := rfl
@[simp] theorem Piece.setSteer_mx (p : Piece) (e : Nat) (q : List Bool) : (p.setSteer e q).mx = p.mx := rfl
@[simp] theorem Piece.setSteer_blk (p : Piece) (e : Nat) (q : List Bool) : (p.setSteer e q).blk = p.blk := rfl
@[simp] theorem Piece.setSteer_stall (p : Piece) (e : Nat) (q : List Bool) : (p.setSteer e q).stall = p.stall := rfl
@[simp] theorem Piece.setSteer_lastRun (p : Piece) (e : Nat) (q : List Bool) : (p.setSteer e q).lastRun = p.lastRun := rfl
@[simp] theorem Piece.setSteer_moved (p : Piece) (e : Nat) (q : List Bool) : (p.setSteer e q).moved = p.moved := rfl
@[simp] theorem Piece.setSteer_blocked (p : Piece) (e : Nat) (q : List Bool) : (p.setSteer e q).blocked = p.blocked := rfl
@[simp] theorem Piece.setSteer_traps (p : Piece) (e : Nat) (q : List Bool) : (p.setSteer e q).traps = p.traps := rfl
@[simp] theorem Piece.setSteer_cur (p : Piece) (e : Nat) (q : List Bool) : (p.setSteer e q).cur = p.cur := rfl
@[simp] theorem Piece.setSteer_abort (p : Piece) (e : Nat) (q : List Bool) : (p.setSteer e q).abort = p.abort := rfl
@[simp] theorem Piece.setSteer_leave (p : Piece) (e : Nat) (q : List Bool) : (p.setSteer e q).leave = p.leave := rfl
@[simp] theorem Piece.setSteer_reshape (p : Piece) (e : Nat) (q : List Bool) : (p.setSteer e q).reshape = p.reshape := rfl
@[simp] theorem Piece.setSteer_result (p : Piece) (e : Nat) (q : List Bool) : (p.setSteer e q).result = p.result := rfl
@[simp] theorem Piece.setSteer_restore (p : Piece) (e : Nat) (q : List Bool) : (p.setSteer e q).restore = p.restore := rfl
@[simp] theorem Piece.setSteer_faceDue (p : Piece) (e : Nat) (q : List Bool) : (p.setSteer e q).faceDue = p.faceDue := rfl
@[simp] theorem Piece.setSteer_gives (p : Piece) (e : Nat) (q : List Bool) : (p.setSteer e q).gives = p.gives := rfl

@[simp] theorem Piece.raise_live (p : Piece) (r : TrapRec) : (p.raise r).live = p.live := rfl
@[simp] theorem Piece.raise_launch (p : Piece) (r : TrapRec) : (p.raise r).launch = p.launch := rfl
@[simp] theorem Piece.raise_seqPos (p : Piece) (r : TrapRec) : (p.raise r).seqPos = p.seqPos := rfl
@[simp] theorem Piece.raise_taskPos (p : Piece) (r : TrapRec) : (p.raise r).taskPos = p.taskPos := rfl
@[simp] theorem Piece.raise_panel (p : Piece) (r : TrapRec) : (p.raise r).panel = p.panel := rfl
@[simp] theorem Piece.raise_row0 (p : Piece) (r : TrapRec) : (p.raise r).row0 = p.row0 := rfl
@[simp] theorem Piece.raise_col0 (p : Piece) (r : TrapRec) : (p.raise r).col0 = p.col0 := rfl
@[simp] theorem Piece.raise_hLog (p : Piece) (r : TrapRec) : (p.raise r).hLog = p.hLog := rfl
@[simp] theorem Piece.raise_wLog (p : Piece) (r : TrapRec) : (p.raise r).wLog = p.wLog := rfl
@[simp] theorem Piece.raise_eb (p : Piece) (r : TrapRec) : (p.raise r).eb = p.eb := rfl
@[simp] theorem Piece.raise_thread (p : Piece) (r : TrapRec) : (p.raise r).thread = p.thread := rfl
@[simp] theorem Piece.raise_bay (p : Piece) (r : TrapRec) : (p.raise r).bay = p.bay := rfl
@[simp] theorem Piece.raise_vbase (p : Piece) (r : TrapRec) : (p.raise r).vbase = p.vbase := rfl
@[simp] theorem Piece.raise_vunits (p : Piece) (r : TrapRec) : (p.raise r).vunits = p.vunits := rfl
@[simp] theorem Piece.raise_cslot (p : Piece) (r : TrapRec) : (p.raise r).cslot = p.cslot := rfl
@[simp] theorem Piece.raise_atSeam (p : Piece) (r : TrapRec) : (p.raise r).atSeam = p.atSeam := rfl
@[simp] theorem Piece.raise_regs (p : Piece) (r : TrapRec) : (p.raise r).regs = p.regs := rfl
@[simp] theorem Piece.raise_pend (p : Piece) (r : TrapRec) : (p.raise r).pend = p.pend := rfl
@[simp] theorem Piece.raise_pois (p : Piece) (r : TrapRec) : (p.raise r).pois = p.pois := rfl
@[simp] theorem Piece.raise_knots (p : Piece) (r : TrapRec) : (p.raise r).knots = p.knots := rfl
@[simp] theorem Piece.raise_sys (p : Piece) (r : TrapRec) : (p.raise r).sys = p.sys := rfl
@[simp] theorem Piece.raise_s (p : Piece) (r : TrapRec) : (p.raise r).s = p.s := rfl
@[simp] theorem Piece.raise_c (p : Piece) (r : TrapRec) : (p.raise r).c = p.c := rfl
@[simp] theorem Piece.raise_m (p : Piece) (r : TrapRec) : (p.raise r).m = p.m := rfl
@[simp] theorem Piece.raise_f (p : Piece) (r : TrapRec) : (p.raise r).f = p.f := rfl
@[simp] theorem Piece.raise_pre (p : Piece) (r : TrapRec) : (p.raise r).pre = p.pre := rfl
@[simp] theorem Piece.raise_popped (p : Piece) (r : TrapRec) : (p.raise r).popped = p.popped := rfl
@[simp] theorem Piece.raise_await (p : Piece) (r : TrapRec) : (p.raise r).await = p.await := rfl
@[simp] theorem Piece.raise_parked (p : Piece) (r : TrapRec) : (p.raise r).parked = p.parked := rfl
@[simp] theorem Piece.raise_parkEv (p : Piece) (r : TrapRec) : (p.raise r).parkEv = p.parkEv := rfl
@[simp] theorem Piece.raise_halted (p : Piece) (r : TrapRec) : (p.raise r).halted = p.halted := rfl
@[simp] theorem Piece.raise_stepping (p : Piece) (r : TrapRec) : (p.raise r).stepping = p.stepping := rfl
@[simp] theorem Piece.raise_steers (p : Piece) (r : TrapRec) : (p.raise r).steers = p.steers := rfl
@[simp] theorem Piece.raise_tacks (p : Piece) (r : TrapRec) : (p.raise r).tacks = p.tacks := rfl
@[simp] theorem Piece.raise_acqs (p : Piece) (r : TrapRec) : (p.raise r).acqs = p.acqs := rfl
@[simp] theorem Piece.raise_fenceR (p : Piece) (r : TrapRec) : (p.raise r).fenceR = p.fenceR := rfl
@[simp] theorem Piece.raise_fenceW (p : Piece) (r : TrapRec) : (p.raise r).fenceW = p.fenceW := rfl
@[simp] theorem Piece.raise_relDeps (p : Piece) (r : TrapRec) : (p.raise r).relDeps = p.relDeps := rfl
@[simp] theorem Piece.raise_seen (p : Piece) (r : TrapRec) : (p.raise r).seen = p.seen := rfl
@[simp] theorem Piece.raise_seenE (p : Piece) (r : TrapRec) : (p.raise r).seenE = p.seenE := rfl
@[simp] theorem Piece.raise_q (p : Piece) (r : TrapRec) : (p.raise r).q = p.q := rfl
@[simp] theorem Piece.raise_y (p : Piece) (r : TrapRec) : (p.raise r).y = p.y := rfl
@[simp] theorem Piece.raise_bq (p : Piece) (r : TrapRec) : (p.raise r).bq = p.bq := rfl
@[simp] theorem Piece.raise_pushes (p : Piece) (r : TrapRec) : (p.raise r).pushes = p.pushes := rfl
@[simp] theorem Piece.raise_qloads (p : Piece) (r : TrapRec) : (p.raise r).qloads = p.qloads := rfl
@[simp] theorem Piece.raise_mutualOn (p : Piece) (r : TrapRec) : (p.raise r).mutualOn = p.mutualOn := rfl
@[simp] theorem Piece.raise_sd (p : Piece) (r : TrapRec) : (p.raise r).sd = p.sd := rfl
@[simp] theorem Piece.raise_slots (p : Piece) (r : TrapRec) : (p.raise r).slots = p.slots := rfl
@[simp] theorem Piece.raise_cstarts (p : Piece) (r : TrapRec) : (p.raise r).cstarts = p.cstarts := rfl
@[simp] theorem Piece.raise_cfence (p : Piece) (r : TrapRec) : (p.raise r).cfence = p.cfence := rfl
@[simp] theorem Piece.raise_cdone (p : Piece) (r : TrapRec) : (p.raise r).cdone = p.cdone := rfl
@[simp] theorem Piece.raise_mx (p : Piece) (r : TrapRec) : (p.raise r).mx = p.mx := rfl
@[simp] theorem Piece.raise_blk (p : Piece) (r : TrapRec) : (p.raise r).blk = p.blk := rfl
@[simp] theorem Piece.raise_stall (p : Piece) (r : TrapRec) : (p.raise r).stall = p.stall := rfl
@[simp] theorem Piece.raise_lastRun (p : Piece) (r : TrapRec) : (p.raise r).lastRun = p.lastRun := rfl
@[simp] theorem Piece.raise_moved (p : Piece) (r : TrapRec) : (p.raise r).moved = p.moved := rfl
@[simp] theorem Piece.raise_blocked (p : Piece) (r : TrapRec) : (p.raise r).blocked = p.blocked := rfl
@[simp] theorem Piece.raise_traps (p : Piece) (r : TrapRec) : (p.raise r).traps = p.traps ++ [{ r with at_ := p.lastRun }] := rfl
@[simp] theorem Piece.raise_cur (p : Piece) (r : TrapRec) : (p.raise r).cur = p.cur := rfl
@[simp] theorem Piece.raise_abort (p : Piece) (r : TrapRec) : (p.raise r).abort = p.abort := rfl
@[simp] theorem Piece.raise_leave (p : Piece) (r : TrapRec) : (p.raise r).leave = p.leave := rfl
@[simp] theorem Piece.raise_reshape (p : Piece) (r : TrapRec) : (p.raise r).reshape = p.reshape := rfl
@[simp] theorem Piece.raise_result (p : Piece) (r : TrapRec) : (p.raise r).result = p.result := rfl
@[simp] theorem Piece.raise_restore (p : Piece) (r : TrapRec) : (p.raise r).restore = p.restore := rfl
@[simp] theorem Piece.raise_faceDue (p : Piece) (r : TrapRec) : (p.raise r).faceDue = p.faceDue := rfl
@[simp] theorem Piece.raise_gives (p : Piece) (r : TrapRec) : (p.raise r).gives = p.gives := rfl

end Sys2Proof.Machine
end

