-- ==== Sys2Proof/Laws/Word.lean ====
section
/-! SUPPORT. How a text word issues and retires: what `State.runWord` comes to where the word can run, and what it leaves
as it was. -/

namespace Sys2Proof.Machine

@[simp] theorem Piece.setEng_eng_self (p : Piece) (e : Nat) (x : EngSt) (h : e < 4) : (p.setEng e x).eng e = x := by
  match e, h with
  | 0, _ => rfl
  | 1, _ => rfl
  | 2, _ => rfl
  | 3, _ => rfl

theorem Piece.setEng_eng_ne (p : Piece) {e k : Nat} (x : EngSt) (he : e < 4) (hk : k < 4) (h : k ≠ e) :
    (p.setEng e x).eng k = p.eng k := by
  match e, k, he, hk with
  | 0, 1, _, _ | 0, 2, _, _ | 0, 3, _, _ | 1, 0, _, _ | 1, 2, _, _ | 1, 3, _, _ | 2, 0, _, _ | 2, 1, _, _ | 2, 3, _, _
  | 3, 0, _, _ | 3, 1, _, _ | 3, 2, _, _ => rfl
  | 0, 0, _, _ | 1, 1, _, _ | 2, 2, _, _ | 3, 3, _, _ => exact absurd rfl h

@[simp] theorem Piece.setEng_tackQ (p : Piece) (e : Nat) (x : EngSt) (a b : Nat) :
    (p.setEng e x).tackQ a b = p.tackQ a b := by
  unfold Piece.setEng Piece.tackQ; split <;> rfl

@[simp] theorem Piece.setTackQ_eng (p : Piece) (a b e : Nat) (q : List (List Dep)) :
    (p.setTackQ a b q).eng e = p.eng e := rfl

theorem Piece.setTackQ_tackQ (p : Piece) (a b c d : Nat) (q : List (List Dep)) :
    (p.setTackQ a b q).tackQ c d = if 4 * a + b = 4 * c + d then q else p.tackQ c d := by
  simp [Piece.setTackQ, Piece.tackQ, SMap.get_set]

@[simp] theorem Piece.count_eng (p : Piece) (ev n e : Nat) : (p.count ev n).eng e = p.eng e := by
  unfold Piece.count; split <;> rfl

@[simp] theorem Piece.count_tackQ (p : Piece) (ev n a b : Nat) : (p.count ev n).tackQ a b = p.tackQ a b := by
  unfold Piece.count; split <;> rfl

@[simp] theorem State.piece_setPiece (s : State) (p : Piece) : (s.setPiece p).piece = p := by
  simp [State.piece]

@[simp] theorem State.piece_modPiece (s : State) (f : Piece → Piece) : (s.modPiece f).piece = f s.piece := by
  simp [State.modPiece]

/-- A second replacement of the acting piece is all that counts. -/
@[simp] theorem SMap.insert_insert {α : Type} (m : SMap α) (a : Nat) (x y : α) :
    (m.insert a x).insert a y = m.insert a y := by
  induction m with
  | nil => simp [SMap.insert]
  | cons kv m ih =>
    obtain ⟨k, v⟩ := kv
    simp only [SMap.insert]
    split
    · simp [SMap.insert]
    · split
      · simp [SMap.insert]
      · rename_i h1 h2; simp [SMap.insert, h1, h2, ih]

@[simp] theorem State.setPiece_setPiece (s : State) (p q : Piece) : (s.setPiece p).setPiece q = s.setPiece q := by
  simp [State.setPiece]

@[simp] theorem State.modPiece_setPiece (s : State) (p : Piece) (f : Piece → Piece) :
    (s.setPiece p).modPiece f = s.setPiece (f p) := by
  simp [State.modPiece]

theorem State.modPiece_eq (s : State) (f : Piece → Piece) : s.modPiece f = s.setPiece (f s.piece) := rfl

@[simp] theorem State.setPiece_byte (s : State) (p : Piece) (v : Bool) (a : Nat) :
    (s.setPiece p).byte v a = s.byte v a := rfl

/-! ## Issue -/

theorem Piece.popTack_some {s : State} {e : Nat} {t : BitVec 4} (h : CanRun s e t) : ∃ q, s.piece.popTack e t = some q := by
  simp only [Piece.popTack]
  split
  · exact ⟨_, rfl⟩
  · rename_i hn
    cases hq : s.piece.tackQ (tackP t) e with
    | nil =>
      rcases h.take with h | h | h
      · simp [h] at hn
      · simp [h] at hn
      · exact absurd hq h
    | cons d ds => exact ⟨_, rfl⟩

@[simp] theorem State.begun_piece (s : State) (e : Nat) (t : BitVec 4) : (s.begun e t).piece = s.piece.begun e t :=
  State.piece_setPiece ..

/-- Where the word can run, its effect is taken on the piece as issued. -/
theorem State.runWord_eq {s : State} {e : Nat} {i : Instr} {t : BitVec 4} {acc : Nat} {chk : Piece → Option Nat}
    {body : State → Res} (h : CanRun s e t) (hp : e = 0 → s.piece.pre.fits acc = true) (hc : chk s.piece = none) :
    s.runWord e i t acc chk body = .next ((body (s.begun e t)).apply e t) := by
  obtain ⟨q, hq⟩ := Piece.popTack_some h
  have hf : (e = 0 && !s.piece.pre.fits acc) = false := by
    by_cases he : e = 0 <;> simp_all
  simp only [State.runWord, h.live, if_true, State.issue, h.going, hf, hc, hq, Piece.begun, State.begun]
  rfl

/-! ## Retirement -/

/-- The acting piece once the effect of a word that goes on at the next word is complete. -/
def Piece.ended (p : Piece) (e : Nat) (t : BitVec 4) : Piece :=
  ((p.countWord e).advance e).1.retire e t ((p.countWord e).advance e).2 (p.carry e)

theorem Res.apply_done (e : Nat) (t : BitVec 4) (s : State) :
    (Res.done s).apply e t = s.setPiece (s.piece.ended e t) := rfl

/-- A word's effect that transfers control. -/
theorem Res.apply_jump (e : Nat) (t : BitVec 4) (s : State) (pc : W64) :
    (Res.jump s pc).apply e t = s.setPiece ((s.piece.countWord e).retire e t pc (s.piece.carry e)) := rfl

theorem Piece.advance_fst (p : Piece) (e : Nat) : ∃ r, (p.advance e).1 = p.setEng e { p.eng e with rep := r } := by
  have h : p = p.setEng e { p.eng e with rep := (p.eng e).rep } := by
    match e with
    | 0 | 1 | 2 | _ + 3 => rfl
  simp only [Piece.advance]
  split
  · exact ⟨_, h⟩
  · split
    · exact ⟨_, rfl⟩
    · split
      · exact ⟨_, rfl⟩
      · exact ⟨_, rfl⟩

/-- An engine that goes on at `pc` with nothing of its word left over; it stands at its end where the word was `s.end`. -/
def EngSt.wentOn (x : EngSt) (e : Nat) (pc : W64) : EngSt :=
  { x with pc := pc, issued := false, done := none, counted := false, slip := false, waitQ := x.waitQ && 2 ≤ e,
           tdeps := [], tfrom := none, word := none, tackWait := none, atEnd := x.ending, ending := false }

/-- Engine `e` goes on at `pc` with nothing of its word left over. -/
def Piece.goOn (p : Piece) (e : Nat) (pc : W64) : Piece :=
  let p := p.setEng e ((p.eng e).wentOn e pc)
  if e = 0 then { p with pre := .none, relDeps := [], halted := p.halted || p.stepping, stepping := false } else p

/-- The piece with the tack of a word given. -/
def Piece.give (p : Piece) (e : Nat) (t : BitVec 4) (c : List Dep) : Piece :=
  if tackG t then
    { p.setTackQ e (tackP t) (p.tackQ e (tackP t) ++ [c]) with parkEv := p.parkEv || tackP t == 0 }
  else p

theorem Piece.retire_eq {p : Piece} {e : Nat} {t : BitVec 4} {pc : W64} {c : List Dep}
    (hr : tackG t = false ∨ (p.tackQ e (tackP t)).length < 15) :
    p.retire e t pc c = (p.give e t c).goOn e pc := by
  have hg : (tackG t && decide (15 ≤ (p.tackQ e (tackP t)).length)) = false := by
    rcases hr with h | h
    · simp [h]
    · simp; omega
  have he : (p.give e t c).eng e = p.eng e := by
    unfold Piece.give; split <;> rfl
  unfold Piece.goOn
  rw [he]
  unfold Piece.retire Piece.give
  rw [hg]
  rfl

theorem Piece.goOn_eng {p : Piece} {e : Nat} {pc : W64} (h : e < 4) :
    (p.goOn e pc).eng e = (p.eng e).wentOn e pc := by
  match e, h with
  | 0, _ | 1, _ | 2, _ | 3, _ => rfl

theorem Piece.goOn_others {p : Piece} {e k : Nat} {pc : W64} (h : e < 4) (hk : k < 4) (hne : k ≠ e) :
    (p.goOn e pc).eng k = p.eng k := by
  match e, k, h, hk with
  | 0, 1, _, _ | 0, 2, _, _ | 0, 3, _, _ | 1, 0, _, _ | 1, 2, _, _ | 1, 3, _, _ | 2, 0, _, _ | 2, 1, _, _ | 2, 3, _, _
  | 3, 0, _, _ | 3, 1, _, _ | 3, 2, _, _ => rfl
  | 0, 0, _, _ | 1, 1, _, _ | 2, 2, _, _ | 3, 3, _, _ => exact absurd rfl hne

@[simp] theorem Piece.goOn_tackQ (p : Piece) (e : Nat) (pc : W64) (a b : Nat) : (p.goOn e pc).tackQ a b = p.tackQ a b := by
  match e with
  | 0 | 1 | 2 | _ + 3 => rfl

@[simp] theorem Piece.give_eng (p : Piece) (e : Nat) (t : BitVec 4) (c : List Dep) (k : Nat) :
    (p.give e t c).eng k = p.eng k := by
  unfold Piece.give; split <;> rfl

theorem Piece.give_tackQ (p : Piece) (e : Nat) (t : BitVec 4) (c : List Dep) (a b : Nat) :
    (p.give e t c).tackQ a b =
      if tackG t = true ∧ 4 * e + tackP t = 4 * a + b then p.tackQ e (tackP t) ++ [c] else p.tackQ a b := by
  unfold Piece.give
  cases tackG t
  · simp
  · exact (Piece.setTackQ_tackQ ..).trans (by simp)

/-! ## A word that completes -/

theorem Piece.count_form (p : Piece) (ev n : Nat) : ∃ c, p.count ev n = { p with sys := { p.sys with cnt := c } } := by
  unfold Piece.count; split
  · exact ⟨_, rfl⟩
  · exact ⟨p.sys.cnt, rfl⟩

theorem Piece.setEng_self (p : Piece) (e : Nat) (x : EngSt) (h : x = p.eng e) : p.setEng e x = p := by
  subst h
  match e with
  | 0 | 1 | 2 | _ + 3 => rfl

theorem Piece.countWord_form (p : Piece) (e : Nat) : ∃ c, p.countWord e = { p with sys := { p.sys with cnt := c } } := by
  unfold Piece.countWord; split
  · exact ⟨p.sys.cnt, rfl⟩
  · exact Piece.count_form ..

@[simp] theorem Piece.countWord_eng (p : Piece) (e k : Nat) : (p.countWord e).eng k = p.eng k := by
  obtain ⟨c, h⟩ := p.countWord_form e; rw [h]; rfl

@[simp] theorem Piece.countWord_tackQ (p : Piece) (e a b : Nat) : (p.countWord e).tackQ a b = p.tackQ a b := by
  obtain ⟨c, h⟩ := p.countWord_form e; rw [h]; rfl

theorem Piece.countIssue_form (p : Piece) (e : Nat) (he : e < 4) :
    ∃ c b, p.countIssue e = Piece.setEng { p with sys := { p.sys with cnt := c } } e { p.eng e with counted := b } := by
  have hid : p = Piece.setEng { p with sys := { p.sys with cnt := p.sys.cnt } } e
      { p.eng e with counted := (p.eng e).counted } := by
    match e, he with | 0, _ | 1, _ | 2, _ | 3, _ => rfl
  unfold Piece.countIssue
  split
  · rename_i h
    obtain ⟨c, hc⟩ := Piece.count_form p 3 1
    have : e = 2 := by simp only [Bool.and_eq_true, decide_eq_true_eq] at h; exact h.1
    subst this
    exact ⟨c, true, by rw [hc]; rfl⟩
  · exact ⟨_, _, hid⟩

/-- What issue does to the piece. -/
theorem Piece.begun_form (p : Piece) (e : Nat) (t : BitVec 4) (he : e < 4) :
    ∃ x tk c m, p.begun e t = Piece.setEng { p with tacks := tk, sys := { p.sys with cnt := c }, moved := m } e x
      ∧ x.pc = (p.eng e).pc ∧ x.done = (p.eng e).done ∧ x.rep = (p.eng e).rep ∧ x.atEnd = (p.eng e).atEnd
      ∧ x.stopped = (p.eng e).stopped
      ∧ ∀ a b, SMap.get [] tk (4 * a + b) =
          if (tackW t && !(p.eng e).issued) = true ∧ 4 * tackP t + e = 4 * a + b then (p.tackQ a b).tail
          else p.tackQ a b := by
  have hs : ∀ x y, ∀ c, ∀ tk, { (Piece.setEng { (Piece.setEng { p with tacks := tk } e x) with
      sys := { (Piece.setEng { p with tacks := tk } e x).sys with cnt := c } } e y) with moved := true }
      = Piece.setEng { p with tacks := tk, sys := { p.sys with cnt := c }, moved := true } e y := by
    intro x y c tk
    match e, he with
    | 0, _ | 1, _ | 2, _ | 3, _ => rfl
  have hk : ∀ x tk, Piece.setEng { p with tacks := tk } e x
      = Piece.setEng { p with tacks := tk, sys := { p.sys with cnt := p.sys.cnt }, moved := p.moved } e x := by
    intro x tk; rfl
  have fin : ∀ (x : EngSt) (tk : SMap (List (List Dep))), x.pc = (p.eng e).pc → x.done = (p.eng e).done →
      x.rep = (p.eng e).rep → x.atEnd = (p.eng e).atEnd → x.stopped = (p.eng e).stopped →
      (∀ a b, SMap.get [] tk (4 * a + b) =
          if (tackW t && !(p.eng e).issued) = true ∧ 4 * tackP t + e = 4 * a + b then (p.tackQ a b).tail
          else p.tackQ a b) → p.popTack e t = some (Piece.setEng { p with tacks := tk } e x) →
      ∃ x tk c m, p.begun e t = Piece.setEng { p with tacks := tk, sys := { p.sys with cnt := c }, moved := m } e x
      ∧ x.pc = (p.eng e).pc ∧ x.done = (p.eng e).done ∧ x.rep = (p.eng e).rep ∧ x.atEnd = (p.eng e).atEnd
      ∧ x.stopped = (p.eng e).stopped
      ∧ ∀ a b, SMap.get [] tk (4 * a + b) =
          if (tackW t && !(p.eng e).issued) = true ∧ 4 * tackP t + e = 4 * a + b then (p.tackQ a b).tail
          else p.tackQ a b := by
    intro x tk h1 h2 h3 h4 h5 h6 hq
    simp only [Piece.begun, hq]
    split
    · exact ⟨x, tk, _, _, hk x tk, h1, h2, h3, h4, h5, h6⟩
    · obtain ⟨c, b, hc⟩ := Piece.countIssue_form (Piece.setEng { p with tacks := tk } e x) e he
      rw [hc, Piece.setEng_eng_self _ _ _ he]
      exact ⟨{ x with counted := b }, tk, c, true, hs x _ c tk, h1, h2, h3, h4, h5, h6⟩
  cases hi : ((p.eng e).issued || !tackW t)
  · cases hq : p.tackQ (tackP t) e with
    | nil =>
      have hb : p.begun e t = p := by simp [Piece.begun, Piece.popTack, hi, hq]
      refine ⟨p.eng e, p.tacks, p.sys.cnt, p.moved, ?_, rfl, rfl, rfl, rfl, rfl, ?_⟩
      · rw [hb]; exact (Piece.setEng_self p e _ rfl).symm
      · intro a b
        split
        · rename_i h
          have : p.tackQ a b = p.tackQ (tackP t) e := by simp only [Piece.tackQ, h.2]
          rw [this, hq]; exact (this ▸ hq : p.tackQ a b = [])
        · rfl
    | cons d ds =>
      refine fin { p.eng e with issued := true, tdeps := d, tfrom := some (tackP t), deps := (p.eng e).deps ++ d }
        (SMap.set [] p.tacks (4 * tackP t + e) ds) rfl rfl rfl rfl rfl ?_ ?_
      · intro a b
        rw [SMap.get_set]
        simp only [Bool.or_eq_false_iff, Bool.not_eq_false'] at hi
        by_cases h : 4 * tackP t + e = 4 * a + b
        · have : p.tackQ a b = p.tackQ (tackP t) e := by simp only [Piece.tackQ, h]
          simp [h, hi.1, hi.2, this, hq]
        · simp [h, Piece.tackQ]
      · simp only [Piece.popTack, hi, hq]; rfl
  · refine fin { p.eng e with issued := true } p.tacks rfl rfl rfl rfl rfl ?_ ?_
    · intro a b
      have : (tackW t && !(p.eng e).issued) = false := by
        cases h1 : (p.eng e).issued <;> cases h2 : tackW t <;> simp_all
      simp [this, Piece.tackQ]
    · simp only [Piece.popTack, hi, if_true]

theorem Piece.advance_snd {p q : Piece} {e : Nat} (h1 : (q.eng e).pc = (p.eng e).pc) (h2 : (q.eng e).rep = (p.eng e).rep) :
    (q.advance e).2 = (p.advance e).2 := by
  simp only [Piece.advance, h1, h2]
  split
  · rfl
  · split
    · rfl
    · split <;> rfl

/-- The end of a word that has run: `q` is the piece after the word's effect, which leaves the engines and the tacks as
they were at issue. -/
theorem WordDone.of_begun {s u : State} {e : Nat} {t : BitVec 4} (h : CanRun s e t) (he : e < 4) (q : Piece)
    (hu : u.piece = q.ended e t)
    (hq : ∀ k, k < 4 → q.eng k = (s.piece.begun e t).eng k) (hk : q.tacks = (s.piece.begun e t).tacks) :
    WordDone s u e t (s.piece.nextPc e) := by
  obtain ⟨x, tk, c, m, hb, h1, h2, h3, -, -, htk⟩ := Piece.begun_form s.piece e t he
  have hbe : (s.piece.begun e t).eng e = x := by rw [hb]; exact Piece.setEng_eng_self _ _ _ he
  have hbt : (s.piece.begun e t).tacks = tk := by
    rw [hb]; match e, he with | 0, _ | 1, _ | 2, _ | 3, _ => rfl
  have hqe : q.eng e = x := (hq e he).trans hbe
  have hqt : ∀ a b, q.tackQ a b = SMap.get [] tk (4 * a + b) := fun a b => by
    simp only [Piece.tackQ, hk, hbt]
  have hfield := h.field
  have hP : tackP t < 4 := Nat.mod_lt _ (by omega)
  have hne : tackG t = true ∨ tackW t = true → tackP t ≠ e := by
    intro hwg
    simp only [tackOk] at hfield
    split at hfield
    · rename_i h0
      simp only [tackG, tackW, bitAt, beq_iff_eq] at hwg
      omega
    · simpa [tackP] using hfield
  obtain ⟨r, hr⟩ := Piece.advance_fst (q.countWord e) e
  have hroom : tackG t = false ∨ (((q.countWord e).advance e).1.tackQ e (tackP t)).length < 15 := by
    rcases h.room with hg | hg
    · exact .inl hg
    · by_cases hG : tackG t = true
      · right
        rw [hr, Piece.setEng_tackQ, Piece.countWord_tackQ, hqt, htk, if_neg]
        · exact hg
        · have := hne (.inl hG); omega
      · left; simpa using hG
  have hend : q.ended e t = (((q.countWord e).advance e).1.give e t (q.carry e)).goOn e ((q.countWord e).advance e).2 :=
    Piece.retire_eq hroom
  have hpc : ((q.countWord e).advance e).2 = s.piece.nextPc e :=
    Piece.advance_snd (by rw [Piece.countWord_eng, hqe]; exact h1) (by rw [Piece.countWord_eng, hqe]; exact h3)
  refine ⟨?_, ?_, ⟨q.carry e, ?_⟩, ?_, ?_⟩
  · rw [hu, hend, Piece.goOn_eng he]; exact hpc
  · rw [hu, hend, Piece.goOn_eng he]; exact ⟨rfl, rfl⟩
  · intro a b ha hb'
    rw [hu, hend, Piece.goOn_tackQ, Piece.give_tackQ, hr, Piece.setEng_tackQ, Piece.setEng_tackQ,
      Piece.countWord_tackQ, Piece.countWord_tackQ, hqt, hqt, htk, htk]
    simp only [tacksAfter, Bool.and_eq_true, beq_iff_eq]
    have e1 : (4 * tackP t + e = 4 * a + b) ↔ (a = tackP t ∧ b = e) := by omega
    have e2 : (4 * e + tackP t = 4 * a + b) ↔ (a = e ∧ b = tackP t) := by omega
    have e3 : (4 * tackP t + e = 4 * e + tackP t) ↔ tackP t = e := by omega
    simp only [e1, e2, e3]
    by_cases hG : tackG t = true
    · have := hne (.inl hG)
      by_cases ha : a = e ∧ b = tackP t
      · obtain ⟨rfl, rfl⟩ := ha
        have h0 : ¬ a = tackP t := fun h => this h.symm
        simp [hG, h0, this]
      · simp only [hG, ha, and_false, if_false, true_and, and_assoc]
    · simp [hG, and_assoc]
  · intro k hk4 hke
    rw [hu, hend, Piece.goOn_others he hk4 hke, Piece.give_eng, hr, Piece.setEng_eng_ne _ _ he hk4 hke,
      Piece.countWord_eng, hq k hk4, hb, Piece.setEng_eng_ne _ _ he hk4 hke]
    match k, hk4 with | 0, _ | 1, _ | 2, _ | 3, _ => rfl
  · rintro rfl
    rw [hu, hend]; rfl

end Sys2Proof.Machine
end

