-- ==== Sys2Proof/Laws/Frame.lean ====
section
/-! SUPPORT. What memory accesses and the hub's records leave alone: the units of the machine. -/

namespace Sys2Proof.Machine

/-- A state without memory, what belongs to it (the reservations of it too), the hub, what left the package, and the choices: the units of pieces and
links, what they have in flight, and the time. -/
def State.units (s : State) : State :=
  { s with mem := [], vault := [], poison := [], upset := [], lmeta := [], resv := [], hub := {}, outbox := [], choices := [] }

theorem State.foldl_units {α : Type} (f : State → α → State) (hf : ∀ s a, (f s a).units = s.units) (l : List α) (s : State) :
    (l.foldl f s).units = s.units := by
  induction l generalizing s with
  | nil => rfl
  | cons a l ih => rw [List.foldl_cons, ih, hf]

@[simp] theorem State.putByte_units (s : State) (v : Bool) (a : Nat) (b : Byte) : (s.putByte v a b).units = s.units := by
  unfold State.putByte; split <;> rfl

@[simp] theorem State.putBytes_units (s : State) (v : Bool) (a : Nat) (bs : List Byte) :
    (s.putBytes v a bs).units = s.units := by
  induction bs generalizing s a with
  | nil => rfl
  | cons b bs ih => rw [State.putBytes, ih, State.putByte_units]

theorem State.lmeta_units (s : State) (m : SMap (BitVec 61)) : State.units { s with lmeta := m } = s.units := rfl

@[simp] theorem State.putSealed_units (s : State) (l d : Nat) (p : List Byte) : (s.putSealed l d p).units = s.units := by
  unfold State.putSealed
  generalize sealLine (s.keyDom d) (s.fullPa l) p = c
  exact (State.lmeta_units ..).trans (State.putBytes_units s false l c.1)

@[simp] theorem State.breakLine_units (s : State) (v : Bool) (l : Nat) : (s.breakLine v l).units = s.units := by
  unfold State.breakLine; split <;> rfl

theorem State.writeLine_units {s u : State} {v : Bool} {l o : Nat} {d : List Byte} (h : s.writeLine v l o d = some u) :
    u.units = s.units := by
  unfold State.writeLine at h
  have h1 := State.breakLine_units s v l
  generalize s.breakLine v l = w at h h1
  have h2 := fun x => (State.putBytes_units w v x d).trans h1
  have h3 := fun a b c => (State.putSealed_units w a b c).trans h1
  simp only at h
  generalize w.plainLine l = pl at h
  by_cases hc : d.length = lineSize v
  · rw [if_pos hc] at h
    have h := Option.some.inj h
    rw [← h]
    cases v
    · exact h2 l
    · exact h2 l
  · rw [if_neg hc] at h
    by_cases hd : (!v && w.prot l) = true
    · rw [if_pos hd] at h
      cases pl with
      | none => cases h
      | some p => have h := Option.some.inj h; rw [← h]; exact h3 ..
    · rw [if_neg hd] at h
      have h := Option.some.inj h; rw [← h]; exact h2 _

theorem State.writeLines_units {s u : State} {v : Bool} {n a : Nat} {d : List Byte} (h : s.writeLines v n a d = some u) :
    u.units = s.units := by
  induction n generalizing s a d with
  | zero => simp only [State.writeLines] at h; injection h with h; rw [h]
  | succ n ih =>
    cases d with
    | nil => simp only [State.writeLines] at h; injection h with h; rw [h]
    | cons b d =>
      simp only [State.writeLines] at h
      split at h
      · cases h
      · rename_i t ht
        rw [ih h, State.writeLine_units ht]

theorem State.write_units {s u : State} {v : Bool} {a : Nat} {d : List Byte} (h : s.write v a d = some u) :
    u.units = s.units := State.writeLines_units h

theorem State.write_getD_units (s : State) (v : Bool) (a : Nat) (d : List Byte) : ((s.write v a d).getD s).units = s.units := by
  cases h : s.write v a d with
  | none => rfl
  | some u => exact State.write_units h

@[simp] theorem State.hubWrite_units (s : State) (a : Nat) (d : List Byte) : (s.hubWrite a d).units = s.units :=
  State.write_getD_units s false a d

@[simp] theorem State.emit_units (s : State) (o : Output) : (s.emit o).units = s.units := rfl

@[simp] theorem State.hostIrq_units (s : State) (f : Bool) (v : Nat) : (s.hostIrq f v).units = s.units := by
  unfold State.hostIrq; split
  · split <;> rfl
  · split <;> rfl

@[simp] theorem State.hostIrqs_units (s : State) : s.hostIrqs.units = s.units := by
  simp [State.hostIrqs]

@[simp] theorem State.sidecarIrq_units (s : State) : s.sidecarIrq.units = s.units := rfl

theorem State.hub_units (s : State) (h : Hub) : State.units { s with hub := h } = s.units := rfl

@[simp] theorem State.setLevel_units (s : State) (n : Nat) : (s.setLevel n).units = s.units := by
  unfold State.setLevel; split
  · rfl
  · simp [State.hub_units]

@[simp] theorem State.ringWrite_units (s : State) (b : List Byte) : (s.ringWrite b).units = s.units := by
  simp [State.ringWrite, State.hub_units]

@[simp] theorem State.record_units (s : State) (r : ErrRec) : (s.record r).units = s.units := by
  simp only [State.record]
  repeat' split
  all_goals first | rfl | (rw [State.ringWrite_units]; rfl)

@[simp] theorem State.setLaunch_units (s : State) (l : Nat) (x : Launch) : (s.setLaunch l x).units = s.units := rfl

@[simp] theorem State.endUnfit_units (s : State) (l : Nat) : (s.endUnfit l).units = s.units := rfl

@[simp] theorem State.sourceErr_units (s : State) (n : Nat) : (s.sourceErr n).units = s.units := by
  unfold State.sourceErr; split <;> simp

@[simp] theorem State.unfitLaunch_units (s : State) (l : Nat) : (s.unfitLaunch l).units = s.units := by
  simp [State.unfitLaunch]

@[simp] theorem State.endLaunches_units (s : State) : s.endLaunches.units = s.units := by
  unfold State.endLaunches
  apply State.foldl_units
  intro s a
  split <;> simp

@[simp] theorem State.err_units (s : State) (r : ErrRec) : (s.err r).units = s.units := by
  unfold State.err; split
  · exact (State.hub_units ..).trans (by simp)
  · simp

@[simp] theorem State.detectLine_units (s : State) (v : Bool) (l : Nat) : (s.detectLine v l).units = s.units := by
  simp only [State.detectLine]
  split
  · rfl
  · rw [State.err_units]; rfl
  · rw [State.err_units]; rfl
  · rw [State.err_units]; rfl

@[simp] theorem State.detect_units (s : State) (v : Bool) (a n : Nat) : (s.detect v a n).units = s.units := by
  unfold State.detect; split
  · rfl
  · exact State.foldl_units _ (fun s l => State.detectLine_units s v l) _ s

@[simp] theorem State.markPte_units (s : State) (e a : Nat) (w : Bool) : (s.markPte e a w).units = s.units := by
  unfold State.markPte; split
  · rfl
  · split <;> simp

@[simp] theorem State.setTlb_units (s : State) (g : Option Nat) (l : List TlbEntry) : (s.setTlb g l).units = s.units := by
  unfold State.setTlb; split <;> rfl

@[simp] theorem State.keepEntry_units (s : State) (g : Option Nat) (t : TlbEntry) : (s.keepEntry g t).units = s.units :=
  State.setTlb_units ..

@[simp] theorem State.choose_units (s : State) : s.choose.2.units = s.units := by
  unfold State.choose; split <;> rfl

@[simp] theorem State.chooseGen_units (s : State) (a : Acc) : (s.chooseGen a).2.units = s.units := by
  unfold State.chooseGen; split
  · exact State.choose_units s
  · rfl

theorem State.lookup_units (s : State) (g : Option Nat) (va : Nat) (a : Acc) : (s.lookup g va a).2.units = s.units := by
  simp only [State.lookup]
  have h := State.choose_units s
  split
  · rfl
  · split
    · exact h
    · split
      · rw [State.err_units, State.setTlb_units]; exact h
      · split <;> exact h

@[simp] theorem State.keepTlb_units (s : State) (g : Option Nat) (va e l a : Nat) (w : Bool) :
    (s.keepTlb g va e l a w).units = s.units := by
  unfold State.keepTlb; cases g <;> simp

/-- The state a walk ends in. -/
def WalkRes.state : WalkRes → State
  | .leaf s _ _ _ => s
  | .bad s _ _ => s

/-- The state one level of a walk ends in. -/
def WalkStep.state : WalkStep → State
  | .stop r => r.state
  | .down s _ => s

theorem State.walkStep_units (s : State) (va : Nat) (a : Acc) (l t : Nat) : (s.walkStep va a l t).state.units = s.units := by
  unfold State.walkStep
  generalize (if l = 3 then bits va 39 18 else bits va (12 + 9 * l) 9) = idx
  simp only
  have hd : ∀ x, (s.detect false x 8).units = s.units := fun x => State.detect_units s false x 8
  split
  · rfl
  · split
    · exact hd _
    · split
      · exact hd _
      · split
        · exact hd _
        · split
          · exact hd _
          · split
            · simp only [WalkStep.state]; split <;> exact hd _
            · exact hd _

theorem State.walk_units (va : Nat) (a : Acc) (l t : Nat) (s : State) : (State.walk va a l t s).state.units = s.units := by
  induction l generalizing t s with
  | zero =>
    have h := State.walkStep_units s va a 0 t
    unfold State.walk
    split
    · rename_i h'; rw [h'] at h; exact h
    · rename_i h'; rw [h'] at h; exact h
  | succ l ih =>
    have h := State.walkStep_units s va a (l + 1) t
    unfold State.walk
    split
    · rename_i h'; rw [h'] at h; exact h
    · rename_i h'; rw [h'] at h; rw [ih]; exact h

/-- The state a check of an address ends in. -/
def Adr.state : Adr → State
  | .place s _ _ _ _ _ => s
  | .held s => s
  | .bad s _ _ => s

theorem Adr.state_place (s : State) (v : Bool) (n k : Nat) (l : Option Nat) (f : Option (Nat × Nat)) :
    (Adr.place s v n k l f).state = s := rfl
theorem Adr.state_held (s : State) : (Adr.held s).state = s := rfl
theorem Adr.state_bad (s : State) (c : Nat) (l : W64) : (Adr.bad s c l).state = s := rfl

theorem State.checkLeaf_units (s : State) (va e l adr : Nat) (a : Acc) : (s.checkLeaf va e l adr a).state.units = s.units := by
  have hm := State.markPte_units s e adr a.write
  unfold State.checkLeaf
  cases a.turned <;> simp only [apply_ite Adr.state, apply_ite State.units, Adr.state_place, Adr.state_held,
    Adr.state_bad, hm, ite_self]

/-- What looking up an address leaves: the units, but for the acting piece's event counters. -/
inductive Looked (s : State) (u : State) : Prop where
  | same : u.units = s.units → Looked s u
  | counted (c : SMap W64) :
      u.units = State.units (s.setPiece { s.piece with sys := { s.piece.sys with cnt := c } }) → Looked s u

/-- States that agree on their units agree on each part of them. -/
theorem State.of_units {s u : State} (h : u.units = s.units) :
    u.focusP = s.focusP ∧ u.focusE = s.focusE ∧ u.pieces = s.pieces ∧ u.ops = s.ops ∧ u.opCount = s.opCount
      ∧ u.time = s.time ∧ u.scatters = s.scatters ∧ u.barEvs = s.barEvs ∧ u.invokes = s.invokes ∧ u.links = s.links
      ∧ u.fresh = s.fresh ∧ u.agenda = s.agenda :=
  ⟨congrArg (·.focusP) h, congrArg (·.focusE) h, congrArg (·.pieces) h, congrArg (·.ops) h, congrArg (·.opCount) h,
    congrArg (·.time) h, congrArg (·.scatters) h, congrArg (·.barEvs) h, congrArg (·.invokes) h, congrArg (·.links) h,
    congrArg (·.fresh) h, congrArg (·.agenda) h⟩

theorem State.piece_of_units {s u : State} (h : u.units = s.units) : u.piece = s.piece := by
  have := State.of_units h
  simp only [State.piece, this.1, this.2.2.1]

theorem Looked.trans_units {s t u : State} (h : Looked s t) (h2 : u.units = t.units) : Looked s u := by
  cases h with
  | same h => exact .same (h2.trans h)
  | counted c h => exact .counted c (h2.trans h)

theorem State.setPiece_units {s t : State} (h : t.units = s.units) (p : Piece) : (t.setPiece p).units = (s.setPiece p).units :=
  congrArg (fun x : State => { x with pieces := x.pieces.insert x.focusP p }) h

theorem Looked.of_units {s t u : State} (h2 : t.units = s.units) (h : Looked t u) : Looked s u := by
  cases h with
  | same h => exact .same (h.trans h2)
  | counted c h =>
    refine .counted c (h.trans ?_)
    have hp := State.piece_of_units h2
    rw [hp]; exact State.setPiece_units h2 _

/-- The acting piece after an address was looked up. -/
theorem Looked.piece {s u : State} (h : Looked s u) : ∃ c, u.piece = { s.piece with sys := { s.piece.sys with cnt := c } } := by
  cases h with
  | same h => exact ⟨s.piece.sys.cnt, State.piece_of_units h⟩
  | counted c h => exact ⟨c, (State.piece_of_units h).trans (State.piece_setPiece ..)⟩

theorem Looked.trans {s t u : State} (h : Looked s t) (h2 : Looked t u) : Looked s u := by
  cases h with
  | same h => exact Looked.of_units h h2
  | counted c h =>
    cases h2 with
    | same h2 => exact .counted c (h2.trans h)
    | counted d h2 =>
      have hp : t.piece = { s.piece with sys := { s.piece.sys with cnt := c } } :=
        (State.piece_of_units h).trans (State.piece_setPiece ..)
      refine .counted d (h2.trans ((State.setPiece_units h _).trans ?_))
      rw [State.setPiece_setPiece, hp]

theorem Looked.count (t : State) (ev n : Nat) : Looked t (t.modPiece (·.count ev n)) := by
  obtain ⟨c, h⟩ := Piece.count_form t.piece ev n
  exact .counted c (by rw [State.modPiece_eq, h])

/-- What is in flight after an address was looked up. -/
theorem Looked.flight {s u : State} (h : Looked s u) :
    u.focusP = s.focusP ∧ u.ops = s.ops ∧ u.opCount = s.opCount ∧ u.time = s.time ∧ u.scatters = s.scatters
      ∧ u.barEvs = s.barEvs ∧ u.invokes = s.invokes ∧ u.links = s.links ∧ u.fresh = s.fresh := by
  cases h with
  | same h =>
    obtain ⟨a, b, c, d, e, f, g, i, j, k, l, m⟩ := State.of_units h
    exact ⟨a, d, e, f, g, i, j, k, l⟩
  | counted c h =>
    obtain ⟨a, b, c, d, e, f, g, i, j, k, l, m⟩ := State.of_units h
    exact ⟨a, d, e, f, g, i, j, k, l⟩

/-- The end of a walk that found a leaf. -/
theorem State.checkKeep_units (w : State) (g : Option Nat) (va e level adr : Nat) (a : Acc) :
    (w.checkKeep g va e level adr a).state.units = w.units := by
  unfold State.checkKeep
  have hl := State.checkLeaf_units w va e level adr a
  generalize w.checkLeaf va e level adr a = r at hl
  cases r with
  | place x v pa k li f => exact (State.keepTlb_units x g va e level adr a.write).trans hl
  | held x => exact hl
  | bad x cd li => exact hl

theorem WalkRes.adr_units (r : WalkRes) (g : Option Nat) (va : Nat) (a : Acc) : (r.adr g va a).state.units = r.state.units := by
  cases r with
  | bad w cd l => rfl
  | leaf w e l adr => exact State.checkKeep_units w g va e l adr a

theorem State.cached_looked (s : State) (g : Option Nat) (va : Nat) (a : Acc) : Looked s (s.cached g va a).2 := by
  unfold State.cached
  cases g with
  | none => exact .same (State.lookup_units ..)
  | some g =>
    have h := State.lookup_units s (some g) va a
    simp only
    generalize s.lookup (some g) va a = r at h
    obtain ⟨_ | t, u⟩ := r
    · have h2 := State.lookup_units (u.modPiece (·.count 14 1)) none va a
      simp only
      generalize (u.modPiece (·.count 14 1)).lookup none va a = r at h2
      have hu : Looked s (u.modPiece (·.count 14 1)) := Looked.of_units h (Looked.count ..)
      obtain ⟨_ | t, w⟩ := r
      · exact hu.trans_units h2
      · exact hu.trans_units ((State.keepEntry_units ..).trans h2)
    · exact .same h

theorem State.translate_looked (s : State) (va : Nat) (a : Acc) : Looked s (s.translate va a).state := by
  unfold State.translate
  have hg := State.chooseGen_units s a
  generalize s.chooseGen a = r at hg
  obtain ⟨g, w⟩ := r
  have hc := Looked.of_units hg (State.cached_looked w g va a)
  simp only
  generalize w.cached g va a = r at hc
  obtain ⟨o, t⟩ := r
  cases o with
  | some e =>
    by_cases hk : leafOk e.pte.toNat (levelOfBits e.bits) a = true
    · simp only [hk, if_true]
      exact hc.trans_units (State.checkLeaf_units ..)
    · simp only [hk]
      exact hc
  | none =>
    refine hc.trans ((Looked.count t 15 1).trans_units ((WalkRes.adr_units ..).trans ?_))
    exact State.walk_units ..

theorem State.checkAddr_looked (s : State) (adr : W64) (n : Nat) (a : Acc) : Looked s (s.checkAddr adr n a).state := by
  have hs : Looked s s := .same rfl
  unfold State.checkAddr
  by_cases c1 : (adr.toNat % n != 0) = true
  · rw [if_pos c1]; exact hs
  rw [if_neg c1]
  by_cases c2 : isVaultAddr adr = true
  · rw [if_pos c2]
    by_cases c3 : a.text = true
    · rw [if_pos c3]; exact hs
    rw [if_neg c3]
    by_cases c4 : (!s.inWindow (vaultOf adr) n a) = true
    · rw [if_pos c4]; exact hs
    rw [if_neg c4]
    by_cases c5 : (a.ver || a.turned == .liningOnly) = true
    · rw [if_pos c5]; exact hs
    · rw [if_neg c5]; exact hs
  rw [if_neg c2]
  by_cases c6 : (adr.toNat / 2 ^ 57 != 0) = true
  · rw [if_pos c6]; exact hs
  · rw [if_neg c6]; exact State.translate_looked ..

end Sys2Proof.Machine
end

