-- ==== Sys2Proof/Laws/Mem.lean ====
section
/-! SUPPORT. Memory operations: each keeps the canonical form of memory and vaults, a byte written reads back, and a write
leaves every other byte as it was. -/

namespace Sys2Proof.Machine

/-! ## Bytes -/

/-- Memory, vaults and what lies beside them decide `MemOk`: states with the same memories agree on it. -/
theorem memOk_congr {s t : State} (hm : t.mem = s.mem) (hv : t.vault = s.vault) (h : MemOk s) : MemOk t := by
  unfold MemOk at *; rw [hm, hv]; exact h

theorem memOk_reset : MemOk State.reset := by unfold MemOk; decide

/-- A byte after a byte has been written. -/
theorem byte_putByte (s : State) (v w : Bool) (a c : Nat) (b : Byte) :
    (s.putByte v a b).byte w c = if w = v ∧ c = a then b else s.byte w c := by
  unfold State.putByte State.byte
  by_cases h : c = a
  · subst h; cases v <;> cases w <;> simp
  · have := fun (d : Byte) m => SMap.get_set_ne (unlisted v a) d m b (Ne.symm h)
    cases v <;> cases w <;> simp [h, this]

/-- A write keeps the canonical form. -/
theorem memory_wf_set {v : Bool} {m : Memory} (h : Memory.wf v m = true) (a : Nat) (b : Byte) :
    Memory.wf v (SMap.set (unlisted v a) m a b) = true := by
  simp only [Memory.wf, Bool.and_eq_true, List.all_eq_true, decide_eq_true_eq] at h ⊢
  unfold SMap.set
  split
  · exact ⟨SMap.sortedFrom_erase m a h.1, fun kv hk => h.2 kv (SMap.mem_erase hk)⟩
  · refine ⟨SMap.sortedFrom_insert m a b h.1 (Nat.zero_le _), fun kv hk => ?_⟩
    rcases SMap.mem_insert hk with rfl | hk
    · assumption
    · exact h.2 kv hk

/-- Leaving entries out keeps the canonical form. -/
theorem memory_wf_filter {v : Bool} {m : Memory} (h : Memory.wf v m = true) (p : Nat × Byte → Bool) :
    Memory.wf v (m.filter p) = true := by
  simp only [Memory.wf, Bool.and_eq_true, List.all_eq_true, decide_eq_true_eq] at h ⊢
  exact ⟨SMap.sortedFrom_filter m p h.1, fun kv hk => h.2 kv (List.mem_filter.1 hk).1⟩

theorem memOk_putByte {s : State} (h : MemOk s) (v : Bool) (a : Nat) (b : Byte) : MemOk (s.putByte v a b) := by
  unfold State.putByte
  cases v
  · exact ⟨memory_wf_set h.1 a b, h.2⟩
  · exact ⟨h.1, memory_wf_set h.2 a b⟩

theorem memOk_putBytes (v : Bool) (bs : List Byte) : ∀ {s : State}, MemOk s → ∀ a, MemOk (s.putBytes v a bs) := by
  induction bs with
  | nil => intro s h a; exact h
  | cons b bs ih => intro s h a; exact ih (memOk_putByte h v a b) (a + 1)

/-- The bytes after a run of bytes has been written. -/
theorem byte_putBytes (v w : Bool) (bs : List Byte) : ∀ (s : State) (a c : Nat),
    (s.putBytes v a bs).byte w c = if w = v ∧ a ≤ c ∧ c < a + bs.length then bs.getD (c - a) 0 else s.byte w c := by
  induction bs with
  | nil => intro s a c; exact (if_neg fun h => absurd h.2 (by simp only [List.length_nil]; omega)).symm
  | cons b bs ih =>
    intro s a c
    simp only [State.putBytes, ih, byte_putByte, List.length_cons]
    by_cases hw : w = v
    · subst hw
      by_cases h1 : c = a
      · subst h1
        rw [if_neg fun h => absurd h.2.1 (by omega), if_pos ⟨rfl, rfl⟩, if_pos ⟨rfl, by omega, by omega⟩, Nat.sub_self]
        rfl
      · by_cases h2 : a + 1 ≤ c ∧ c < a + 1 + bs.length
        · have e : c - a = c - (a + 1) + 1 := by omega
          rw [if_pos ⟨rfl, h2⟩, if_pos ⟨rfl, by omega, by omega⟩, e]
          rfl
        · rw [if_neg fun h => h2 h.2, if_neg fun h => h1 h.2, if_neg fun h => absurd h.2 (by omega)]
    · rw [if_neg fun h => hw h.1, if_neg fun h => hw h.1, if_neg fun h => hw h.1]

/-! ## Lines -/

theorem memOk_putSealed {s : State} (h : MemOk s) (l dom : Nat) (p : List Byte) : MemOk (s.putSealed l dom p) := by
  unfold State.putSealed
  dsimp only
  generalize sealLine (s.keyDom dom) (s.fullPa l) p = c
  have k := memOk_putBytes false c.1 h l
  generalize s.putBytes false l c.1 = t at k
  exact memOk_congr (s := t) rfl rfl k

/-- Ending reservations leaves the memories. -/
theorem memOk_breakLine {s : State} (h : MemOk s) (v : Bool) (l : Nat) : MemOk (s.breakLine v l) := by
  unfold State.breakLine
  split
  · exact h
  · exact memOk_congr (s := s) rfl rfl h

theorem memOk_putStored {s : State} (h : MemOk s) (l dom tag : Nat) (ct : List Byte) : MemOk (s.putStored l dom tag ct) := by
  unfold State.putStored
  dsimp only
  have k := memOk_putBytes false ct (memOk_breakLine h false l) l
  generalize (s.breakLine false l).putBytes false l ct = t at k
  exact memOk_congr (s := t) rfl rfl k

theorem memOk_writeLine {s t : State} (h : MemOk s) {v : Bool} {l o : Nat} {d : List Byte}
    (e : s.writeLine v l o d = some t) : MemOk t := by
  unfold State.writeLine at e
  dsimp only at e
  replace h := memOk_breakLine h v l
  generalize s.breakLine v l = s at e h
  have k := memOk_putBytes v d h
  split at e
  · injection e with e; subst e
    split
    · exact memOk_congr (s := s.putBytes v l d) rfl rfl (k l)
    · exact memOk_congr (s := s.putBytes v l d) rfl rfl (k l)
  · split at e
    · split at e
      · cases e
      · injection e with e; subst e; exact memOk_putSealed h _ _ _
    · injection e with e; subst e; exact k _

theorem memOk_writeLines (v : Bool) (n : Nat) : ∀ {s t : State}, MemOk s → ∀ {a : Nat} {d : List Byte},
    s.writeLines v n a d = some t → MemOk t := by
  induction n with
  | zero => intro s t h a d e; unfold State.writeLines at e; injection e with e; subst e; exact h
  | succ n ih =>
    intro s t h a d e
    cases d with
    | nil => unfold State.writeLines at e; injection e with e; subst e; exact h
    | cons b bs =>
      unfold State.writeLines at e
      simp only at e
      split at e
      · cases e
      · next w hw => exact ih (memOk_writeLine h hw) e

theorem memOk_write {s t : State} (h : MemOk s) {v : Bool} {a : Nat} {d : List Byte} (e : s.write v a d = some t) : MemOk t :=
  memOk_writeLines v _ h e

theorem memOk_getD {s : State} (h : MemOk s) (v : Bool) (a : Nat) (d : List Byte) : MemOk ((s.write v a d).getD s) := by
  cases e : s.write v a d with
  | none => exact h
  | some t => exact memOk_write h e

theorem memOk_hubWrite {s : State} (h : MemOk s) (a : Nat) (d : List Byte) : MemOk (s.hubWrite a d) := memOk_getD h false a d

theorem memOk_putLine {s : State} (h : MemOk s) (a v : Nat) : MemOk (s.putLine a v) := memOk_hubWrite h a _

/-! ## Clearing -/

theorem memOk_clearVault {s : State} (h : MemOk s) (a n : Nat) : MemOk (s.clearVault a n) := ⟨h.1, memory_wf_filter h.2 _⟩

theorem memOk_clearPanel {s : State} (h : MemOk s) (p : Nat) : MemOk (s.clearPanel p) := ⟨h.1, memory_wf_filter h.2 _⟩

end Sys2Proof.Machine
end

