-- ==== Sys2Proof/Laws/PerInstr.lean ====
section
/-! SUPPORT. Statements made of every instruction, one lemma per constructor. -/

namespace Sys2Proof.Laws.OneWord

/-- An instruction has at most one word: none is both a text word and an element move (R144, R153). -/
def Statement (i : Instr) : Prop := encodeText i = none ∨ encodeMove i = none

theorem sAdd (t d a b) : Statement (.sAdd t d a b) := .inr rfl
theorem sSub (t d a b) : Statement (.sSub t d a b) := .inr rfl
theorem sAnd (t d a b) : Statement (.sAnd t d a b) := .inr rfl
theorem sOr (t d a b) : Statement (.sOr t d a b) := .inr rfl
theorem sXor (t d a b) : Statement (.sXor t d a b) := .inr rfl
theorem sAndn (t d a b) : Statement (.sAndn t d a b) := .inr rfl
theorem sSll (t d a b) : Statement (.sSll t d a b) := .inr rfl
theorem sSrl (t d a b) : Statement (.sSrl t d a b) := .inr rfl
theorem sSra (t d a b) : Statement (.sSra t d a b) := .inr rfl
theorem sMul (t d a b) : Statement (.sMul t d a b) := .inr rfl
theorem sMulh (t d a b) : Statement (.sMulh t d a b) := .inr rfl
theorem sMulhu (t d a b) : Statement (.sMulhu t d a b) := .inr rfl
theorem sDiv (t d a b) : Statement (.sDiv t d a b) := .inr rfl
theorem sDivu (t d a b) : Statement (.sDivu t d a b) := .inr rfl
theorem sRem (t d a b) : Statement (.sRem t d a b) := .inr rfl
theorem sRemu (t d a b) : Statement (.sRemu t d a b) := .inr rfl
theorem sMin (t d a b) : Statement (.sMin t d a b) := .inr rfl
theorem sMax (t d a b) : Statement (.sMax t d a b) := .inr rfl
theorem sMinu (t d a b) : Statement (.sMinu t d a b) := .inr rfl
theorem sMaxu (t d a b) : Statement (.sMaxu t d a b) := .inr rfl
theorem sSlt (t d a b) : Statement (.sSlt t d a b) := .inr rfl
theorem sSltu (t d a b) : Statement (.sSltu t d a b) := .inr rfl
theorem sSeq (t d a b) : Statement (.sSeq t d a b) := .inr rfl
theorem sSne (t d a b) : Statement (.sSne t d a b) := .inr rfl
theorem sClz (t d a) : Statement (.sClz t d a) := .inr rfl
theorem sCtz (t d a) : Statement (.sCtz t d a) := .inr rfl
theorem sPopc (t d a) : Statement (.sPopc t d a) := .inr rfl
theorem sSextB (t d a) : Statement (.sSextB t d a) := .inr rfl
theorem sSextH (t d a) : Statement (.sSextH t d a) := .inr rfl
theorem sSextW (t d a) : Statement (.sSextW t d a) := .inr rfl
theorem sZextW (t d a) : Statement (.sZextW t d a) := .inr rfl
theorem sAddi (t d a i) : Statement (.sAddi t d a i) := .inr rfl
theorem sAndi (t d a i) : Statement (.sAndi t d a i) := .inr rfl
theorem sOri (t d a i) : Statement (.sOri t d a i) := .inr rfl
theorem sXori (t d a i) : Statement (.sXori t d a i) := .inr rfl
theorem sSlti (t d a i) : Statement (.sSlti t d a i) := .inr rfl
theorem sSltiu (t d a i) : Statement (.sSltiu t d a i) := .inr rfl
theorem sSlli (t d a h) : Statement (.sSlli t d a h) := .inr rfl
theorem sSrli (t d a h) : Statement (.sSrli t d a h) := .inr rfl
theorem sSrai (t d a h) : Statement (.sSrai t d a h) := .inr rfl
theorem sLui (t d i) : Statement (.sLui t d i) := .inr rfl
theorem sSwz (t d a m) : Statement (.sSwz t d a m) := .inr rfl
theorem sBfx (t d a p w) : Statement (.sBfx t d a p w) := .inr rfl
theorem sBfi (t d a p w) : Statement (.sBfi t d a p w) := .inr rfl
theorem sMadd (t d a b) : Statement (.sMadd t d a b) := .inr rfl
theorem sImx (i) : Statement (.sImx i) := .inr rfl
theorem sSem (o s w k) : Statement (.sSem o s w k) := .inr rfl
theorem sLdB (t d a w k) : Statement (.sLdB t d a w k) := .inr rfl
theorem sLdH (t d a w k) : Statement (.sLdH t d a w k) := .inr rfl
theorem sLdW (t d a w k) : Statement (.sLdW t d a w k) := .inr rfl
theorem sLdD (t d a w k) : Statement (.sLdD t d a w k) := .inr rfl
theorem sLdBu (t d a w k) : Statement (.sLdBu t d a w k) := .inr rfl
theorem sLdHu (t d a w k) : Statement (.sLdHu t d a w k) := .inr rfl
theorem sLdWu (t d a w k) : Statement (.sLdWu t d a w k) := .inr rfl
theorem sStB (t d a w k) : Statement (.sStB t d a w k) := .inr rfl
theorem sStH (t d a w k) : Statement (.sStH t d a w k) := .inr rfl
theorem sStW (t d a w k) : Statement (.sStW t d a w k) := .inr rfl
theorem sStD (t d a w k) : Statement (.sStD t d a w k) := .inr rfl
theorem sQld (t q a b) : Statement (.sQld t q a b) := .inr rfl
theorem sQld1 (t q a b) : Statement (.sQld1 t q a b) := .inr rfl
theorem sQlds (t q a b) : Statement (.sQlds t q a b) := .inr rfl
theorem sQst (t q a b) : Statement (.sQst t q a b) := .inr rfl
theorem sQst1 (t q a b) : Statement (.sQst1 t q a b) := .inr rfl
theorem sQpop (t q a b) : Statement (.sQpop t q a b) := .inr rfl
theorem sQpeek (t q a b) : Statement (.sQpeek t q a b) := .inr rfl
theorem sQpsh (t q a) : Statement (.sQpsh t q a) := .inr rfl
theorem sQcnt (t q a c) : Statement (.sQcnt t q a c) := .inr rfl
theorem sQdisc (t q a c) : Statement (.sQdisc t q a c) := .inr rfl
theorem sQhem (t q l) : Statement (.sQhem t q l) := .inr rfl
theorem sVld (t d a b) : Statement (.sVld t d a b) := .inr rfl
theorem sVst (t d a b) : Statement (.sVst t d a b) := .inr rfl
theorem sVrc (t a b) : Statement (.sVrc t a b) := .inr rfl
theorem sAmoAdd (t d a b w) : Statement (.sAmoAdd t d a b w) := .inr rfl
theorem sAmoAnd (t d a b w) : Statement (.sAmoAnd t d a b w) := .inr rfl
theorem sAmoOr (t d a b w) : Statement (.sAmoOr t d a b w) := .inr rfl
theorem sAmoXor (t d a b w) : Statement (.sAmoXor t d a b w) := .inr rfl
theorem sAmoMin (t d a b w) : Statement (.sAmoMin t d a b w) := .inr rfl
theorem sAmoMax (t d a b w) : Statement (.sAmoMax t d a b w) := .inr rfl
theorem sAmoMinu (t d a b w) : Statement (.sAmoMinu t d a b w) := .inr rfl
theorem sAmoMaxu (t d a b w) : Statement (.sAmoMaxu t d a b w) := .inr rfl
theorem sAmoSwap (t d a b w) : Statement (.sAmoSwap t d a b w) := .inr rfl
theorem sAmoFadd (t d a b w) : Statement (.sAmoFadd t d a b w) := .inr rfl
theorem sCas (t d a b w) : Statement (.sCas t d a b w) := .inr rfl
theorem sFence (t o s) : Statement (.sFence t o s) := .inr rfl
theorem sKwait (t k) : Statement (.sKwait t k) := .inr rfl
theorem sKclr (t k) : Statement (.sKclr t k) := .inr rfl
theorem sRinv (t d a b i) : Statement (.sRinv t d a b i) := .inr rfl
theorem sB (t f d) : Statement (.sB t f d) := .inr rfl
theorem sBeqz (t f a d) : Statement (.sBeqz t f a d) := .inr rfl
theorem sBnez (t f a d) : Statement (.sBnez t f a d) := .inr rfl
theorem sBltz (t f a d) : Statement (.sBltz t f a d) := .inr rfl
theorem sBgez (t f a d) : Statement (.sBgez t f a d) := .inr rfl
theorem sBgtz (t f a d) : Statement (.sBgtz t f a d) := .inr rfl
theorem sBlez (t f a d) : Statement (.sBlez t f a d) := .inr rfl
theorem sBqb (t f a d) : Statement (.sBqb t f a d) := .inr rfl
theorem sBqbEqz (t f a d) : Statement (.sBqbEqz t f a d) := .inr rfl
theorem sBqbNez (t f a d) : Statement (.sBqbNez t f a d) := .inr rfl
theorem sBqbLtz (t f a d) : Statement (.sBqbLtz t f a d) := .inr rfl
theorem sBqbGez (t f a d) : Statement (.sBqbGez t f a d) := .inr rfl
theorem sBqbGtz (t f a d) : Statement (.sBqbGtz t f a d) := .inr rfl
theorem sBqbLez (t f a d) : Statement (.sBqbLez t f a d) := .inr rfl
theorem sJal (t d i) : Statement (.sJal t d i) := .inr rfl
theorem sJalr (t d a i) : Statement (.sJalr t d a i) := .inr rfl
theorem sSdw (t s f a) : Statement (.sSdw t s f a) := .inr rfl
theorem sMtw (t l f a) : Statement (.sMtw t l f a) := .inr rfl
theorem sInj (t a x y p) : Statement (.sInj t a x y p) := .inr rfl
theorem sEcall (t) : Statement (.sEcall t) := .inr rfl
theorem sEret (t) : Statement (.sEret t) := .inr rfl
theorem sPark (t) : Statement (.sPark t) := .inr rfl
theorem sYield (t) : Statement (.sYield t) := .inr rfl
theorem sBreak (t) : Statement (.sBreak t) := .inr rfl
theorem sEnd (t) : Statement (.sEnd t) := .inr rfl
theorem sNop (t) : Statement (.sNop t) := .inr rfl
theorem sMvfs (t d r) : Statement (.sMvfs t d r) := .inr rfl
theorem sMvts (t a r) : Statement (.sMvts t a r) := .inr rfl
theorem sBarInit (t a b) : Statement (.sBarInit t a b) := .inr rfl
theorem sBarArv (t d a) : Statement (.sBarArv t d a) := .inr rfl
theorem sBarWait (t a b) : Statement (.sBarWait t a b) := .inr rfl
theorem sBarAddb (t a b) : Statement (.sBarAddb t a b) := .inr rfl
theorem sLnch (t d a b) : Statement (.sLnch t d a b) := .inr rfl
theorem sWfn (t d a b) : Statement (.sWfn t d a b) := .inr rfl
theorem sNsig (t a b) : Statement (.sNsig t a b) := .inr rfl
theorem sNclr (t a b) : Statement (.sNclr t a b) := .inr rfl
theorem sPcut (t a) : Statement (.sPcut t a) := .inr rfl
theorem sPjoin (t a) : Statement (.sPjoin t a) := .inr rfl
theorem sPqry (t d) : Statement (.sPqry t d) := .inr rfl
theorem sTlbiVa (t a b) : Statement (.sTlbiVa t a b) := .inr rfl
theorem sTlbiAsid (t b) : Statement (.sTlbiAsid t b) := .inr rfl
theorem sTlbiAll (t) : Statement (.sTlbiAll t) := .inr rfl
theorem sTurn (t d a) : Statement (.sTurn t d a) := .inr rfl
theorem sCnt (t a b) : Statement (.sCnt t a b) := .inr rfl
theorem cGo (t s) : Statement (.cGo t s) := .inr rfl
theorem cStop (t s) : Statement (.cStop t s) := .inr rfl
theorem cWait (t s) : Statement (.cWait t s) := .inr rfl
theorem cWaitAll (t) : Statement (.cWaitAll t) := .inr rfl
theorem cAdv (t s n) : Statement (.cAdv t s n) := .inr rfl
theorem cBar (t s) : Statement (.cBar t s) := .inr rfl
theorem cJrnl (t s) : Statement (.cJrnl t s) := .inr rfl
theorem cFlush (t s) : Statement (.cFlush t s) := .inr rfl
theorem cLnk (t l q) : Statement (.cLnk t l q) := .inr rfl
theorem cFence (t s) : Statement (.cFence t s) := .inr rfl
theorem cPri (t s p) : Statement (.cPri t s p) := .inr rfl
theorem cRep (t l c) : Statement (.cRep t l c) := .inr rfl
theorem mGo (t l r) : Statement (.mGo t l r) := .inr rfl
theorem mWait (t) : Statement (.mWait t) := .inr rfl
theorem mLdb (t k) : Statement (.mLdb t k) := .inr rfl
theorem mSwb (t) : Statement (.mSwb t) := .inr rfl
theorem mMma (t n r) : Statement (.mMma t n r) := .inr rfl
theorem mDrn (t n r) : Statement (.mDrn t n r) := .inr rfl
theorem mZero (t n r) : Statement (.mZero t n r) := .inr rfl
theorem mFmt (t f b a) : Statement (.mFmt t f b a) := .inr rfl
theorem mScl (t s) : Statement (.mScl t s) := .inr rfl
theorem mSclOne (t) : Statement (.mSclOne t) := .inr rfl
theorem mBind (t r o s) : Statement (.mBind t r o s) := .inr rfl
theorem mBindMem (t d) : Statement (.mBindMem t d) := .inr rfl
theorem mUnbind (t r o) : Statement (.mUnbind t r o) := .inr rfl
theorem mKeep (t n f) : Statement (.mKeep t n f) := .inr rfl
theorem mKeepRelease (t n f) : Statement (.mKeepRelease t n f) := .inr rfl
theorem mToil (t) : Statement (.mToil t) := .inr rfl
theorem mRep (t l c) : Statement (.mRep t l c) := .inr rfl
theorem fCfgl (t o) : Statement (.fCfgl t o) := .inr rfl
theorem fTurn (t) : Statement (.fTurn t) := .inr rfl
theorem fTurnNow (t) : Statement (.fTurnNow t) := .inr rfl
theorem fKset (t e) : Statement (.fKset t e) := .inr rfl
theorem fHem (t n l e) : Statement (.fHem t n l e) := .inr rfl
theorem fArm (t) : Statement (.fArm t) := .inr rfl
theorem fStop (t) : Statement (.fStop t) := .inr rfl
theorem fWdr (t) : Statement (.fWdr t) := .inr rfl
theorem fSink (t y x n) : Statement (.fSink t y x n) := .inr rfl
theorem fSinkClr (t n) : Statement (.fSinkClr t n) := .inr rfl
theorem fTag (t w f) : Statement (.fTag t w f) := .inr rfl
theorem fTagClr (t) : Statement (.fTagClr t) := .inr rfl
theorem fTagSetClr (t w f) : Statement (.fTagSetClr t w f) := .inr rfl
theorem fPleat (t p y x) : Statement (.fPleat t p y x) := .inr rfl
theorem move (g s d l t) : Statement (.move g s d l t) := .inl rfl
theorem isect (s p) : Statement (.isect s p) := .inl rfl
theorem add (g s l t i) : Statement (.add g s l t i) := .inl rfl
theorem sub (g s l t i) : Statement (.sub g s l t i) := .inl rfl
theorem and (g s l t i) : Statement (.and g s l t i) := .inl rfl
theorem or (g s l t i) : Statement (.or g s l t i) := .inl rfl
theorem xor (g s l t i) : Statement (.xor g s l t i) := .inl rfl
theorem shl (g s l t i) : Statement (.shl g s l t i) := .inl rfl
theorem shr (g s l t i) : Statement (.shr g s l t i) := .inl rfl
theorem sar (g s l t i) : Statement (.sar g s l t i) := .inl rfl
theorem min (g s l t i) : Statement (.min g s l t i) := .inl rfl
theorem max (g s l t i) : Statement (.max g s l t i) := .inl rfl
theorem ceq (g s l t i) : Statement (.ceq g s l t i) := .inl rfl
theorem clt (g s l t i) : Statement (.clt g s l t i) := .inl rfl
theorem cle (g s l t i) : Statement (.cle g s l t i) := .inl rfl
theorem adds (g s l t i) : Statement (.adds g s l t i) := .inl rfl
theorem subs (g s l t i) : Statement (.subs g s l t i) := .inl rfl
theorem mulsr (g s l t k r) : Statement (.mulsr g s l t k r) := .inl rfl
theorem sel (g s l t) : Statement (.sel g s l t) := .inl rfl
theorem abs (g s l t) : Statement (.abs g s l t) := .inl rfl
theorem neg (g s l t) : Statement (.neg g s l t) := .inl rfl
theorem cvtIf (g s l t) : Statement (.cvtIf g s l t) := .inl rfl
theorem cvtFi (g s l t) : Statement (.cvtFi g s l t) := .inl rfl
theorem pass (g s l t) : Statement (.pass g s l t) := .inl rfl
theorem fadd (g s l t i) : Statement (.fadd g s l t i) := .inl rfl
theorem fsub (g s l t i) : Statement (.fsub g s l t i) := .inl rfl
theorem fmul (g s l t i) : Statement (.fmul g s l t i) := .inl rfl
theorem fma (g s l t) : Statement (.fma g s l t) := .inl rfl
theorem fnma (g s l t) : Statement (.fnma g s l t) := .inl rfl
theorem fmin (g s l t i) : Statement (.fmin g s l t i) := .inl rfl
theorem fmax (g s l t i) : Statement (.fmax g s l t i) := .inl rfl
theorem fclip (g s l t h lo) : Statement (.fclip g s l t h lo) := .inl rfl
theorem fclt (g s l t i) : Statement (.fclt g s l t i) := .inl rfl
theorem fcle (g s l t i) : Statement (.fcle g s l t i) := .inl rfl
theorem fceq (g s l t i) : Statement (.fceq g s l t i) := .inl rfl
theorem exp2 (g s l t) : Statement (.exp2 g s l t) := .inl rfl
theorem log2 (g s l t) : Statement (.log2 g s l t) := .inl rfl
theorem rcp (g s l t) : Statement (.rcp g s l t) := .inl rfl
theorem rsqrt (g s l t) : Statement (.rsqrt g s l t) := .inl rfl
theorem sqrt (g s l t) : Statement (.sqrt g s l t) := .inl rfl
theorem tanh (g s l t) : Statement (.tanh g s l t) := .inl rfl
theorem sigm (g s l t) : Statement (.sigm g s l t) := .inl rfl
theorem lsum (g s l t f) : Statement (.lsum g s l t f) := .inl rfl
theorem lmax (g s l t f) : Statement (.lmax g s l t f) := .inl rfl
theorem lmin (g s l t f) : Statement (.lmin g s l t f) := .inl rfl
theorem cnt (g s l t) : Statement (.cnt g s l t) := .inl rfl
theorem acc (g s l t f) : Statement (.acc g s l t f) := .inl rfl
theorem accm (g s l t f) : Statement (.accm g s l t f) := .inl rfl
theorem scan (g s l t f) : Statement (.scan g s l t f) := .inl rfl
theorem pack (g s l t z c) : Statement (.pack g s l t z c) := .inl rfl
theorem unpk (g s l t) : Statement (.unpk g s l t) := .inl rfl
theorem reord (g s l t k) : Statement (.reord g s l t k) := .inl rfl
theorem merge2 (g s l t) : Statement (.merge2 g s l t) := .inl rfl
theorem union (g s l t) : Statement (.union g s l t) := .inl rfl
theorem steer (g s l t) : Statement (.steer g s l t) := .inl rfl
theorem mrg (g s l t) : Statement (.mrg g s l t) := .inl rfl
theorem dup (g s l t) : Statement (.dup g s l t) := .inl rfl
theorem topk (g s l t k) : Statement (.topk g s l t k) := .inl rfl
theorem spa (g s l t) : Statement (.spa g s l t) := .inl rfl
theorem tile (g s l t x) : Statement (.tile g s l t x) := .inl rfl
theorem swst (g s l t) : Statement (.swst g s l t) := .inl rfl
theorem gthr (g s l t) : Statement (.gthr g s l t) := .inl rfl
theorem sctr (g s l t o) : Statement (.sctr g s l t o) := .inl rfl
theorem rmw (g s l t o) : Statement (.rmw g s l t o) := .inl rfl
theorem queueLoadDeliver (p id) : Statement (.queueLoadDeliver p id) := .inl rfl
theorem loadDataReturn (p id fwd) : Statement (.loadDataReturn p id fwd) := .inl rfl
theorem controlTokenArrive (p) : Statement (.controlTokenArrive p) := .inl rfl
theorem hubTurn (n) : Statement (.hubTurn n) := .inl rfl
theorem streamTransfer (p k) : Statement (.streamTransfer p k) := .inl rfl
theorem streamEnd (p k) : Statement (.streamEnd p k) := .inl rfl
theorem scatterUpdate (id) : Statement (.scatterUpdate id) := .inl rfl
theorem barrierEventApply (id) : Statement (.barrierEventApply id) := .inl rfl
theorem nestPass (p) : Statement (.nestPass p) := .inl rfl
theorem drainTokenPush (p) : Statement (.drainTokenPush p) := .inl rfl
theorem operationResult (p e u) : Statement (.operationResult p e u) := .inl rfl
theorem tokenLinkHop (p e d) : Statement (.tokenLinkHop p e d) := .inl rfl
theorem edgePortTransfer (p port) : Statement (.edgePortTransfer p port) := .inl rfl
theorem elementTurn (p e) : Statement (.elementTurn p e) := .inl rfl
theorem ksetHandle (p e d) : Statement (.ksetHandle p e d) := .inl rfl
theorem elementClockGate (p e) : Statement (.elementClockGate p e) := .inl rfl
theorem elementPowerGate (p e) : Statement (.elementPowerGate p e) := .inl rfl
theorem elementWake (p e) : Statement (.elementWake p e) := .inl rfl
theorem watchdog (p) : Statement (.watchdog p) := .inl rfl
theorem trapDelivery (p) : Statement (.trapDelivery p) := .inl rfl
theorem taskEnd (p) : Statement (.taskEnd p) := .inl rfl
theorem lqtailWrite (ag n v) : Statement (.lqtailWrite ag n v) := .inl rfl
theorem launchRecordRead (n) : Statement (.launchRecordRead n) := .inl rfl
theorem launchWaitMet (l) : Statement (.launchWaitMet l) := .inl rfl
theorem agingStep (l) : Statement (.agingStep l) := .inl rfl
theorem pieceReserve (l) : Statement (.pieceReserve l) := .inl rfl
theorem pieceGrant (l) : Statement (.pieceGrant l) := .inl rfl
theorem switchOut (p) : Statement (.switchOut p) := .inl rfl
theorem sequenceResume (l) : Statement (.sequenceResume l) := .inl rfl
theorem launchDone (l) : Statement (.launchDone l) := .inl rfl
theorem notifyWriteReplace (ag n v) : Statement (.notifyWriteReplace ag n v) := .inl rfl
theorem notifyWriteOr (ag n v) : Statement (.notifyWriteOr ag n v) := .inl rfl
theorem notifyWriteAdd (ag n v) : Statement (.notifyWriteAdd ag n v) := .inl rfl
theorem subgraphLoad (ag v) : Statement (.subgraphLoad ag v) := .inl rfl
theorem subgraphUnload (ag v) : Statement (.subgraphUnload ag v) := .inl rfl
theorem subgraphLoadDone : Statement .subgraphLoadDone := .inl rfl
theorem remoteSubgraphFire (id) : Statement (.remoteSubgraphFire id) := .inl rfl
theorem moveHold (ag i) : Statement (.moveHold ag i) := .inl rfl
theorem moveForward (ag i) : Statement (.moveForward ag i) := .inl rfl
theorem moveEnd (ag i) : Statement (.moveEnd ag i) := .inl rfl
theorem moveHoldExpire (id) : Statement (.moveHoldExpire id) := .inl rfl
theorem keyLoad (ag v) : Statement (.keyLoad ag v) := .inl rfl
theorem keyRevoke (ag v) : Statement (.keyRevoke ag v) := .inl rfl
theorem keyRequestComplete (ok) : Statement (.keyRequestComplete ok) := .inl rfl
theorem debugNonceRead (ag) : Statement (.debugNonceRead ag) := .inl rfl
theorem debugRequest (ag v) : Statement (.debugRequest ag v) := .inl rfl
theorem debugHalt (p) : Statement (.debugHalt p) := .inl rfl
theorem attestRequest (ag v) : Statement (.attestRequest ag v) := .inl rfl
theorem lifecycleTransition (lc signed) : Statement (.lifecycleTransition lc signed) := .inl rfl
theorem measurementExtend (i digest) : Statement (.measurementExtend i digest) := .inl rfl
theorem pwrEnterRetain (ag) : Statement (.pwrEnterRetain ag) := .inl rfl
theorem pwrEnterDown (ag) : Statement (.pwrEnterDown ag) := .inl rfl
theorem pwrWake (ag) : Statement (.pwrWake ag) := .inl rfl
theorem wakeRemeasure (ok lost dMgmt dSide dBank) : Statement (.wakeRemeasure ok lost dMgmt dSide dBank) := .inl rfl
theorem powerGood : Statement .powerGood := .inl rfl
theorem powerRemoved : Statement .powerRemoved := .inl rfl
theorem managementFirmwareVerify (ok digest) : Statement (.managementFirmwareVerify ok digest) := .inl rfl
theorem bastingStart (fwOk lpOk p0Ok lpcap dSide dBank) : Statement (.bastingStart fwOk lpOk p0Ok lpcap dSide dBank) := .inl rfl
theorem fullServiceStart (stk panels lanes) : Statement (.fullServiceStart stk panels lanes) := .inl rfl
theorem blockCadenceHalve (b) : Statement (.blockCadenceHalve b) := .inl rfl
theorem blockCadenceRestore (b) : Statement (.blockCadenceRestore b) := .inl rfl
theorem blockPowerGate (b) : Statement (.blockPowerGate b) := .inl rfl
theorem errtailWrite (ag v) : Statement (.errtailWrite ag v) := .inl rfl
theorem registerWrite (ag off v) : Statement (.registerWrite ag off v) := .inl rfl
theorem hostMemoryRead (f addr n) : Statement (.hostMemoryRead f addr n) := .inl rfl
theorem hostMemoryWrite (f addr bytes) : Statement (.hostMemoryWrite f addr bytes) := .inl rfl
theorem sidecarMemoryAccess (core wr addr n v) : Statement (.sidecarMemoryAccess core wr addr n v) := .inl rfl
theorem pairClaim (l i) : Statement (.pairClaim l i) := .inl rfl
theorem bindFlitReceive (pair pkg bindid dom what) : Statement (.bindFlitReceive pair pkg bindid dom what) := .inl rfl
theorem bindingTimeout (l) : Statement (.bindingTimeout l) := .inl rfl
theorem pairRelease (pair) : Statement (.pairRelease pair) := .inl rfl
theorem linkTokenSend (k) : Statement (.linkTokenSend k) := .inl rfl
theorem flitReceive (g payload trailer) : Statement (.flitReceive g payload trailer) := .inl rfl
theorem replayTimeout (g) : Statement (.replayTimeout g) := .inl rfl
theorem groupRetrainComplete (g failed) : Statement (.groupRetrainComplete g failed) := .inl rfl
theorem laneLost (port lane) : Statement (.laneLost port lane) := .inl rfl
theorem laneTurnaroundComplete (port lane ok) : Statement (.laneTurnaroundComplete port lane ok) := .inl rfl
theorem streamFrameReceive (pair) : Statement (.streamFrameReceive pair) := .inl rfl
theorem dieToDieTokenArrive (k) : Statement (.dieToDieTokenArrive k) := .inl rfl
theorem remoteStoreLine (pair) : Statement (.remoteStoreLine pair) := .inl rfl
theorem remoteStorePartial (pair) : Statement (.remoteStorePartial pair) := .inl rfl
theorem remoteLoad (pair) : Statement (.remoteLoad pair) := .inl rfl
theorem remoteInvoke (pair) : Statement (.remoteInvoke pair) := .inl rfl
theorem loadReply (pair) : Statement (.loadReply pair) := .inl rfl
theorem storeAcknowledgement (pair) : Statement (.storeAcknowledgement pair) := .inl rfl
theorem invokeResult (pair) : Statement (.invokeResult pair) := .inl rfl
theorem remoteReplyTimeout (id) : Statement (.remoteReplyTimeout id) := .inl rfl
theorem memoryWritePerform (id scope) : Statement (.memoryWritePerform id scope) := .inl rfl
theorem blockLockLoss (port lane) : Statement (.blockLockLoss port lane) := .inl rfl
theorem blockLockRegain (port lane) : Statement (.blockLockRegain port lane) := .inl rfl
theorem idleFlit (g) : Statement (.idleFlit g) := .inl rfl
theorem blockWake (b) : Statement (.blockWake b) := .inl rfl
theorem powerStateEntryComplete : Statement .powerStateEntryComplete := .inl rfl
theorem debugVerificationComplete (ok) : Statement (.debugVerificationComplete ok) := .inl rfl
theorem debugStep (p resume) : Statement (.debugStep p resume) := .inl rfl
theorem attestationReportDone : Statement .attestationReportDone := .inl rfl

end Sys2Proof.Laws.OneWord
end

