-- ==== Sys2Proof/Laws/SWord.lean ====
section
/-! SUPPORT. Words of S whose only effect is on the S registers. -/

namespace Sys2Proof.Machine

/-- The part of a piece that issue and retirement leave alone, as far as S registers and prefixes go. -/
theorem Piece.begun_regs (p : Piece) (t : BitVec 4) :
    (p.begun 0 t).regs = p.regs ∧ (p.begun 0 t).pend = p.pend ∧ (p.begun 0 t).pois = p.pois
      ∧ (p.begun 0 t).pre = p.pre ∧ (p.begun 0 t).besidesWord = p.besidesWord := by
  obtain ⟨x, tk, c, m, hb, -⟩ := Piece.begun_form p 0 t (by omega)
  rw [hb]
  exact ⟨rfl, rfl, rfl, rfl, rfl⟩

@[simp] theorem Piece.begun_reg (p : Piece) (t : BitVec 4) (r : BitVec 5) : (p.begun 0 t).reg r = p.reg r := by
  simp only [Piece.reg, (Piece.begun_regs p t).1]

@[simp] theorem Piece.begun_busy (p : Piece) (t : BitVec 4) (r : BitVec 5) : (p.begun 0 t).busy r = p.busy r := by
  simp only [Piece.busy, (Piece.begun_regs p t).2.1]

@[simp] theorem Piece.begun_poisonOf (p : Piece) (t : BitVec 4) (r : BitVec 5) : (p.begun 0 t).poisonOf r = p.poisonOf r := by
  simp only [Piece.poisonOf, (Piece.begun_regs p t).2.2.1]

@[simp] theorem Piece.begun_hi20 (p : Piece) (t : BitVec 4) : (p.begun 0 t).hi20 = p.hi20 := by
  simp only [Piece.hi20, (Piece.begun_regs p t).2.2.2.1]

@[simp] theorem Piece.begun_simm (p : Piece) (t : BitVec 4) (i : BitVec 10) : (p.begun 0 t).simm i = p.simm i := by
  simp only [Piece.simm, Piece.begun_hi20]

@[simp] theorem Piece.begun_uimm (p : Piece) (t : BitVec 4) (i : BitVec 10) : (p.begun 0 t).uimm i = p.uimm i := by
  simp only [Piece.uimm, Piece.begun_hi20]

@[simp] theorem Piece.begun_fieldWidth (p : Piece) (t : BitVec 4) (w : BitVec 3) :
    (p.begun 0 t).fieldWidth w = p.fieldWidth w := by
  simp only [Piece.fieldWidth, Piece.begun_hi20]

/-- Registers that hold their values are read. -/
theorem Piece.readRegs_ready {p : Piece} {rs : List (BitVec 5)} (h : RegsReady p rs) : p.readRegs rs = .ready := by
  induction rs with
  | nil => rfl
  | cons r rs ih =>
    have h1 := h r List.mem_cons_self
    simp only [Piece.readRegs, h1.1, h1.2]
    exact ih fun x hx => h x (List.mem_cons_of_mem _ hx)

/-- Where an S word can run and its registers are ready, its effect is taken. -/
theorem State.runS_eq {s : State} {i : Instr} {t : BitVec 4} {acc : Nat} {chk : Piece → Option Nat}
    {rs : List (BitVec 5)} {body : State → Res} (h : CanRun s 0 t) (hp : s.piece.pre.fits acc = true)
    (hc : chk s.piece = none) (hr : RegsReady s.piece rs) :
    s.runS i t acc chk rs body = .next ((body (s.begun 0 t)).apply 0 t) := by
  have hrr : (s.piece.begun 0 t).readRegs rs = .ready :=
    Piece.readRegs_ready fun r hr' => by simpa using hr r hr'
  rw [State.runS, State.runWord_eq h (fun _ => hp) hc]
  simp only [State.withRegs, State.begun_piece, hrr]

/-- What writing a register does to a piece. -/
theorem Piece.setReg_form (p : Piece) (d : BitVec 5) (v : W64) :
    ∃ a b c, p.setReg d v = { p with regs := a, pend := b, pois := c }
      ∧ (∀ r, (p.setReg d v).reg r = if r = d ∧ d ≠ 0 then v else p.reg r)
      ∧ (∀ r, (p.setReg d v).busy r = if r = d then false else p.busy r)
      ∧ (∀ r, (p.setReg d v).poisonOf r = if r = d then none else p.poisonOf r) := by
  by_cases h0 : d = 0
  · subst h0
    refine ⟨p.regs, p.pend, p.pois, rfl, ?_, ?_, ?_⟩
    · intro r; simp; rfl
    · intro r
      by_cases hr : r = 0
      · subst hr; simp [Piece.busy]
      · simp only [hr, if_false]; rfl
    · intro r
      by_cases hr : r = 0
      · subst hr; simp [Piece.poisonOf]
      · simp only [hr, if_false]; rfl
  · have hn : d.toNat ≠ 0 := by
      intro h; apply h0; exact BitVec.eq_of_toNat_eq (by simpa using h)
    have hd : p.setReg d v = { p with regs := SMap.set 0 p.regs d.toNat v, pend := p.pend.erase d.toNat,
                                      pois := p.pois.erase d.toNat } := by
      simp only [Piece.setReg, Piece.setRegN, if_neg hn]
    have ht : ∀ r : BitVec 5, d.toNat = r.toNat ↔ r = d := fun r =>
      ⟨fun h => (BitVec.eq_of_toNat_eq h).symm, fun h => by rw [h]⟩
    refine ⟨_, _, _, hd, ?_, ?_, ?_⟩
    · intro r
      rw [hd]
      simp only [Piece.reg, SMap.get_set, ht]
      by_cases hr : r = d
      · subst hr; rw [if_neg h0, if_pos rfl, if_pos ⟨rfl, h0⟩]
      · simp [hr]
    · intro r
      rw [hd]
      simp only [Piece.busy, SMap.get_erase, ht]
      by_cases hr : r = d
      · subst hr; simp
      · simp [hr]
    · intro r
      rw [hd]
      simp only [Piece.poisonOf, SMap.get_erase, ht]
      by_cases hr : r = d
      · subst hr; simp
      · simp [hr]

/-- A tack given changes only the FIFOs and the mark that ends a park. -/
theorem Piece.give_form (p : Piece) (e : Nat) (t : BitVec 4) (c : List Dep) :
    ∃ tk pe, p.give e t c = { p with tacks := tk, parkEv := pe } := by
  unfold Piece.give
  split
  · exact ⟨_, _, rfl⟩
  · exact ⟨p.tacks, p.parkEv, rfl⟩

@[simp] theorem Piece.goOn_besidesWord (p : Piece) (e : Nat) (pc : W64) : (p.goOn e pc).besidesWord = p.besidesWord := by
  match e with
  | 0 | 1 | 2 | _ + 3 => rfl
@[simp] theorem Piece.setEng_besidesWord (p : Piece) (e : Nat) (x : EngSt) : (p.setEng e x).besidesWord = p.besidesWord := by
  match e with
  | 0 | 1 | 2 | _ + 3 => rfl
@[simp] theorem Piece.give_besidesWord (p : Piece) (e : Nat) (t : BitVec 4) (c : List Dep) :
    (p.give e t c).besidesWord = p.besidesWord := by
  unfold Piece.give; split <;> rfl
@[simp] theorem Piece.countWord_besidesWord (p : Piece) (e : Nat) : (p.countWord e).besidesWord = p.besidesWord := by
  obtain ⟨c, h⟩ := p.countWord_form e; rw [h]; rfl
theorem Piece.regs_of_besidesWord {p q : Piece} (h : p.besidesWord = q.besidesWord) :
    p.regs = q.regs ∧ p.pend = q.pend ∧ p.pois = q.pois :=
  ⟨(congrArg Piece.regs h : p.besidesWord.regs = q.besidesWord.regs),
    (congrArg Piece.pend h : p.besidesWord.pend = q.besidesWord.pend),
    (congrArg Piece.pois h : p.besidesWord.pois = q.besidesWord.pois)⟩

/-- Retirement of any engine leaves alone all that no word changes, where there is room for the tack. -/
theorem Piece.ended_besidesWord {p : Piece} {e : Nat} {t : BitVec 4}
    (hr : tackG t = false ∨ (p.tackQ e (tackP t)).length < 15) : (p.ended e t).besidesWord = p.besidesWord := by
  obtain ⟨r, h⟩ := Piece.advance_fst (p.countWord e) e
  have hr' : tackG t = false ∨ (((p.countWord e).advance e).1.tackQ e (tackP t)).length < 15 := by
    rw [h, Piece.setEng_tackQ, Piece.countWord_tackQ]; exact hr
  rw [Piece.ended, Piece.retire_eq hr', h, Piece.goOn_besidesWord, Piece.give_besidesWord, Piece.setEng_besidesWord,
    Piece.countWord_besidesWord]

/-- What retirement leaves alone, where there is room for the tack. -/
theorem Piece.ended_form {p : Piece} {t : BitVec 4} (hr : tackG t = false ∨ (p.tackQ 0 (tackP t)).length < 15) :
    (p.ended 0 t).regs = p.regs ∧ (p.ended 0 t).pend = p.pend ∧ (p.ended 0 t).pois = p.pois
      ∧ (p.ended 0 t).besidesWord = p.besidesWord := by
  have hw : (p.ended 0 t).besidesWord = p.besidesWord := Piece.ended_besidesWord hr
  exact ⟨(Piece.regs_of_besidesWord hw).1, (Piece.regs_of_besidesWord hw).2.1, (Piece.regs_of_besidesWord hw).2.2, hw⟩

/-- There is room for the tack after issue where there was before. -/
theorem CanRun.room_begun {s : State} {e : Nat} {t : BitVec 4} (h : CanRun s e t) (he : e < 4) :
    tackG t = false ∨ ((s.piece.begun e t).tackQ e (tackP t)).length < 15 := by
  rcases h.room with hg | hg
  · exact .inl hg
  · right
    obtain ⟨x, tk, c, m, hb, -, -, -, -, -, htk⟩ := Piece.begun_form s.piece e t he
    have : (s.piece.begun e t).tackQ e (tackP t) = SMap.get [] tk (4 * e + tackP t) := by
      rw [hb, Piece.setEng_tackQ]; rfl
    rw [this, htk]
    split
    · rw [List.length_tail]; omega
    · exact hg

/-- An S word whose only effect is to write a register. -/
theorem State.runAlu_next {s : State} {i : Instr} {t : BitVec 4} {acc : Nat} {chk : Piece → Option Nat}
    {rs : List (BitVec 5)} {d : BitVec 5} {f : State → W64} {v : W64} (h : CanRun s 0 t)
    (hp : s.piece.pre.fits acc = true) (hc : chk s.piece = none) (hr : RegsReady s.piece rs)
    (hv : f (s.begun 0 t) = v) :
    ∃ u, s.runS i t acc chk rs (fun s => .done (s.modPiece fun p => p.setReg d (f s))) = .next u ∧ WroteReg s u t d v := by
  rw [State.runS_eq h hp hc hr]
  refine ⟨_, rfl, ?_⟩
  rw [Res.apply_done, State.piece_modPiece, hv, State.begun, State.modPiece_setPiece, State.setPiece_setPiece,
    State.piece_setPiece]
  obtain ⟨ra, rb, rc, hset, h1, h2, h3⟩ := Piece.setReg_form (s.piece.begun 0 t) d v
  have hroom : tackG t = false ∨ (((s.piece.begun 0 t).setReg d v).tackQ 0 (tackP t)).length < 15 := by
    have : ((s.piece.begun 0 t).setReg d v).tackQ 0 (tackP t) = (s.piece.begun 0 t).tackQ 0 (tackP t) := by
      rw [hset]; rfl
    rw [this]; exact h.room_begun (by omega)
  obtain ⟨e1, e2, e3, e4⟩ := Piece.ended_form hroom
  have hreg : ∀ r, (((s.piece.begun 0 t).setReg d v).ended 0 t).reg r = ((s.piece.begun 0 t).setReg d v).reg r :=
    fun r => by simp only [Piece.reg, e1]
  have hbusy : ∀ r, (((s.piece.begun 0 t).setReg d v).ended 0 t).busy r = ((s.piece.begun 0 t).setReg d v).busy r :=
    fun r => by simp only [Piece.busy, e2]
  have hpois : ∀ r, (((s.piece.begun 0 t).setReg d v).ended 0 t).poisonOf r = ((s.piece.begun 0 t).setReg d v).poisonOf r :=
    fun r => by simp only [Piece.poisonOf, e3]
  refine ⟨?_, ?_, ?_, ?_, ?_, ?_, ?_⟩
  · exact WordDone.of_begun h (by omega) _ (State.piece_setPiece ..) (fun k _ => by rw [hset]; rfl) (by rw [hset])
  · simp only [OnlyPiece, State.piece_setPiece]; rfl
  · rw [State.piece_setPiece, hreg, h1]
    by_cases hd : d = 0
    · subst hd; rfl
    · rw [if_neg hd, if_pos ⟨rfl, hd⟩]
  · intro hd; rw [State.piece_setPiece, hbusy, hpois, h2, h3]; simp
  · intro r hne
    rw [State.piece_setPiece, hreg, hbusy, hpois, h1, h2, h3]
    simp [hne]
  · rw [State.piece_setPiece]
    have h5 := congrArg Piece.besidesRegs e4
    have h6 := congrArg Piece.besidesRegs (Piece.begun_regs s.piece t).2.2.2.2
    exact h5.trans ((show _ = (s.piece.begun 0 t).besidesWord.besidesRegs by rw [hset]; rfl).trans h6)
  · intro b a; rfl

end Sys2Proof.Machine
end

