-- ==== Sys2Proof/Laws/Ran.lean ====
section
/-! SUPPORT. Words that complete: from what a word's effect leaves to `Ran`. -/

namespace Sys2Proof.Machine

theorem Piece.begun_besidesWord (p : Piece) (e : Nat) (t : BitVec 4) (he : e < 4) :
    (p.begun e t).besidesWord = p.besidesWord := by
  obtain ⟨x, tk, c, m, hb, -⟩ := Piece.begun_form p e t he
  rw [hb, Piece.setEng_besidesWord]
  rfl

theorem Ran.of_done {s y : State} {e : Nat} {t : BitVec 4} {p : Piece} {x : State} (h : CanRun s e t) (he : e < 4)
    (hq : ∀ k, k < 4 → y.piece.eng k = (s.piece.begun e t).eng k) (hk : y.piece.tacks = (s.piece.begun e t).tacks)
    (hp : y.piece.besidesWord = p.besidesWord) (hx : ∀ q, y.setPiece q = { x with pieces := x.pieces.insert x.focusP q }) :
    Ran s ((Res.done y).apply e t) e t (s.piece.nextPc e) p x := by
  have hroom : tackG t = false ∨ (y.piece.tackQ e (tackP t)).length < 15 := by
    have : y.piece.tackQ e (tackP t) = (s.piece.begun e t).tackQ e (tackP t) := by simp only [Piece.tackQ, hk]
    rw [this]; exact h.room_begun he
  refine ⟨?_, ?_, ?_, ?_⟩
  · exact WordDone.of_begun h he y.piece (by rw [Res.apply_done, State.piece_setPiece]) hq hk
  · rw [Res.apply_done, State.piece_setPiece, Piece.ended_besidesWord hroom, hp]
  · rw [Res.apply_done, State.piece_setPiece, hx]
  · intro v a
    rw [Res.apply_done, hx]; rfl

end Sys2Proof.Machine
end

