-- ==== Sys2Proof/Tests/Slice0.lean ====
section
/-! SUPPORT. Tests: ill-formed terms that WellFormed refuses, words decoded as the opcode table writes them, worked cases of
the manual, and for every statement a state and operands that meet its hypotheses, clause by clause. -/

namespace Sys2Proof.Tests
open Sys2Proof.Machine
set_option Elab.async false

/-! ## Well-formedness (R23, R144, R152, R157) -/

theorem test_wf_tack : (Instr.sAdd 4 1 2 3).wf = false ∧ (Instr.sAdd 1 1 2 3).wf = false ∧ (Instr.cGo 9 0).wf = false := by decide
theorem test_wf_queue : (Instr.sQpop 0 16 1 0).wf = false ∧ (Instr.sQcnt 0 1 1 2).wf = false ∧ (Instr.sQdisc 0 0 1 2).wf = false
    ∧ (Instr.sQhem 0 0 8).wf = false := by decide
theorem test_wf_scope : (Instr.sSem 0 5 0 0).wf = false ∧ (Instr.sFence 0 0 1).wf = false ∧ (Instr.cFence 0 5).wf = false := by decide
theorem test_wf_knot : (Instr.sKwait 0 0).wf = false ∧ (Instr.sKclr 0 8).wf = false := by decide
theorem test_wf_descriptor : (Instr.sSdw 0 0 37 0).wf = false ∧ (Instr.sMtw 0 6 0 0).wf = false ∧ (Instr.sMtw 0 0 5 0).wf = false := by
  decide
theorem test_wf_port : (Instr.sInj 0 0 0 0 17).wf = false := by decide
theorem test_wf_register : (Instr.sMvfs 0 1 1).wf = false ∧ (Instr.sMvts 0 1 0x240).wf = false := by decide
theorem test_wf_repeat : (Instr.cRep 0 0 5).wf = false ∧ (Instr.mRep 0 0 5).wf = false := by decide
theorem test_wf_rows : (Instr.mMma 0 5 507).wf = false ∧ (Instr.mMma 0 5 506).wf = true := by decide
theorem test_wf_operand : (Instr.mBind 0 0 0 0x100).wf = false ∧ (Instr.mBind 0 0 2 5).wf = false ∧ (Instr.mBind 0 1 2 0x105).wf = false
    ∧ (Instr.mBind 0 0 0 0x20).wf = false ∧ (Instr.mUnbind 0 1 2).wf = false ∧ (Instr.mScl 0 0x100).wf = false := by decide
theorem test_wf_matrix : (Instr.mGo 0 6 0).wf = false ∧ (Instr.mLdb 0 96).wf = false ∧ (Instr.mFmt 0 3 0 0).wf = false := by decide
theorem test_wf_fabric : (Instr.fTag 0 17 0).wf = false ∧ (Instr.fTagSetClr 0 1 6).wf = false := by decide
theorem test_wf_move : (Instr.move 7 1 4 15 0).wf = false ∧ (Instr.move 0 4 4 15 0).wf = false ∧ (Instr.move 0 1 0 15 0).wf = false
    ∧ (Instr.move 0 1 4 15 3).wf = false ∧ (Instr.move 1 8 4 15 0).wf = false ∧ (Instr.move 5 1 4 15 0).wf = false := by decide
theorem test_wf_isect : (Instr.isect 2 2).wf = false ∧ (Instr.isect 4 1).wf = false := by decide
theorem test_wf_second : (Instr.add 0 1 15 0 0xC0).wf = false ∧ (Instr.fadd 0 1 15 0 0x88).wf = false
    ∧ (Instr.add 0 1 15 0 1).wf = false := by decide
theorem test_wf_topk : (Instr.topk 0 1 15 0 0).wf = false ∧ (Instr.topk 0 1 15 0 65).wf = false := by decide

/-! ## Words of the opcode table, each with its fields at the table's places -/

/-- The instruction of a text word. -/
def readText (w : Nat) : Option Instr := match decodeText w with
  | .ok i => some i
  | .error _ => none
/-- The instruction of an element move word. -/
def readMove (w : Nat) : Option Instr := match decodeMoveWord w with
  | .ok i => some i
  | .error _ => none

theorem test_words_s0_0 :
    [0x180CEFA0, 0x180CEFA1, 0x180CEFA2, 0x180952C3, 0x180CEFA4, 0x18000885, 0x180CEFA6, 0x180CEFA7, 0x180CEFA8,
    0x180CEFA9, 0x1800088A, 0x1803A56B, 0x180CEFAC, 0x1800088D, 0x180CEFAE, 0x1800088F, 0x180CEFB0, 0x180CEFB1, 0x18000892,
    0x18000893].map readText =
    [.sAdd 6 25 27 29, .sSub 6 25 27 29, .sAnd 6 25 27 29, .sOr 6 18 20 22, .sXor 6 25 27 29, .sAndn 6 0 2 4, .sSll 6 25 27
    29, .sSrl 6 25 27 29, .sSra 6 25 27 29, .sMul 6 25 27 29, .sMulh 6 0 2 4, .sMulhu 6 7 9 11, .sDiv 6 25 27 29, .sDivu 6
    0 2 4, .sRem 6 25 27 29, .sRemu 6 0 2 4, .sMin 6 25 27 29, .sMax 6 25 27 29, .sMinu 6 0 2 4, .sMaxu 6 0 2 4].map some
    := by
  rfl

theorem test_words_s0_1 :
    [0x180CEFB4, 0x18000895, 0x180CEFB6, 0x180CEFB7, 0x181CEC00, 0x181CEC01, 0x18100802, 0x18174003, 0x18174004,
    0x18174005, 0x18174006, 0x1820083F, 0x1830083F, 0x184CEC38, 0x1850083F, 0x1860083F, 0x1873A446].map readText =
    [.sSlt 6 25 27 29, .sSltu 6 0 2 4, .sSeq 6 25 27 29, .sSne 6 25 27 29, .sClz 6 25 27, .sCtz 6 25 27, .sPopc 6 0 2,
    .sSextB 6 14 16, .sSextH 6 14 16, .sSextW 6 14 16, .sZextW 6 14 16, .sAddi 6 0 2 63, .sAndi 6 0 2 63, .sOri 6 25 27 56,
    .sXori 6 0 2 63, .sSlti 6 0 2 63, .sSltiu 6 7 9 70].map some := by
  rfl

theorem test_words_s1 :
    [0x1880083F, 0x1880093F, 0x18800A3F, 0x189C8031, 0x18ACEC00, 0x18BCEDDF, 0x18BCEFDF, 0x18C00880, 0x00E00023,
    0x00F5D200].map readText =
    [.sSlli 6 0 2 63, .sSrli 6 0 2 63, .sSrai 6 0 2 63, .sLui 6 25 49, .sSwz 6 25 27 0, .sBfx 6 25 27 59 7, .sBfi 6 25 27
    59 7, .sMadd 6 0 2 4, .sImx 35, .sSem 1 3 5 1].map some := by
  rfl

theorem test_words_s2_0 :
    [0x19000B20, 0x19000B21, 0x19000B22, 0x19000B23, 0x1903A694, 0x1903A695, 0x1903A696, 0x19100B20, 0x19100B21,
    0x19100B22, 0x19100B23, 0x192CEFA0, 0x19200881, 0x19200882, 0x1932EFA0, 0x19348881, 0x19458880, 0x19462561, 0x19400802,
    0x19438823].map readText =
    [.sLdB 6 0 2 6 2, .sLdH 6 0 2 6 2, .sLdW 6 0 2 6 2, .sLdD 6 0 2 6 2, .sLdBu 6 7 9 5 1, .sLdHu 6 7 9 5 1, .sLdWu 6 7 9 5
    1, .sStB 6 0 2 6 2, .sStH 6 0 2 6 2, .sStW 6 0 2 6 2, .sStD 6 0 2 6 2, .sQld 6 25 27 29, .sQld1 6 0 2 4, .sQlds 6 0 2
    4, .sQst 6 5 27 29, .sQst1 6 9 2 4, .sQpop 6 11 2 4, .sQpeek 6 12 9 11, .sQpsh 6 0 2, .sQcnt 6 7 2 1].map some := by
  rfl

theorem test_words_s2_1 :
    [0x19432424, 0x194000A5, 0x195CEFA0, 0x196CEFA0, 0x197052C0].map readText =
    [.sQdisc 6 6 9 1, .sQhem 6 0 5, .sVld 6 25 27 29, .sVst 6 25 27 29, .sVrc 6 20 22].map some := by
  rfl

theorem test_words_s3 :
    [0x198ADF30, 0x198ADF31, 0x19874242, 0x198ADF33, 0x198ADF34, 0x198ADF35, 0x198E7806, 0x198E7807, 0x198E7808,
    0x198E7809, 0x199CEFB0, 0x19AA0000, 0x19B38000, 0x19B18001, 0x19C00886].map readText =
    [.sAmoAdd 6 21 23 25 1, .sAmoAnd 6 21 23 25 1, .sAmoOr 6 14 16 18 0, .sAmoXor 6 21 23 25 1, .sAmoMin 6 21 23 25 1,
    .sAmoMax 6 21 23 25 1, .sAmoMinu 6 28 30 0 0, .sAmoMaxu 6 28 30 0 0, .sAmoSwap 6 28 30 0 0, .sAmoFadd 6 28 30 0 0,
    .sCas 6 25 27 29 1, .sFence 6 2 4, .sKwait 6 7, .sKclr 6 3, .sRinv 6 0 2 4 6].map some := by
  rfl

theorem test_words_s4 :
    [0x1A080023, 0x1A01183F, 0x1A02183F, 0x1A03183F, 0x1A04183F, 0x1A05183F, 0x1A06183F, 0x1A18E038, 0x1A19C054,
    0x1A1AC054, 0x1A1BC054, 0x1A1CC054, 0x1A1DC054, 0x1A1EC054, 0x1A2C8031, 0x1A30083F].map readText =
    [.sB 6 1 35, .sBeqz 6 0 3 63, .sBnez 6 0 3 63, .sBltz 6 0 3 63, .sBgez 6 0 3 63, .sBgtz 6 0 3 63, .sBlez 6 0 3 63,
    .sBqb 6 1 28 56, .sBqbEqz 6 1 24 84, .sBqbNez 6 1 24 84, .sBqbLtz 6 1 24 84, .sBqbGez 6 1 24 84, .sBqbGtz 6 1 24 84,
    .sBqbLez 6 1 24 84, .sJal 6 25 49, .sJalr 6 0 2 63].map some := by
  rfl

theorem test_words_s5 :
    [0x1A8A93A0, 0x1A9AC3A0, 0x1AACE7A6].map readText =
    [.sSdw 6 10 36 29, .sMtw 6 5 3 29, .sInj 6 25 12 15 19].map some := by
  rfl

theorem test_words_s6_0 :
    [0x1B000000, 0x1B000001, 0x1B000002, 0x1B000003, 0x1B000004, 0x1B000005, 0x1B000006, 0x1B10013F, 0x1B206C26,
    0x1B305F20, 0x1B3ADC01, 0x1B305F22, 0x1B305F23, 0x1B400880, 0x1B5CEFA0, 0x1B506FA1, 0x1B506FA2, 0x1B606C00, 0x1B600801,
    0x1B600002].map readText =
    [.sEcall 6, .sEret 6, .sPark 6, .sYield 6, .sBreak 6, .sEnd 6, .sNop 6, .sMvfs 6 0 319, .sMvts 6 27 38, .sBarInit 6 23
    25, .sBarArv 6 21 23, .sBarWait 6 23 25, .sBarAddb 6 23 25, .sLnch 6 0 2 4, .sWfn 6 25 27 29, .sNsig 6 27 29, .sNclr 6
    27 29, .sPcut 6 27, .sPjoin 6 2, .sPqry 6 0].map some := by
  rfl

theorem test_words_s6_1 :
    [0x1B704240, 0x1B700321, 0x1B700002].map readText =
    [.sTlbiVa 6 16 18, .sTlbiAsid 6 25, .sTlbiAll 6].map some := by
  rfl

theorem test_words_s7 :
    [0x1B800800, 0x1B9052C0].map readText =
    [.sTurn 6 0 2, .sCnt 6 20 22].map some := by
  rfl

theorem test_words_copy :
    [0x58080000, 0x58240000, 0x58440000, 0x58400001, 0x58760031, 0x58960000, 0x58A40000, 0x58D20000, 0x58E00231,
    0x59000000, 0x59360001, 0x59416031].map readText =
    [.cGo 6 4, .cStop 6 2, .cWait 6 2, .cWaitAll 6, .cAdv 6 11 49, .cBar 6 11, .cJrnl 6 2, .cFlush 6 9, .cLnk 6 2 49,
    .cFence 6 0, .cPri 6 11 1, .cRep 6 22 49].map some := by
  rfl

theorem test_words_matrix :
    [0x9414002A, 0x94200000, 0x9440002A, 0x94600000, 0x94806631, 0x94A06631, 0x94C07438, 0x94E00258, 0x95000006,
    0x95000400, 0x95200905, 0x9521080D, 0x9520B000, 0x95400000, 0x95400004, 0x95600000, 0x95816031].map readText =
    [.mGo 5 5 42, .mWait 5, .mLdb 5 42, .mSwb 5, .mMma 5 51 49, .mDrn 5 51 49, .mZero 5 58 56, .mFmt 5 2 5 8, .mScl 5 6,
    .mSclOne 5, .mBind 5 0 2 261, .mBindMem 5 13, .mUnbind 5 3 0, .mKeep 5 0 0, .mKeepRelease 5 0 0, .mToil 5, .mRep 5 22
    49].map some := by
  rfl

theorem test_words_fabric :
    [0xD8000031, 0xD8200000, 0xD8200001, 0xD8400031, 0xD86067F8, 0xD8800000, 0xD8A00000, 0xD8C00000, 0xD8E02FBF,
    0xD8E0400D, 0xD9000169, 0xD9000200, 0xD9000329, 0xD9200036].map readText =
    [.fCfgl 6 49, .fTurn 6, .fTurnNow 6, .fKset 6 49, .fHem 6 51 7 56, .fArm 6, .fStop 6, .fWdr 6, .fSink 6 11 14 63,
    .fSinkClr 6 13, .fTag 6 13 1, .fTagClr 6, .fTagSetClr 6 5 1, .fPleat 6 0 3 6].map some := by
  rfl

theorem test_words_e0 :
    [0x60883D00].map readMove =
    [.move 3 1 4 15 1].map some := by
  rfl

theorem test_words_e39 :
    [0x00CE3C02].map readMove =
    [.isect 1 2].map some := by
  rfl

theorem test_words_e48 :
    [0x60E03D80, 0x60E07D44, 0x60E0BD82, 0x60E0FD46, 0x60E13D84, 0x60E17D48, 0x60E1BD86, 0x60E1FD4A].map readMove =
    [.add 3 1 15 1 128, .sub 3 1 15 1 68, .and 3 1 15 1 130, .or 3 1 15 1 70, .xor 3 1 15 1 132, .shl 3 1 15 1 72, .shr 3 1
    15 1 134, .sar 3 1 15 1 74].map some := by
  rfl

theorem test_words_e49 :
    [0x60E23D80, 0x60E27D4C, 0x60E2BD82, 0x60E2FD4E, 0x60E33D84, 0x60E37D50, 0x60E3BD86, 0x60E3FD86].map readMove =
    [.min 3 1 15 1 128, .max 3 1 15 1 76, .ceq 3 1 15 1 130, .clt 3 1 15 1 78, .cle 3 1 15 1 132, .adds 3 1 15 1 80, .subs
    3 1 15 1 134, .mulsr 3 1 15 1 4 6].map some := by
  rfl

theorem test_words_e50 :
    [0x60E43D00, 0x60E47D00, 0x60E4BD00, 0x60E4FD00, 0x60E53D00, 0x60E57D00].map readMove =
    [.sel 3 1 15 1, .abs 3 1 15 1, .neg 3 1 15 1, .cvtIf 3 1 15 1, .cvtFi 3 1 15 1, .pass 3 1 15 1].map some := by
  rfl

theorem test_words_e51 :
    [0x60E63D52, 0x60E67D80, 0x60E6BD54, 0x60E6FD00, 0x60E73D00, 0x60E77D82, 0x60E7BD56, 0x60E7FD16].map readMove =
    [.fadd 3 1 15 1 82, .fsub 3 1 15 1 128, .fmul 3 1 15 1 84, .fma 3 1 15 1, .fnma 3 1 15 1, .fmin 3 1 15 1 130, .fmax 3 1
    15 1 86, .fclip 3 1 15 1 2 6].map some := by
  rfl

theorem test_words_e52 :
    [0x60E83D84, 0x60E87D58, 0x60E8BD86].map readMove =
    [.fclt 3 1 15 1 132, .fcle 3 1 15 1 88, .fceq 3 1 15 1 134].map some := by
  rfl

theorem test_words_e53 :
    [0x60EA3D00, 0x60EA7D00, 0x60EABD00, 0x60EAFD00, 0x60EB3D00, 0x60EB7D00, 0x60EBBD00].map readMove =
    [.exp2 3 1 15 1, .log2 3 1 15 1, .rcp 3 1 15 1, .rsqrt 3 1 15 1, .sqrt 3 1 15 1, .tanh 3 1 15 1, .sigm 3 1 15 1].map
    some := by
  rfl

theorem test_words_e54 :
    [0x60EC3D00, 0x60EC7D00, 0x60ECBD00, 0x60ECFD00, 0x60ED3D01, 0x60ED7D00, 0x60EDBD00].map readMove =
    [.lsum 3 1 15 1 0, .lmax 3 1 15 1 0, .lmin 3 1 15 1 0, .cnt 3 1 15 1, .acc 3 1 15 1 1, .accm 3 1 15 1 0, .scan 3 1 15 1
    0].map some := by
  rfl

theorem test_words_e55 :
    [0x60EE3D03, 0x60EE7D00, 0x60EEBD07, 0x60EEFD00, 0x60EF3D00, 0x60EF7D00, 0x60EFBD00, 0x60EFFD00].map readMove =
    [.pack 3 1 15 1 1 1, .unpk 3 1 15 1, .reord 3 1 15 1 7, .merge2 3 1 15 1, .union 3 1 15 1, .steer 3 1 15 1, .mrg 3 1 15
    1, .dup 3 1 15 1].map some := by
  rfl

theorem test_words_e56 :
    [0x60F03D38, 0x60F07D00, 0x60F0BD00, 0x60F0FD00].map readMove =
    [.topk 3 1 15 1 56, .spa 3 1 15 1, .tile 3 1 15 1 0, .swst 3 1 15 1].map some := by
  rfl

theorem test_words_e57 :
    [0x60F23D00, 0x60F27D00, 0x60F2BD01].map readMove =
    [.gthr 3 1 15 1, .sctr 3 1 15 1 0, .rmw 3 1 15 1 1].map some := by
  rfl
/-! ## Words the manual spells out -/

/-- R169, R183, R174 and the worked case behind it. -/
theorem test_spelled_words :
    [0x000190A0, 0x016214C0, 0x002283E0, 0x00829434, 0x00EB0049, 0x00429440, 0x00A31401].map readText =
    [.sAdd 0 3 4 5, .sVst 0 4 5 6, .sAddi 0 5 0 (-32), .sSlli 0 5 5 52, .sImx 0xB0049, .sOri 0 5 5 0x40, .sSwz 0 6 5 1].map some := by
  rfl

theorem test_words_refused : [0x00D00000, 0x10000000, 0x00000018, 0x00100020, 0xC1600000].map readText = [none, none, none, none, none]
    ∧ [0xE0800000, 0x00800001, 0x00804000, 0x6000C0].map readMove = [none, none, none, none] := by
  exact ⟨rfl, rfl⟩

/-! ## Small machines -/

/-- A machine with one live piece. -/
def one (p : Piece) : State := { State.reset with pieces := [(0, { p with live := true })] }
/-- The same with tables that map one readable and writable page of DRAM at virtual address 0. -/
def mapped (p : Piece) : State :=
  ((one { p with sys := { p.sys with troot := 0x200000 } }).probeMemory).putLine 0x400000 24607
/-- Whether a step gives a next state of which something holds. -/
def gives (o : Host.Outcome State Fault Refusal) (f : State → Bool) : Bool := match o with
  | .next t => f t
  | _ => false

/-- Whether an address check passes on a place of which something holds. -/
def okAdr (r : SAdr) (f : State → Bool → Nat → Option Nat → Option (Nat × Nat) → Bool) : Bool := match r with
  | .ok s v pa _ p face => f s v pa p face
  | _ => false
/-- A launch record of the doublewords given, the others zero. -/
def record (ws : List (Nat × Nat)) : List Byte := (List.range 16).flatMap fun i => bytesOf 8 ((ws.lookup i).getD 0)
/-- The machine with launch 0 of a record. -/
def launched (s : State) (ws : List (Nat × Nat)) : State := s.setLaunch 0 { st := .running, image := record ws }

theorem canRun_of {s : State} {e : Nat} {t : BitVec 4} (h : (s.piece.live && tackOk e t && (s.piece.eng e).done.isNone
    && ((s.piece.eng e).issued || !tackW t || !(s.piece.tackQ (tackP t) e).isEmpty)
    && (!tackG t || decide ((s.piece.tackQ e (tackP t)).length < 15))) = true) : CanRun s e t := by
  simp only [Bool.and_eq_true, Bool.or_eq_true, Bool.not_eq_true', decide_eq_true_eq, Option.isNone_iff_eq_none,
    List.isEmpty_eq_false_iff] at h
  obtain ⟨⟨⟨⟨a, b⟩, c⟩, d⟩, e⟩ := h
  exact ⟨a, b, c, by rcases d with (d | d) | d <;> simp [d], e⟩

theorem regsReady_of {p : Piece} {rs : List (BitVec 5)} (h : (rs.all fun r => !p.busy r && (p.poisonOf r).isNone) = true) :
    RegsReady p rs := by
  intro r hr
  have := List.all_eq_true.mp h r hr
  simpa using this

/-! ## Witnesses: S words -/

/-- A machine at an S word: registers 1 to 8 hold 8 times their number, and k1 ties one read. -/
def atS : State := one { regs := (List.range 8).map fun i => (i + 1, BitVec.ofNat 64 (8 * (i + 1))) }
/-- The same, with memory mapped. -/
def atMem : State := mapped { regs := (List.range 8).map fun i => (i + 1, BitVec.ofNat 64 (0x1000 * (i + 1))) }

/-- The same with a memory binding on pair 5 to package 2, whose memory the page maps. -/
def atFar : State :=
  let s := (mapped { regs := (List.range 8).map fun i => (i + 1, BitVec.ofNat 64 (0x1000 * (i + 1))) }).putLine 0x400000 (24607 + 2 ^ 50)
  let b : Binding := { lq := 0, die := false, mem := true, out := true, inn := true, pair := 5, seq := 0, peer := 2, bid := 77, bound := true }
  { s.setLaunch 0 { st := .running, image := record [], binds := [b] } with choices := [1] }

theorem canRun_atS : CanRun atS 0 0 := canRun_of (by decide)
theorem canS_atS (rs : List (BitVec 5)) (h : (rs.all fun r => !atS.piece.busy r && (atS.piece.poisonOf r).isNone) = true) (acc : Nat) :
    CanS atS 0 acc rs := ⟨canRun_atS, rfl, regsReady_of h⟩
theorem canRun_atMem : CanRun atMem 0 0 := canRun_of (by decide +kernel)
theorem canS_atMem (acc : Nat) (rs : List (BitVec 5))
    (h : (rs.all fun r => !atMem.piece.busy r && (atMem.piece.poisonOf r).isNone) = true) : CanS atMem 0 acc rs :=
  ⟨canRun_atMem, by
    have h : atMem.piece.pre = .none := by decide +kernel
    rw [h]; rfl, regsReady_of h⟩

theorem witness_AluWordsWriteTheirResult : CanRun atS 0 0 ∧ atS.piece.pre = .none ∧ RegsReady atS.piece [4, 5] :=
  ⟨canRun_atS, rfl, regsReady_of rfl⟩

/-- An `s.imx` stands before the word. -/
def atImx : State := one { pre := .imx 5 0, s := { pc := 4 } }

theorem witness_BitFieldWordsWriteTheirResult :
    (CanRun atS 0 0 ∧ FieldWidth atS.piece 3 8 ∧ RegsReady atS.piece [5]) ∧ FieldWidth atS.piece 7 1
      ∧ (CanRun atImx 0 0 ∧ FieldWidth atImx.piece 7 6 ∧ RegsReady atImx.piece [5, 4]) :=
  ⟨⟨canRun_atS, .coded (.inl rfl) (by decide), regsReady_of rfl⟩, .one rfl rfl,
   canRun_of (by decide), .given 5 0 rfl rfl (by decide), regsReady_of rfl⟩

theorem witness_ImmediateAndUnaryWordsComplete :
    (CanRun atS 0 0 ∧ atS.piece.pre = .none ∧ RegsReady atS.piece [1, 2, 3])
      ∧ (CanRun atImx 0 0 ∧ (∃ h x, atImx.piece.pre = .imx h x) ∧ RegsReady atImx.piece [1]) ∧ atS.piece.live = true :=
  ⟨⟨canRun_atS, rfl, regsReady_of rfl⟩, ⟨canRun_of (by decide), ⟨5, 0, rfl⟩, regsReady_of rfl⟩, rfl⟩

/-- S waits at its word for a remote read that has been answered, `bad` with a refusal. -/
def awaiting (bad : Bool) : State :=
  { one { await := .load [7] } with
    ops := [{ blankOp 0 (.thread 0) .read false 0 0 8 with id := 7, level := 5, data := [1, 2, 3, 4, 5, 6, 7, 8], fail := if bad then some (cWALL, 0) else none }] }

theorem witness_LoadsAreSentAndAnswered :
    (CanS atMem 0 2 [1] ∧ Piece.ktClash 0 atMem.piece = none ∧ Fresh atMem
      ∧ (atMem.begun 0 0).knotFull (atMem.piece.ordScope.tied 0) 1 = false
      ∧ okAdr ((atMem.begun 0 0).sAddr (atMem.piece.reg 1) 8 (plainAcc false 8))
          (fun s1 v pa pair f => pair.isNone && f.isNone && (s1.read v pa 8).integ.isNone) = true)
    ∧ (CanS atFar 0 2 [1] ∧ Fresh atFar ∧ atFar.choose.1 ≠ 0
      ∧ okAdr ((atFar.begun 0 0).sAddr (atFar.piece.reg 1) 8 (plainAcc false 8)) (fun s1 _ _ pair f => pair == some 5 && f.isNone && s1.choose.1 != 0) = true)
    ∧ (CanS (awaiting false) 0 2 [1] ∧ (awaiting false).piece.await = .load [7]
      ∧ ((awaiting false).begun 0 0).answered [7] = true ∧ ((awaiting false).begun 0 0).refused [7] = none)
    ∧ ((awaiting true).begun 0 0).answered [7] = true ∧ ((awaiting true).begun 0 0).refused [7] ≠ none :=
  ⟨⟨canS_atMem 2 [1] (by decide +kernel), by decide +kernel, by unfold Fresh; decide +kernel, by decide +kernel, by decide +kernel⟩,
   ⟨⟨canRun_of (by decide +kernel), by decide +kernel, regsReady_of (by decide +kernel)⟩, by unfold Fresh; decide +kernel, by decide +kernel, by decide +kernel⟩,
   ⟨⟨canRun_of (by decide), rfl, regsReady_of rfl⟩, rfl, by decide, by decide⟩, by decide, by decide⟩

theorem witness_StoresAndAtomicsAreHandedOver :
    okAdr ((atFar.begun 0 0).sAddr (atFar.piece.reg 1) 8 (plainAcc true 8)) (fun _ _ _ pair _ => pair.isSome) = true ∧ CanS atMem 0 2 [1, 2] ∧ (atMem.begun 0 0).knotFull (atMem.piece.ordScope.tied 0) 2 = false
      ∧ okAdr ((atMem.begun 0 0).sAddr (atMem.piece.reg 1) 8 (plainAcc true 8)) (fun _ v pa pair _ => v || pair.isSome || !inHubWin pa) = true
      ∧ CanS atMem 0 2 [1, 2, 3] ∧ (atMem.begun 0 0).knotFull atMem.piece.ordScope.kt 1 = false
      ∧ okAdr ((atMem.begun 0 0).sAddr (atMem.piece.reg 1) 4 { write := true, host := false, stack := true })
          (fun s1 v pa pair _ => pair.isNone && (s1.read v pa 4).integ.isNone) = true :=
  ⟨by decide +kernel, canS_atMem 2 _ (by decide +kernel), by decide +kernel, by decide +kernel, canS_atMem 2 _ (by decide +kernel), by decide +kernel,
   by decide +kernel⟩

/-- One operation of S in flight, for register 3 where it is a read or read-modify-write. -/
def inFlight (o : MemOp) : State := { one { pend := [(3, some 7)] } with ops := [o] }
def aRead : MemOp := { blankOp 0 (.thread 0) .read false 0x2000 0x2000 8 with id := 7, rd := 3 }
def aRmw (fn : Nat) : MemOp := { blankOp 0 (.thread 0) .rmw false 0x2000 0x2000 8 with id := 7, rd := 3, fn := fn, data := bytesOf 8 5, cmp := 0 }
def aWrite : MemOp := { blankOp 0 (.thread 0) .write true 0x2000 0x2000 4 with id := 7, data := [1, 2, 3, 4] }

/-- The units that a read in flight takes next, and what comes of them. -/
def readNow (s : State) (o : MemOp) : List (Nat × Nat) := pickUnits (s.chooseTorn o.size).1 (unitsLeft o.size o.got)
def readThen (s : State) (o : MemOp) : State × UnitReads :=
  let s0 := (readNow s o).foldl (fun x u => x.detect o.vault (o.addr + u.1) u.2) (s.chooseTorn o.size).2
  (s0, s0.readUnits o true (readNow s o))

theorem witness_LoadsAndAtomicsPerform :
    (∀ c ∈ [0, 2], let s := { inFlight aRead with choices := [c] }
      s.opOf 7 = some aRead ∧ aRead.kind = .read ∧ aRead.remote = none ∧ aRead.turned = none ∧ aRead.level ≠ 5
      ∧ aRead.agent = .thread aRead.piece ∧ inHubWin aRead.addr = false ∧ s.depsMet aRead.deps = true
      ∧ SMap.get none (s.pieceOf 0).pend 3 = some 7
      ∧ (readNow s aRead).all (fun u => (s.chooseTorn 8).2.readable aRead.agent aRead.scope false (aRead.addr + u.1) u.2) = true
      ∧ (readThen s aRead).2.integ = none ∧ (readThen s aRead).2.pois = false
      ∧ (unitsLeft 8 (readThen s aRead).2.got).isEmpty = (c == 0))
    ∧ (let s := inFlight (aRmw 10)
      s.opOf 7 = some (aRmw 10) ∧ (aRmw 10).turned = none ∧ (aRmw 10).level ≠ 5 ∧ (aRmw 10).agent = .thread 0
      ∧ s.depsMet (aRmw 10).deps = true ∧ s.contended false 0x2000 8 = false ∧ SMap.get none (s.pieceOf 0).pend 3 = some 7
      ∧ ((s.detect false 0x2000 8).view (.thread 0) false 0x2000 8 false 7).integ = none
      ∧ ((s.detect false 0x2000 8).view (.thread 0) false 0x2000 8 false 7).pois = false) := by
  dsimp only; decide +kernel

theorem witness_WritesPerformOnTheirBytes :
    ((inFlight aWrite).opOf 7 = some aWrite ∧ (inFlight aWrite).depsMet aWrite.deps = true ∧ (inFlight aWrite).coherent aWrite 4 = true
      ∧ (inFlight aWrite).coherent aWrite 0 = true ∧ aWrite.level ≤ 0
      ∧ (((((inFlight aWrite).dropOp 7).detect true 0x2000 4).write true 0x2000 [1, 2, 3, 4]).isSome = true))
    ∧ (∀ l ∈ linesOf false 0x2000 4, atS.prot l = false)
    ∧ okAdr (atMem.sAddr 0x1000 8 (plainAcc false 8)) (fun _ _ _ _ _ => true) = true := by decide +kernel

/-! ## Queue words and versioned cells -/

/-- A token of kind data with one valid lane. -/
def tok1 : Token := dataTok [5]
/-- A machine whose y queue 2 holds two tokens, with register 5 selecting the status and 6 lane 1. -/
def atY : State := one { y := [(2, [tok1, tok1])], regs := [(5, 32), (6, 1)] }
/-- A machine whose q queues are read by the block; queue 1 holds a reserved entry, registers 1 to 3 hold an address and
control words (format 3, stride 0 and 4). -/
def atQ : State :=
  launched (mapped { regs := [(1, 0x1000), (2, 0x300000000), (3, 0x300000004)], q := [(1, [{ rid := 3 }])] }) [(7, 0x55555555)]

theorem witness_QueueAccessesComplete :
    (CanS atY 0 0 [5] ∧ atY.piece.yOf 2 = tok1 :: [tok1] ∧ (atY.piece.reg 5).toNat % 64 ≤ 32)
    ∧ (CanS atQ 0 0 [] ∧ atQ.qfmt 1 ≠ 0 ∧ (atQ.piece.qOf 1).length < 16 ∧ RegsReady atQ.piece [1]) :=
  ⟨⟨⟨canRun_of rfl, rfl, regsReady_of rfl⟩, rfl, by decide⟩,
   ⟨canRun_of (by decide +kernel), by decide +kernel, regsReady_of rfl⟩, by decide +kernel, by decide +kernel,
   regsReady_of (by decide +kernel)⟩

/-- Whether the check of a queue load passes on local places. -/
def okQ (r : QAdr) : Bool := match r with
  | .ok _ lanes rem => !lanes.isEmpty && rem.isEmpty
  | .res _ => false
/-- Whether the check of a queue store passes, and it may hand out its writes. -/
def okSt (r : StAdr) (s : State) : Bool := match r with
  | .ok s1 out => (match s.piece.await with
    | .none => (farHalves out).isEmpty && s1.roomFor (out.filterMap (·.2.2.2.2))
    | .load ids => s1.answered ids && (s1.refused ids).isNone
    | _ => false)
  | .res _ => false

/-- A queue load of one lane for the reserved entry, in flight. -/
def aLoad : QLoad := { id := 3, q := 1, fmt := 2, lanes := [{ lane := 0, vault := true, addr := 64, hi := false, va := 0 }], deps := [], agent := .thread 0, scope := 0 }
/-- A queue load that may deliver to its reserved entry. -/
def atDeliver : State := one { q := [(1, [{ rid := 3 }])], qloads := [aLoad] }
/-- S waits for the remote reads of queue load 3: it is gone, or its one read has been answered, `bad` with a refusal. -/
def atAnswered (there bad : Bool) : State :=
  { atQ with
    pieces := [(0, { atQ.piece with await := .qload 3, qloads := if there then [{ aLoad with lanes := [{ lane := 0, vault := false, addr := 0, hi := false, va := 0, op := some 7 }] }] else [] })]
    ops := [{ blankOp 0 (.thread 0) .read false 0 0 2 with id := 7, level := 5, data := [1, 2], fail := if bad then some (cWALL, 0) else none }] }
/-- A queue store of a data token: y queue 2, registers 1 and 2 an address and a control word. -/
def atStore (k : TokKind) : State :=
  launched (mapped { regs := [(1, 0x1000), (2, 0x300000000)], y := [(2, [{ tok1 with kind := k }])] }) []
/-- The same, of a format of 4 bits, whose two reads of bytes of another package have been answered. -/
def atHalves : State :=
  let s := launched (mapped { regs := [(1, 0x1000), (2, 0x800000000)], y := [(2, [tok1])], await := .load [7] }) []
  { s with ops := [{ blankOp 0 (.thread 0) .read false 0 0 1 with id := 7, level := 5, data := [1] }] }

theorem witness_QueueMemoryWordsComplete :
    (CanS atQ 0 2 [1, 2] ∧ atQ.qfmt 1 = 1 ∧ CtlOk (qctl (atQ.piece.reg 2)) true ∧ (atQ.piece.qOf 1).length < 16 ∧ Fresh atQ
      ∧ (∀ m ≤ 16, (atQ.begun 0 0).knotFull atQ.piece.ordScope.kt m = false)
      ∧ okQ (State.qCheck 16 0 [{ lane := 0, vault := false, addr := 0, hi := false, va := atQ.piece.reg 1 }] (atQ.begun 0 0)) = true
      ∧ okQ (State.qCheck 1 0 (laneStarts (atQ.piece.reg 1) (qctl (atQ.piece.reg 3)) false) (atQ.begun 0 0)) = true)
    ∧ (∀ h ∈ [true, false], ∀ bad ∈ [true, false], CanS (atAnswered h bad) 0 2 [1, 2] ∧ (atAnswered h bad).qfmt 1 = 1
      ∧ (atAnswered h bad).piece.await = .qload 3 ∧ ((atAnswered h bad).piece.qloads.find? fun x => x.id == 3).isSome = h
      ∧ ((atAnswered h bad).begun 0 0).answered [7] = true ∧ (((atAnswered h bad).begun 0 0).refused [7]).isSome = bad)
    ∧ (atDeliver.pieceOf 0).qloads.find? (fun x => x.id == 3) = some aLoad
    ∧ (atDeliver.choose.1 = 0 ∧ atDeliver.choose.2.readable aLoad.agent aLoad.scope true 64 (elemBytes 2) = true
      ∧ (atDeliver.readLanes aLoad true [0] aLoad.lanes).2.2 = none)
    ∧ (∀ k ∈ [TokKind.data, .hem], CanS (atStore k) 0 2 [1, 2] ∧ CtlOk (qctl ((atStore k).piece.reg 2)) true
      ∧ (atStore k).piece.yOf 2 = [{ tok1 with kind := k }] ∧ (atStore k).piece.reg 1 = 0x1000 ∧ (atStore k).piece.await = .none
      ∧ okSt (State.stCheck 1 0 (if k = .data then stLanes 0x1000 3 tok1 1 else []) ((atStore k).begun 0 0)) (atStore k) = true)
    ∧ (CanS atHalves 0 2 [1, 2] ∧ (qctl (atHalves.piece.reg 2)).fmt = 8 ∧ atHalves.piece.await = .load [7]
      ∧ okSt (State.stCheck 1 0 (stLanes 0x1000 8 tok1 16) (atHalves.begun 0 0)) atHalves = true) := by
  refine ⟨⟨⟨canRun_of (by decide +kernel), by decide +kernel, regsReady_of (by decide +kernel)⟩, by decide +kernel,
    by unfold CtlOk; decide +kernel, by decide +kernel, by unfold Fresh; decide +kernel, by decide +kernel, by decide +kernel, by decide +kernel⟩,
    ?_, by decide +kernel, by decide +kernel, ?_, ?_⟩
  · intro h hh bad hb
    simp only [List.mem_cons, List.not_mem_nil, or_false] at hh hb
    rcases hh with rfl | rfl <;> rcases hb with rfl | rfl <;>
      exact ⟨⟨canRun_of (by decide +kernel), by decide +kernel, regsReady_of (by decide +kernel)⟩, by decide +kernel,
        by decide +kernel, by decide +kernel, by decide +kernel, by decide +kernel⟩
  · intro k hk
    simp only [List.mem_cons, List.not_mem_nil, or_false] at hk
    rcases hk with rfl | rfl <;>
      exact ⟨⟨canRun_of (by decide +kernel), by decide +kernel, regsReady_of (by decide +kernel)⟩, by unfold CtlOk; decide +kernel,
        by decide +kernel, by decide +kernel, by decide +kernel, by decide +kernel⟩
  · exact ⟨⟨canRun_of (by decide +kernel), by decide +kernel, regsReady_of (by decide +kernel)⟩, by decide +kernel, by decide +kernel,
      by decide +kernel⟩

/-- A machine at a versioned word: a page of class versioned, register 1 the cell, 2 to 5 versions 0 to 3, and a cell whose
NEWEST is 2 and MARK 1 where `made`. -/
def atCell (made : Bool) : State :=
  let s := launched ((mapped { regs := [(1, 0x1000), (2, 0), (3, 1), (4, 2), (5, 3)] }).putLine 0x400000 24703) []
  if made then s.putBytes false 0x1000 (Cell.bytes ⟨9, 2, 7, 1, 2, 1⟩) else s

/-- Whether the check of a versioned word passes, and of the cell it finds. -/
def okCell (s : State) (write : Bool) (f : Cell → Bool) : Bool :=
  okAdr ((s.begun 0 0).sAddr (s.piece.reg 1) 32 { write := write, ver := true }) fun s0 _ pa pair _ =>
    let s1 := s0.detect false pa 32
    pair.isNone && (s1.read false pa 32).integ.isNone && !(s1.read false pa 32).pois && !s1.cellBusy pa
      && s1.depsMet (s1.sDeps (s1.piece.ordAs (if write then 2 else 1)) 0 write) && !s1.knotFull s.piece.ordScope.kt 1 && f (cellOf (s1.read false pa 32).data)

/-- An operation on the cell in flight. -/
def atVop (fn : Nat) (v : W64) (newest mark : Word32) : State :=
  { (atCell false).putBytes false 0x1000 (Cell.bytes ⟨9, newest, 7, newest - 1, newest, mark⟩) with
    ops := [{ blankOp 0 (.thread 0) .vstore false 0x1000 0x1000 32 with id := 7, fn := fn, cmp := v, data := bytesOf 8 4 }] }

theorem witness_VersionedCellsWork :
    (CanS (atCell true) 0 2 [1, 3] ∧ Fresh (atCell true) ∧ RegsReady (atCell true).piece [5])
    ∧ okCell (atCell true) false (fun c => verD 2 c.newest == 0 && decide (verD 1 c.newest < 0)
      && !decide (0 < verD 1 c.mark) && c.newest != 0) = true
    ∧ okCell (atCell true) true (fun c => c.newest + 1 == 3 && c.newest + 1 != 2 && decide (verD 1 c.newest < 0)
      && decide (0 ≤ verD 2 c.newest)) = true
    ∧ ((atVop 0 3 2 2).opOf 7).isSome = true
    ∧ ¬((atVop 0 3 2 2).cell 0x1000).newest = 0 ∧ ¬0 < verD (((atVop 0 3 2 2).cell 0x1000).newest - 1) ((atVop 0 3 2 2).cell 0x1000).mark
    ∧ 0 < verD (((atVop 0 3 2 0).cell 0x1000).newest - 1) ((atVop 0 3 2 0).cell 0x1000).mark
    ∧ 0 < verD 1 ((atVop 1 1 2 0).cell 0x1000).mark :=
  ⟨⟨⟨canRun_of (by decide +kernel), by decide +kernel, regsReady_of (by decide +kernel)⟩, by unfold Fresh; decide +kernel,
    regsReady_of (by decide +kernel)⟩, by decide +kernel, by decide +kernel, by decide +kernel, by decide +kernel, by decide +kernel,
   by decide +kernel, by decide +kernel⟩

/-! ## Fences, control, system words -/

/-- A machine whose knot 2 holds a write that has not performed, behind a read. -/
def atKnot : State :=
  { one { knots := [(2, [7])] } with
    ops := [{ blankOp 0 (.thread 0) .read false 0x2000 0x2000 8 with id := 6, rd := 3 }, { aWrite with vault := false }] }

theorem witness_FencesAndKnotsComplete :
    CanS atKnot 0 0 [] ∧ 6 ∈ atKnot.threadReads ∧ (atKnot.begun 0 0).opDone 6 7 = false ∧ 7 ∈ atKnot.threadOps
      ∧ (atKnot.begun 0 0).opDone 7 0 = false ∧ (atKnot.begun 0 0).knot 3 = [] ∧ (atKnot.begun 0 0).knot 2 ≠ [] :=
  ⟨⟨canRun_of rfl, rfl, regsReady_of rfl⟩, by decide, by decide, by decide, by decide, by decide, by decide⟩

theorem witness_InvocationsAreAnswered :
    ((one { await := .result 7 }).piece.await = .result 7 ∧ CanS (one { await := .result 7 }) 0 2 [1, 2])
    ∧ (CanS atMem 0 2 [1, 2] ∧ Fresh atMem
      ∧ okAdr ((atMem.begun 0 0).sAddr (atMem.piece.reg 1) 8 { write := true, host := false }) (fun s1 _ pa pair _ =>
        pair.isNone && decide (pa < 2 ^ 40) && s1.depsMet (s1.sDeps atMem.piece.ordScope 0 true)) = true)
    ∧ (CanS atFar 0 2 [1, 2] ∧ Fresh atFar
      ∧ okAdr ((atFar.begun 0 0).sAddr (atFar.piece.reg 1) 8 { write := true, host := false }) (fun s1 _ pa pair _ =>
        pair == some 5 && decide (pa % 2 ^ 45 < 2 ^ 40) && s1.depsMet (s1.sDeps atFar.piece.ordScope 0 true)) = true)
    ∧ (one { await := .failed 5 9 }).piece.await = .failed 5 9 :=
  ⟨⟨rfl, canRun_of rfl, rfl, regsReady_of rfl⟩, ⟨canS_atMem 2 _ (by decide +kernel), by unfold Fresh; decide +kernel, by decide +kernel⟩,
   ⟨⟨canRun_of (by decide +kernel), by decide +kernel, regsReady_of (by decide +kernel)⟩, by unfold Fresh; decide +kernel, by decide +kernel⟩, rfl⟩

/-- A machine at the mapped text, whose second word is a C word; register 1 holds -1, register 2 the text's address. -/
def atText : State :=
  (mapped { regs := [(1, -1), (2, 0x600008), (3, 0x600002)], s := { pc := 0x600000 } }).putLine 0x600000 (0x40000000 * 2 ^ 32)
/-- The same at the word behind it. -/
def atText2 : State := (mapped { regs := [(1, -1), (2, 0x600008), (3, 0x600002)], s := { pc := 0x600008 }, bq := [5], sys := { slip := 1 } })
/-- Whether the span of a transfer is clear of other engines' words, or holds one. -/
def spanClear (r : SpanRes) : Bool := match r with
  | .clear _ => true
  | _ => false
def spanBarred (r : SpanRes) : Bool := match r with
  | .engine .. => true
  | _ => false

theorem witness_BranchesAndJumpsTransfer :
    (CanS atText2 0 0 [1] ∧ condHolds 3 (atText2.piece.reg 1) = true ∧ condHolds 1 (atText2.piece.reg 1) = false
      ∧ spanClear ((atText2.begun 0 0).checkSpan atText2.piece.s.pc (atText2.piece.s.pc + 4 * (3 : BitVec 11).signExtend 64)) = true)
    ∧ spanBarred ((atText.begun 0 0).checkSpan atText.piece.s.pc (atText.piece.s.pc + 4 * (3 : BitVec 11).signExtend 64)) = true
    ∧ (atText2.piece.slip < atText2.piece.sys.slip.toNat)
    ∧ ((one { sys := { slip := 1 }, steers := [(1, [true])], bq := [5] }).piece.sys.slip.toNat ≤ (one { sys := { slip := 1 }, steers := [(1, [true])], bq := [5] }).piece.slip)
    ∧ ((atText2.piece.popped.find? fun x => x.1 == atText2.piece.s.pc) = none ∧ atText2.piece.bq = 5 :: [])
    ∧ ((one { popped := [(0, 5)] }).piece.popped.find? fun x => x.1 == (0 : W64)) = some (0, 5)
    ∧ (CanS atText2 0 1 [2] ∧ (atText2.piece.reg 2 + immS atText2.piece 0).toNat % 4 = 0
      ∧ spanClear ((atText2.begun 0 0).checkSpan atText2.piece.s.pc (atText2.piece.reg 2 + immS atText2.piece 0)) = true)
    ∧ (atText2.piece.reg 3 + immS atText2.piece 0).toNat % 4 ≠ 0 :=
  ⟨⟨⟨canRun_of (by decide +kernel), by decide +kernel, regsReady_of (by decide +kernel)⟩, by decide +kernel, by decide +kernel, by decide +kernel⟩,
   by decide +kernel, by decide +kernel, by decide +kernel, by decide +kernel, by decide +kernel,
   ⟨⟨canRun_of (by decide +kernel), by decide +kernel, regsReady_of (by decide +kernel)⟩, by decide +kernel, by decide +kernel⟩, by decide +kernel⟩

/-- A machine with a block of side 4 and a control token under way to element 0. -/
def atBlock : State := one { blk := { side := 4, ctlNet := [(0, 8, tok1)] }, regs := [(1, 1), (2, 65536), (3, -512)] }

theorem witness_DescriptorsTablesAndControlTokens :
    CanS atBlock 0 0 [1] ∧ sdwValue 4 (atBlock.piece.reg 1) ≠ none ∧ sdwValue 0 (atBlock.piece.reg 3) = none
      ∧ LevelPut {} 0 (atBlock.piece.reg 2) { count := 65536 } ∧ LevelPut {} 3 (atBlock.piece.reg 3) { cstr := -512 }
      ∧ LevelPut {} 1 (atBlock.piece.reg 1) { astr := true } ∧ LevelPut {} 2 (atBlock.piece.reg 1) { bstr := true }
      ∧ LevelPut {} 4 (atBlock.piece.reg 1) { endA := 1 }
      ∧ ((3 : BitVec 4).toNat < atBlock.piece.blk.side ∧ atBlock.piece.blk.ctlCount 51 8 < 4)
      ∧ ((atBlock.pieceOf 0).abort = none ∧ (atBlock.pieceOf 0).blk.ctlNet = (0, 8, tok1) :: [] ∧ ((atBlock.pieceOf 0).elem 0).gate = 0) :=
  ⟨⟨canRun_of rfl, rfl, regsReady_of rfl⟩, by decide +kernel, by decide +kernel, .count _ (by decide) (by decide), .cstr _ (by decide) (by decide),
   .astr _ (by decide), .bstr _ (by decide), .endA _ (by decide), by decide +kernel, by decide⟩

/-- A machine in its handler at SUPER, for a cause and an ACT. -/
def inHandler (cause act : W64) : State := one { sys := { priv := 1, tcause := cause, tstat := 4 + 8 * act, tpcs := 64 } }

theorem witness_ControlWordsComplete :
    (CanS atS 0 0 [] ∧ atS.piece.level = 0 ∧ NoHandler atS ∧ atS.piece.parked = false)
    ∧ ((one { parked := true, parkEv := true }).piece.parked = true ∧ CanS (one { parked := true, parkEv := true }) 0 0 [])
    ∧ ∀ c ∈ [(0, 0), (0, 1), (0, 2), (0x0B, 0)], CanS (inHandler c.1 c.2) 0 0 [] ∧ (inHandler c.1 c.2).piece.level ≠ 0
      ∧ (inHandler c.1 c.2).piece.active = true ∧ (inHandler c.1 c.2).piece.traps = [] := by
  refine ⟨⟨canS_atS [] rfl 0, rfl, by unfold NoHandler; decide, rfl⟩, ⟨rfl, canRun_of rfl, rfl, regsReady_of rfl⟩, ?_⟩
  intro c hc
  simp only [List.mem_cons, List.not_mem_nil, or_false] at hc
  rcases hc with rfl | rfl | rfl | rfl <;>
    exact ⟨⟨canRun_of (by decide), by decide, regsReady_of rfl⟩, by decide, by decide, by decide⟩

/-- A machine at SUPER with one translation cached. -/
def atSuper : State :=
  { one { sys := { priv := 1 }, regs := [(1, 1), (2, 64), (3, 65), (4, 3)] } with
    hub := { State.reset.hub with tlbs := [(0, [{ asid := 1, vpn := 0, bits := 30, pte := 0, ptea := 0 }])] } }

theorem witness_SystemRegistersMove :
    (CanS atSuper 0 0 [] ∧ atSuper.piece.level ≠ 0 ∧ superWrite 0x17 = false ∧ RegsReady atSuper.piece [1, 2, 3])
    ∧ (∃ m ∈ sysMasks atSuper.piece (atSuper.piece.reg 2), m.1 = 0x10 ∧ m.2.2 = true)
    ∧ (∃ m ∈ sysMasks atSuper.piece (atSuper.piece.reg 3), m.1 = 0x10 ∧ m.2.2 = false)
    ∧ ((atSuper.piece.reg 1).toNat % 4 ≤ atSuper.piece.level ∧ (atSuper.piece.reg 1).toNat % 4 ≠ 3)
    ∧ (CanS atSuper 0 0 [1, 2] ∧ (atSuper.piece.reg 1).toNat ≤ 63 ∧ (atSuper.piece.reg 1).toNat ≤ 21)
    ∧ (let s := { atSuper with pieces := [(0, { atSuper.piece with await := .drain [7] })] }
      s.piece.await = .drain [7] ∧ s.piece.level ≠ 0 ∧ (s.begun 0 0).opDone 7 3 = true)
    ∧ (Fresh atSuper ∧ ∀ id ∈ (atSuper.begun 0 0).tlbiWaits ((atSuper.hub.tlbs.map fun kv => kv.2).flatten), (atSuper.begun 0 0).opDone id 3 = true) :=
  ⟨⟨⟨canRun_of rfl, rfl, regsReady_of rfl⟩, by decide, by decide, regsReady_of rfl⟩, by decide, by decide, by decide,
   ⟨⟨canRun_of rfl, rfl, regsReady_of rfl⟩, by decide, by decide⟩, by dsimp only; decide, rfl, by decide⟩

/-! ## Traps and shared objects -/

/-- A machine whose S is behind a prefix, with a popped tack. -/
def atTrap : State := one { pre := .imx 5 64, s := { pc := 68, issued := true }, c := { pc := 8 } }
/-- The same while a handler runs. -/
def atDouble : State := one { sys := { priv := 1, tstat := 4 }, s := { pc := 68 } }
/-- A machine with a trap of C held. -/
def atHeld : State := one { traps := [{ code := 1, unit := 1, async := false, val := 5, loc := 0 }], c := { stopped := true } }

theorem witness_TrapsEnterTheHandler :
    (atTrap.piece.live = true ∧ atTrap.piece.active = false ∧ atTrap.piece.s.issued = true ∧ atDouble.piece.active = true)
    ∧ (atS.piece.s.done = none ∧ atS.piece.level = 0 ∧ atS.piece.pre = .none ∧ atS.piece.active = false
      ∧ superRead 0x35 = true ∧ superWrite 0x36 = true) ∧ atTrap.piece.pre ≠ .none
    ∧ ((atHeld.pieceOf 0).active = false ∧ (atHeld.pieceOf 0).traps = [{ code := 1, unit := 1, async := false, val := 5, loc := 0 }]
      ∧ (atHeld.pieceOf 0).abort = none ∧ (atHeld.pieceOf 0).atSeam = false ∧ (atHeld.pieceOf 0).mayTrap = true) := by decide

/-- A machine with a vault share, a barrier at its start with TARGET 1 and PHASE `ph`, and its address in register 1. -/
def atBar (ph : Byte) : State :=
  { one { vunits := 1, sys := { vwin := [], stack := 0 }, regs := [(1, 0xFE00000000000000), (2, 7)] } with
    vault := [(0, 1)] ++ if ph = 0 then [] else [(12, ph)] }
/-- One barrier event handed to the bank element. -/
def barEv (what bytes : Nat) : BarEvent := { id := 7, addr := 0, what := what, bytes := bytes, src := 0, agent := .thread 0, deps := [], rd := 3 }
def atBarEv (what bytes : Nat) : State := { atBar 0 with barEvs := [barEv what bytes] }

/-- Whether a barrier word's checks pass. -/
def okBar (s : State) (write : Bool) (f : State → Nat → Bool) : Bool :=
  okAdr ((s.begun 0 0).sAddr (s.piece.reg 1) 16 { write := write }) fun s0 v va _ _ =>
    v && !(s0.detect true va 16).poisoned true va 16 && f (s0.detect true va 16) va

theorem witness_BarriersCount :
    (CanS (atBar 7) 0 0 [1, 2] ∧ isVaultAddr ((atBar 7).piece.reg 1) = true ∧ ((atBar 7).piece.reg 1).toNat % 16 = 0
      ∧ okBar (atBar 7) true (fun _ _ => true) = true
      ∧ okBar (atBar 7) false (fun s1 v => s1.depsMet (s1.sDeps { ord := 1, scope := 3 } 0 false)
        && decide (0 ≤ (BitVec.ofNat 32 (s1.barWord v 3) - ((atBar 7).piece.reg 2).setWidth 32).toInt)) = true)
    ∧ ∀ w, w < 4 → ((atBarEv w 4).barEvs.find? fun f => f.id == 7) = some (barEv w 4) ∧ (atBarEv w 4).depsMet (barEv w 4).deps = true
      ∧ (atBarEv w 4).barHeld (barEv w 4) = false ∧ (atBarEv w 4).contended true 0 16 = false :=
  ⟨⟨⟨canRun_of (by decide +kernel), by decide +kernel, regsReady_of (by decide +kernel)⟩, by decide +kernel, by decide +kernel, by decide +kernel, by decide +kernel⟩,
   by decide +kernel⟩

/-- A machine at a notify word: register 3 of the hub holds 6, and NCFG lets domain 0 write it, and nobody register 4. -/
def atNotify : State :=
  let s := launched (one { regs := [(1, 3), (2, 2), (3, 8), (4, 4)] }) []
  { s with hub := { s.hub with notify := [(3, 6)], ncfg := [(4, { dom := 1 })] } }
/-- A machine whose page maps the hub window's notify registers, at virtual address 0. -/
def atWindow : State :=
  let s := launched ((mapped { regs := [(1, 0x4000), (2, 5)], sys := { priv := 1 } }).putLine 0x400000 (24607 - 8 + 2 ^ 46)) []
  s
/-- A notify write in flight. -/
def atNotifyOp (fn addr : Nat) : State :=
  { atNotify with ops := [{ blankOp 0 (.thread 0) .notify false addr 0 8 with id := 7, fn := fn, data := bytesOf 8 1 }] }

theorem witness_NotifyRegistersWork :
    (CanS atNotify 0 0 [1, 2] ∧ Fresh atNotify
      ∧ (atNotify.begun 0 0).depsMet ((atNotify.begun 0 0).sDeps { ord := 1, scope := 4 } 0 false) = true
      ∧ atNotify.notifyVal 3 &&& atNotify.piece.reg 2 ≠ 0 ∧ atNotify.notifyVal 3 &&& atNotify.piece.reg 3 = 0
      ∧ atNotify.threadNotify 3 = true ∧ atNotify.threadNotify 4 = false)
    ∧ (CanS atWindow 0 0 [1, 2] ∧ (atWindow.begun 0 0).knotFull (atWindow.piece.ordScope.tied 0) 2 = false
      ∧ okAdr ((atWindow.begun 0 0).sAddr (atWindow.piece.reg 1) 8 (plainAcc true 8)) (fun s1 v pa pair _ =>
        !v && pair.isNone && inHubWin pa && s1.threadMayWrite (pa - 2 ^ 42)) = true)
    ∧ ((atNotifyOp 1 3).opOf 7).isSome = true ∧ ((atNotifyOp 0 (2 ^ 42 + 0x5000 + 8 * 255)).opOf 7).isSome = true :=
  ⟨⟨⟨canRun_of (by decide +kernel), by decide +kernel, regsReady_of (by decide +kernel)⟩, by unfold Fresh; decide +kernel, by decide +kernel, by decide +kernel, by decide +kernel,
    by decide +kernel, by decide +kernel⟩,
   ⟨⟨canRun_of (by decide +kernel), by decide +kernel, regsReady_of (by decide +kernel)⟩, by decide +kernel, by decide +kernel⟩, by decide +kernel, by decide +kernel⟩

/-- A machine that posts a record of a domain at launch queue 5, which is for threads where `en`, and `full` or empty. -/
def atPost (en full : Bool) (dom : Nat) : State :=
  let s := (launched (mapped { regs := [(1, 0x1000), (2, 5)] }) []).putBytes false 0x1050 [BitVec.ofNat 8 dom]
  { s with hub := { s.hub with lq := [(5, { base := 0x8000, en := en, src := 3, tail := if full then 16 else 15 })] } }
/-- Whether the record of `s.lnch` passes its checks, and what holds there. -/
def okPost (s : State) (f : State → List Byte → LQueue → Bool) : Bool :=
  okAdr ((s.begun 0 0).sAddr (s.piece.reg 1) 128 { write := false, turned := .face }) fun s1 v pa pair _ =>
    let s2 := s1.detect v pa 128
    pair.isNone && s1.depsMet (s1.sDeps { ord := 2, scope := 4 } 0 true) && (s2.read v pa 128).integ.isNone && !(s2.read v pa 128).pois
      && f s2 (s2.view (.thread s.focusP) v pa 128 true s2.opCount).data (s2.lqOf 5)

theorem witness_LaunchWordsPost :
    (CanS (atPost true false 0) 0 0 [1, 2] ∧ Fresh (atPost true false 0))
    ∧ okPost (atPost false false 0) (fun _ _ q => !q.en) = true
    ∧ okPost (atPost true false 1) (fun s2 r q => q.en && q.src == 3 && !q.rootq && dword r 10 % 16 != s2.domain) = true
    ∧ okPost (atPost true true 0) (fun s2 r q => q.en && dword r 10 % 16 == s2.domain && decide (2 ^ q.size ≤ (q.tail - q.head).toNat)) = true
    ∧ okPost (atPost true false 0) (fun s2 r q => q.en && dword r 10 % 16 == s2.domain && decide ((q.tail - q.head).toNat < 2 ^ q.size)) = true :=
  ⟨⟨⟨canRun_of (by decide +kernel), by decide +kernel, regsReady_of (by decide +kernel)⟩, by unfold Fresh; decide +kernel⟩, by decide +kernel, by decide +kernel, by decide +kernel, by decide +kernel⟩

/-- A machine that asks for a turn of entry 1023, and one whose hub holds that turn. -/
def atTurn : State :=
  let s := launched (one { regs := [(1, 1023)], await := .none }) []
  { s with hub := { s.hub with turns := [(1023, { v := true, pages := 1 })] } }
def atTurn2 : State :=
  { one { await := .turn 1023 } with hub := { State.reset.hub with turns := [(1023, { v := true, pages := 1, wait := [(0, [])] })] } }
/-- A machine that waits for an invocation of a subgraph, loaded where `l`, at a word that is poisoned where `bad`. -/
def atFire (l : Bool) (bad : Bool := false) : State :=
  { one { await := .invoke 7 } with
    invokes := [{ id := 7, piece := 0, pair := none, vault := true, addr := 64, operand := 5, fn := 2 }]
    poison := if bad then [(lineKey true 64, true)] else []
    hub := { State.reset.hub with subgraphs := if l then [(32 * ownerOf true 64 + 2, some {})] else [] } }

theorem witness_TurnsAreMade :
    (CanS atTurn 0 2 [1] ∧ Fresh atTurn ∧ (atTurn.piece.reg 1).toNat = 1023 ∧ (atTurn.turnEnt 1023).v = true
      ∧ (atTurn.turnEnt 1023).dom = atTurn.domain ∧ (atTurn.begun 0 0).depsMet ((atTurn.begun 0 0).sDeps (atTurn.piece.ordAs 2) 0 true) = true)
    ∧ (atTurn2.turnEnt 1023).wait = (0, []) :: [] ∧ atTurn2.depsMet [] = true ∧ (atTurn2.pieceOf 0).await = .turn 1023
    ∧ (([false, true].map fun l => ((atFire true l).detect true 64 8 |>.read true 64 8).pois) = [false, true])
    ∧ (((atFire true true).detect true 64 8 |>.read true 64 8).integ = none)
    ∧ ∀ l ∈ [true, false], ((atFire l).invokes.find? fun w => w.id == 7).isSome = true ∧ (atFire l).contended true 64 8 = false
      ∧ ((atFire l).pieceOf 0).await = .invoke 7 ∧ ((atFire l).subgraph (32 * ownerOf true 64 + 2)).isSome = l :=
  ⟨⟨⟨canRun_of (by decide +kernel), by decide +kernel, regsReady_of (by decide +kernel)⟩, rfl, by decide +kernel, by decide +kernel, by decide +kernel, by decide +kernel⟩,
   by decide +kernel, by decide +kernel, by decide +kernel, by decide +kernel, by decide +kernel, by decide +kernel⟩


/-! ## The copy engine -/

/-- A descriptor: MODE 0, memory (SRCK 0) into queue 1 (DSTK 1), the fields given over it. -/
def aDesc (fs : List (Nat × Nat)) : Desc :=
  fs.foldl (fun d x => SMap.set 0 d x.1 (BitVec.ofNat 64 x.2)) [(15, 1), (16, 1)]
/-- A machine at a word of C: a record with two slots, data queues, descriptor 2 as given. -/
def atC (p : Piece) (d : Desc) : State :=
  launched (one { p with sd := [(2, d)], vunits := 1, sys := { vwin := [], stack := 0 } }) [(6, 2 * 2 ^ 18), (7, 0x5555555555555555)]
/-- A running stream of descriptor 2. -/
def aStream (d : Desc) : Stream := { st := .running, sd := 2, desc := d }
def scanOk (r : RepRes) : Bool := match r with
  | .ok _ => true
  | _ => false

/-- Memory to memory, with barrier at vault address 0. -/
def barDesc : Desc := aDesc [(15, 0), (3, 0), (20, 2 ^ 31)]
/-- Scatter from queue 3 to memory with a journal at vault address 64. -/
def jrnDesc : Desc := aDesc [(0, 3), (13, 2), (14, 3), (15, 0), (7, 1), (23, 64)]

theorem witness_StreamsStartAndJournal :
    (CanRun (atC {} (aDesc [])) 1 0 ∧ (atC {} (aDesc [])).freeSlot = some 0
      ∧ ((atC {} (aDesc [])).begun 1 0).descTrap (aDesc []) (wordOf (.cGo 0 2)) = none
      ∧ ((atC {} (aDesc [])).begun 1 0).descPlace (aDesc []) = none ∧ dfld (aDesc []) 20 < 2 ^ 31)
    ∧ (((atC {} (aDesc [(15, 0), (3, 1), (20, 2 ^ 31)])).begun 1 0).descTrap (aDesc [(15, 0), (3, 1), (20, 2 ^ 31)]) (wordOf (.cGo 0 2)) = none
      ∧ ((atC {} (aDesc [(15, 0), (3, 1), (20, 2 ^ 31)])).begun 1 0).descPlace (aDesc [(15, 0), (3, 1), (20, 2 ^ 31)]) = none)
    ∧ ((atC {} (aDesc [(2, 14)])).begun 1 0).descTrap (aDesc [(2, 14)]) (wordOf (.cGo 0 2)) = some (cFORMAT, wordOf (.cGo 0 2))
    ∧ (((atC {} jrnDesc).begun 1 0).descTrap jrnDesc (wordOf (.cGo 0 2)) = none ∧ ((atC {} jrnDesc).begun 1 0).descPlace jrnDesc = none
      ∧ (((atC {} jrnDesc).begun 1 0).detect true 64 (8 + 4 * (dfld jrnDesc 24 + 1))).journal jrnDesc = some (0, []))
    ∧ (atC {} []).piece.latestSlot 2 = none
    ∧ ((atC { slots := [(1, aStream jrnDesc)] } []).piece.latestSlot 2 = some 1
      ∧ (∀ x ∈ (atC { slots := [(1, aStream jrnDesc)] } []).updates 0 (some 1), 0 ≤ x.2.2)) :=
  ⟨⟨canRun_of (by decide +kernel), by decide +kernel⟩, by decide +kernel, by decide +kernel, by decide +kernel, by decide +kernel, by decide +kernel⟩

/-- A machine at a word of C with link queue 4 going out of its sequence. -/
def atLnk : State :=
  { atC {} [] with links := { State.reset.links with queues := [(9, { launch := (atC {} []).piece.launch, lq := 4, seqOut := some (atC {} []).piece.seqPos, live := true })] } }
/-- The same with word 5 of C at 0x600004, after a rep word at 0x600000. -/
def atRep : State := (mapped { c := { pc := 0x600000 }, m := { pc := 0x600000 } }).putLine 0x600000 (0x40000000 * 2 ^ 32)
def atRepM : State := (mapped { c := { pc := 0x600000 }, m := { pc := 0x600000 } }).putLine 0x600000 (0x80000000 * 2 ^ 32)
/-- In the last or an earlier word of a block, in its last or an earlier pass. -/
def inRep (left passes : Nat) : State := atC { c := { pc := 8, rep := some (4, 2, left, passes) } } []
def credited : State := atC { slots := [(1, aStream (aDesc [(10, 1)]))], c := { waitQ := true } } []

theorem witness_CopyWordsComplete :
    (CanRun (atC {} barDesc) 1 0 ∧ (atC {} barDesc).piece.slotsOf 2 = [] ∧ (atC {} barDesc).piece.slots = []
      ∧ (atC {} barDesc).piece.runningSlot 2 = none)
    ∧ (CanRun credited 1 0 ∧ credited.piece.runningSlot 2 = some 1 ∧ dfld (credited.piece.slot 1).desc 10 = 1
      ∧ (credited.piece.slot 1).st ≠ .free ∧ credited.piece.c.waitQ = true ∧ (credited.piece.slot 1).flush = false
      ∧ credited.piece.slotsOf 2 = [1])
    ∧ (∀ part : Bool, FlushDue { aStream (aDesc [(10, 1)]) with fill := if part then [{ valid := true }] else [] } ↔ part = true)
    ∧ (2 ^ 31 ≤ dfld barDesc 20 ∧ dfld barDesc 20 % 2 ^ 31 % 16 = 0
      ∧ ((atC {} barDesc).begun 1 0).inWindow (dfld barDesc 20 % 2 ^ 31) 16 { write := true } = true)
    ∧ (CanRun atLnk 1 0 ∧ atLnk.linkKey 4 true = some 9 ∧ (atLnk.linkQ 9).lost = false ∧ (atLnk.linkQ 9).send.length < 16)
    ∧ (CanRun atRep 1 0 ∧ CanRun atRepM 2 0 ∧ scanOk ((atRep.begun 1 0).scanRep 1 (2 ^ 55) 1 ((atRep.piece.eng 1).pc + 4)) = true
      ∧ scanOk ((atRepM.begun 2 0).scanRep 2 (2 ^ 55) 1 ((atRepM.piece.eng 2).pc + 4)) = true)
    ∧ CanRun (inRep 2 1) 1 0 ∧ CanRun (inRep 1 2) 1 0 ∧ CanRun (inRep 1 1) 1 0 :=
  ⟨⟨canRun_of (by decide +kernel), by decide +kernel⟩, ⟨canRun_of (by decide +kernel), by decide +kernel⟩, by unfold FlushDue; decide +kernel, by decide +kernel,
   ⟨canRun_of (by decide +kernel), by decide +kernel⟩,
   ⟨canRun_of (by decide +kernel), canRun_of (by decide +kernel), by decide +kernel, by decide +kernel⟩,
   canRun_of (by decide +kernel), canRun_of (by decide +kernel), canRun_of (by decide +kernel)⟩

/-- A machine in which a service ends after one step, with stream 1 as given and register file 0. -/
def atServe (x : Stream) : State := { mapped { slots := [(1, x)] } with choices := [1] }
def okAg (r : AgAdr) (f : Place → Bool) : Bool := match r with
  | .ok _ [p] => f p
  | _ => false
/-- The four streams: sixteen lanes ready; every element pushed; an element to store; a lane to scatter. -/
def toQueue (fill : List LaneV) (idx : Nat) : Stream := { aStream (aDesc [(10, 1), (15, 1)]) with fill := fill, idx := idx, credit := 2 }
def toMemory : Stream := { aStream (aDesc [(15, 0), (3, 1), (19, 0x1000)]) with elems := [1, 2, 3, 4] }
def toScatter : Stream := { aStream (aDesc [(0, 3), (13, 2), (15, 0), (18, 0x1000), (31, 1)]) with fill := [{ valid := true, val := 5, coord := 3 }] }
/-- A served stream of a machine. -/
theorem served_of {s : State} {p k : Nat} {cs : List Nat} (h : ((s.pieceOf p).live && (s.pieceOf p).abort.isNone && ((s.pieceOf p).slot k).st == .running
    && ((s.pieceOf p).slot k).last != some s.time && (s.at p).canServe p ((s.pieceOf p).slot k) && (s.at p).generatorFor k && s.choices == 1 :: cs) = true) : Served s p k cs := by
  simp only [Bool.and_eq_true, Option.isNone_iff_eq_none, beq_iff_eq, bne_iff_ne] at h
  obtain ⟨⟨⟨⟨⟨⟨a, b⟩, c⟩, d⟩, e⟩, f⟩, g⟩ := h
  exact ⟨⟨a, b⟩, c, d, e, f, g⟩

/-- An update of a bank element, journalled or not. -/
def anUpdate (fmt : Nat) (j : Option (Nat × Nat)) : Scatter :=
  { id := 7, piece := 0, slot := none, elem := 0, vault := true, addr := 0x40, va := 0, fmt := fmt, nib := false, sop := 0, val := 3, seq := 0, jrnl := j, scale := none }
def atUpdate (fmt : Nat) (j : Option (Nat × Nat)) : State := { one {} with scatters := [anUpdate fmt j] }

theorem witness_StreamsMoveAndEnd :
    (Served (atServe (toQueue (List.replicate 16 { valid := true }) 0)) 0 1 []
      ∧ (let d := (toQueue [] 0).desc; dfld d 0 = 0 ∧ dfld d 13 = 0 ∧ dfld d 15 = 1 ∧ dfld d 2 < 10 ∧ dfld d 3 = 0 ∧ dfld d 20 < 2 ^ 31))
    ∧ (Served (atServe (toQueue [] 1)) 0 1 [] ∧ dtotal (toQueue [] 1).desc ≤ 1)
    ∧ (Served (atServe toMemory) 0 1 [] ∧ (let d := toMemory.desc; dfld d 0 = 0 ∧ dfld d 13 = 0 ∧ dfld d 15 = 0 ∧ 0 < dtotal d ∧ fmtBits (dfld d 2) ≠ 4
        ∧ dfld d 20 < 2 ^ 31
        ∧ okAg (((atServe toMemory).atService 0 1 []).agPlaces (BitVec.ofNat 64 (dfld d 19) + BitVec.ofInt 64 (doff d 0 * (fmtBits (dfld d 2) / 8 : Nat)))
          (elemBytes (dfld d 2)) (dfld d 1) { write := true, turned := if dfld d 6 = 1 then .liningOnly else .refuse }) (fun p => p.n == 4) = true))
    ∧ (Served (atServe toScatter) 0 1 [] ∧ (let d := toScatter.desc; dfld d 0 = 3 ∧ toScatter.check ≤ toScatter.seq ∧ toScatter.seq ∉ toScatter.used ∧ fmtBits (dfld d 2) ≠ 4
        ∧ okAg (((atServe toScatter).atService 0 1 []).agPlaces (BitVec.ofNat 64 (dfld d 18) + BitVec.ofInt 64 (dstride d 0 * 3 * (fmtBits (dfld d 2) / 8 : Nat)))
          (elemBytes (dfld d 2)) (dfld d 1) { write := true, host := false, turned := if dfld d 6 = 1 then .liningOnly else .refuse })
          (fun p => p.pair.isNone) = true))
    ∧ (((one { slots := [(1, { st := .ending })] }).pieceOf 0).slot 1).st = .ending
    ∧ ∀ f ∈ [0, 9], ∀ j ∈ [none, some (128, 3)], (atUpdate f j).scatters.find? (fun x => x.id == (anUpdate f j).id) = some (anUpdate f j)
      ∧ (atUpdate f j).scatterBehind (anUpdate f j) = false ∧ (∀ p ∈ (anUpdate f j).places, (atUpdate f j).contended true p.1 p.2 = false)
      ∧ ((match j with | some i => !(atUpdate f j).journalFull i | none => true) = true) ∧ ((atUpdate f j).readParts true (anUpdate f j).places).integ = none
      ∧ ((atUpdate f j).readParts true (anUpdate f j).places).pois = false :=
  ⟨⟨served_of (by decide +kernel), by decide +kernel⟩, ⟨served_of (by decide +kernel), by decide +kernel⟩,
   ⟨served_of (by decide +kernel), by decide +kernel⟩, ⟨served_of (by decide +kernel), by decide +kernel⟩, by decide +kernel, by decide +kernel⟩

/-! ## The matrix engine -/

theorem canM_of {s : State} {t : BitVec 4} (h : CanRun s 2 t) (i : s.piece.mx.nest = none) : CanM s t := ⟨h, i⟩

/-- A machine at a word of M. -/
def atM (m : Matrix) : State := { one { mx := m, q := [(2, [{ tok := some (dataTok [5]) }])] } with hub := { State.reset.hub with toilref := toileSig } }
/-- Planes of the one core: its face Loaded, its lining as given. -/
def planes1 (l : BPlane) : SMap BPlane := [(0, { st := .loaded, krows := 1 }), (1, l)]
/-- Bindings of every role to `y` queues. -/
def bound : Matrix := { bindA := [(0, some 1)], bindB := [(0, some 2)], res := .sel 257, planes := planes1 { st := .loaded, fresh := true } }
def mIsTok (r : MTok) : Bool := match r with
  | .tok .. => true
  | _ => false

theorem witness_MatrixSettingsComplete :
    CanM (atM {}) 0 ∧ ((1 ≤ (10 : BitVec 4).toNat ∧ (3 : BitVec 4).toNat ≤ 6) ∧ ¬(1 ≤ (0 : BitVec 4).toNat))
    ∧ (0 < (atM {}).piece.mh ∧ (atM {}).selHere 257 true = true ∧ (atM {}).selHere 2 false = true ∧ (atM {}).piece.mh ≤ 7)
    ∧ (dfld (aDesc [(15, 0), (2, 9)]) 0 = 0 ∧ dfld (aDesc [(15, 0), (2, 9)]) 15 = 0 ∧ dfld (aDesc [(15, 0), (2, 9)]) 3 = 0
      ∧ dfld (aDesc [(15, 0), (2, 9)]) 2 < 10 ∧ dscale (aDesc [(15, 0), (2, 9)]) = 0x3F800000)
    ∧ ((atM {}).piece.mx.drains = [] ∧ ((atM {}).begun 2 0).drainWritesDone = true) :=
  ⟨canM_of (canRun_of (by decide +kernel)) (by decide +kernel), by decide, by decide +kernel, by decide +kernel, by decide +kernel⟩

theorem witness_MatrixWordsRun :
    (CanM (atM bound) 0 ∧ rowsFit [{}] 5 = true ∧ ((atM bound).begun 2 0).nestTrap false (wordOf (.mGo 0 0 5)) = none
      ∧ (atM bound).piece.mx.toile = false ∧ (atM bound).hub.toilcfg.toNat % 65536 = 0)
    ∧ rowsFit [{ count := 4, cstr := 200 }] 5 = false ∧ ((atM bound).begun 2 0).nestTrap false (wordOf (.mMma 0 1 5)) = none
    ∧ (CanM (atM { bound with cnt := 1 }) 0 ∧ (atM { bound with cnt := 1 }).piece.mx.cnt ≠ 0)
    ∧ ((atM bound).piece.mx.cnt = 0 ∧ (atM bound).piece.mx.res ≠ .none ∧ (atM bound).piece.mx.drains = []
      ∧ ((atM { bound with cnt := 1 }).begun 2 0).drainWritesDone = true)
    ∧ ((atM bound).piece.mw ≤ 16 ∧ ∀ i, i < (atM bound).piece.mh → SMap.get none (atM bound).piece.mx.bindB i ≠ none)
    ∧ (∀ i, i < (atM { bound with cnt := 1, ldRow := [(0, 1)] }).piece.mh → 1 ≤ SMap.get 0 (atM { bound with cnt := 1, ldRow := [(0, 1)] }).piece.mx.ldRow i)
    ∧ ((atM { bound with cnt := 7 }).selHere 2 false = true ∧ 8 * (atM { bound with cnt := 7 }).piece.mw ≤ 8
      ∧ mIsTok (((atM { bound with cnt := 7 }).begun 2 0).mTake 2 0 (wordOf (.mScl 0 2)) false) = true) :=
  ⟨⟨canM_of (canRun_of (by decide +kernel)) (by decide +kernel), by decide +kernel⟩, by decide +kernel, by decide +kernel,
   ⟨canM_of (canRun_of (by decide +kernel)) (by decide +kernel), by decide +kernel⟩, by decide +kernel, by decide +kernel, by decide +kernel,
   by decide +kernel⟩

/-- The hypotheses of the second part of MatrixSettingsComplete, on planes and accumulators. -/
theorem witness_PlaneWordsComplete :
    CanM (atM bound) 0 ∧ (atM bound).piece.mw ≤ 16 ∧ (atM bound).piece.swapReady = true ∧ (511 : BitVec 9).toNat + (0 : BitVec 9).toNat + 1 ≤ 512
    ∧ (atM bound).choose.1 = 0 ∧ (atM bound).hub.toilref = toileSig :=
  ⟨canM_of (canRun_of (by decide +kernel)) (by decide +kernel), by decide +kernel, by decide +kernel, by decide +kernel, by decide +kernel, rfl⟩

/-- A machine in whose nest the given actions are left. -/
def atNest (todo : List NestAct) (last : Bool) : State := atM { bound with nest := some { top := 0, rb := 5, idx := [0], last := last, todo := todo, rows := [] } }
/-- A machine in the middle of a drain, at token `tok`. -/
def atDrain (tok : Nat) : State := atM { bound with drains := [{ rows := [5, 6], tok := tok }] }

theorem witness_NestsPassAndDrain :
    (∀ t ∈ [([.pass 511], false), ([.popA], false), ([.swap], false), ([], true)],
      ((atNest t.1 t.2).pieceOf 0).live = true ∧ ((atNest t.1 t.2).pieceOf 0).m.stopped = false ∧ ((atNest t.1 t.2).pieceOf 0).abort = none
      ∧ ((atNest t.1 t.2).pieceOf 0).mx.nest.isSome = true ∧ ((atNest t.1 t.2).pieceOf 0).mw ≤ 16 ∧ ((atNest t.1 t.2).pieceOf 0).mx.bindC = none
      ∧ ((atNest t.1 t.2).pieceOf 0).badCell = none ∧ ((atNest t.1 t.2).pieceOf 0).badAcc 511 = none ∧ ((atNest t.1 t.2).pieceOf 0).swapReady = true)
    ∧ ∀ n ∈ [0, 7], ((atDrain n).pieceOf 0).live = true ∧ ((atDrain n).pieceOf 0).m.stopped = false ∧ ((atDrain n).pieceOf 0).abort = none
      ∧ ((atDrain n).pieceOf 0).mx.drains = [{ rows := [5, 6], tok := n }] ∧ ((atDrain n).pieceOf 0).mx.res = .sel 257
      ∧ selOf 257 = .y 1 ∧ (((atDrain n).pieceOf 0).yOf 1).length < 16 ∧ ((atDrain n).pieceOf 0).mx.accBad = [] := by decide +kernel

/-! ## The fabric engine -/

theorem canF_of {s : State} {t : BitVec 4} (h : CanRun s 3 t) (b : s.piece.blk.side ≠ 0) : CanF s t := ⟨h, b⟩
/-- A machine with a block of side 4 and an empty image for it at 0x700000, after bytes `h` of its header. -/
def atF (b : Block) (counted : Bool) (h : List Byte) : State :=
  { (launched (mapped { blk := { b with side := 4 }, f := { counted := counted } }) [(1, 0x700000)]).putBytes false 0x700000 h with time := 9 }
def imageOk (m : Image) : Bool := match m with
  | .ok .. => true
  | _ => false
def imageBad (m : Image) : Bool := match m with
  | .bad .. => true
  | _ => false
/-- Edge port 2, on the north side of element 2, of class 1: it takes tokens of queue 3. -/
def bound2 : SMap Elem := [(2, { face := { edge := [(0, 256 + 3)] } })]

theorem witness_FabricWordsComplete :
    (CanF (atF {} false [4, 1]) 0 ∧ ((atF {} false [4, 1]).begun 3 0).depsMet ((atF {} false [4, 1]).begun 3 0).piece.f.deps = true)
    ∧ (∀ r ∈ [([] : SMap Plane), [(1, {})]], (atF { loading := (0, {}) :: r } true []).piece.f.counted = true
      ∧ (atF { loading := (0, {}) :: r } true []).piece.blk.loading = (0, {}) :: r)
    ∧ (imageOk (((atF {} false [4, 1]).begun 3 0).image (((atF {} false [4, 1]).begun 3 0).fimg + BitVec.ofNat 64 (64 * 0))) = true
      ∧ imageBad (((atF {} false [4, 2]).begun 3 0).image (((atF {} false [4, 2]).begun 3 0).fimg + BitVec.ofNat 64 (64 * 0))) = true)
    ∧ ((atF { elems := bound2 } false []).piece.portCls 2 = 1 ∧ 2 < 4 * (atF { elems := bound2 } false []).piece.blk.side
      ∧ (atF {} false []).piece.f.counted = false ∧ (atF {} true []).piece.f.counted = true ∧ ((atF {} true []).piece.edge 2).hem = none)
    ∧ ((atF { armed := true } false []).piece.blk.armed = true ∧ (atF {} false []).piece.blk.armed = false
      ∧ (atF {} false []).piece.blk.lastMove + 1 < (atF {} false []).time ∧ (atF {} false []).nodesDone = true
      ∧ (atF {} false []).piece.blk.turning = false)
    ∧ (SMap.get none (atF { snk := [(1, some 17)] } false []).piece.blk.snk 1 = some 17 ∧ SMap.get none (atF {} false []).piece.blk.snk 1 = none)
    ∧ ((∀ i ∈ blockElems 4, tagLayOk (setTagW ((atF {} false []).piece.layoutOf i) (0, 16)) = true)
      ∧ (∃ i ∈ blockElems 4, tagLayOk (setTagW ((atF {} false []).piece.layoutOf i) (0, 17)) = false))
    ∧ (pleatOk 4 (fun i => if i = 0 then { pleat := 2 } else {}) 0 = true ∧ pleatOk 4 (fun i => if i = 0 then { pleat := 17 } else {}) 0 = false)
    ∧ (CanRun (one {}) 3 0 ∧ (one {}).piece.blk.side = 0) :=
  ⟨⟨canF_of (canRun_of (by decide +kernel)) (by decide +kernel), by decide +kernel⟩, by decide +kernel, by decide +kernel, by decide +kernel, by decide +kernel, by decide +kernel,
   by decide +kernel, by decide +kernel, canRun_of (by decide +kernel), by decide +kernel⟩

/-- The hypotheses of the second part of FabricWordsComplete, on `f.turn`. -/
theorem witness_TurnsStart :
    CanF (atF { elems := bound2 } false []) 0
    ∧ ((atF { elems := bound2 } false []).piece.f.counted = false ∧ (atF { elems := bound2 } false []).piece.blk.turning = false
      ∧ (atF { elems := bound2 } false []).piece.turnPorts = [2])
    ∧ (atF { turning := true } false []).piece.blk.turning = true
    ∧ ((atF { elems := bound2, turning := true } true []).piece.f.counted = true
      ∧ ∀ k ∈ (atF { elems := bound2, turning := true, edges := [(2, { mark := 3 })] } true []).piece.turnPorts,
        ((atF { elems := bound2, turning := true, edges := [(2, { mark := 3 })] } true []).piece.edge k).mark = 3) :=
  ⟨canF_of (canRun_of (by decide +kernel)) (by decide +kernel), by decide +kernel, by decide +kernel, by decide +kernel⟩

/-! ## The elements of a block -/

theorem canFire_of {s : State} {m : Mv} {k : Token} (h : (s.piece.live && s.piece.moveState s.focusE s.focusS m s.time == .ready k
    && (s.planeBad s.focusE s.focusS).isNone && s.actor.gate == 0
    && (k.kind != .hem || 4 ≤ m.src || (tagNext s.facing.plane.tagLay s.actor.tagCtr k.level.toNat).isSome)) = true) : CanFire s m k := by
  simp only [Bool.and_eq_true, Bool.or_eq_true, beq_iff_eq, bne_iff_ne, decide_eq_true_eq, Option.isNone_iff_eq_none] at h
  obtain ⟨⟨⟨⟨a, b⟩, c⟩, d⟩, e⟩ := h
  refine ⟨a, b, c, d, fun x y => ?_⟩
  rcases e with (e | e) | e
  · exact absurd x e
  · omega
  · intro n; simp [n] at e

/-- A token of kind `k` whose first two lanes are valid. -/
def tokOf (k : TokKind) : Token := { dataTok [5, 7] with kind := k, level := 1 }
/-- A machine whose element 0 has at input 1 a token of kind `k`, tokens of kind `q` at every operand port, and the face given. -/
def atEl (k q : TokKind) (f : Plane) (x : Elem) : State :=
  { mapped { blk := { side := 4, armed := true, elems := [(0, { x with
      inb := [(1, [{ tok := tokOf k, avail := 0 }])], face := f
      ports := [24, 25, 27, 28, 31, 33, 34, 37].map fun c => (c, { tok := some (tokOf q) }) })] } } with time := 9 }
/-- The same with no operand waiting. -/
def atBare (k : TokKind) (f : Plane) (x : Elem) : State :=
  { mapped { blk := { side := 4, armed := true, elems := [(0, { x with inb := [(1, [{ tok := tokOf k, avail := 0 }])], face := f })] } } with time := 9 }

theorem witness_MovesWriteTheirPort :
    ∀ d ∈ [4, 7, 9, 18, 21, 23, 24, 25, 27, 28, 31, 33, 34, 37, 42], ∀ k ∈ [TokKind.data, .hem],
      CanFire (atBare k {} {}) (opMv d 0 0 1 15 0 0) (tokOf k) := by
  intro d hd k hk
  refine canFire_of ?_
  revert d k
  decide +kernel

theorem witness_LaneOperationsStart :
    (∀ i ∈ [(0 : BitVec 8), 128], ∀ w ∈ (binaryRows 0 1 15 0 i).map (·.2.1), ∀ k ∈ [TokKind.data, .hem],
      CanFire (atEl k k {} {}) (opMv w.1 w.2 0 1 15 0 i.toNat) (tokOf k))
    ∧ (∀ w ∈ (binaryRows 0 1 15 0 0).map fun r => (r.2.1, r.2.2.1.1), ∀ k ∈ [(TokKind.data, TokKind.hem), (.hem, .data)],
      (((atEl k.1 k.2 {} {}).actor.port w.2).tok = some (tokOf k.2)) ∧ CanFire (atEl k.1 k.2 {} {}) (opMv w.1.1 w.1.2 0 1 15 0 0) (tokOf k.1))
    ∧ (∀ w ∈ (unaryLaneRows {} 0 1 15 0 0 0 0 0).map (·.2.1), ∀ k ∈ [TokKind.data, .hem], CanFire (atBare k {} {}) w (tokOf k))
    ∧ (∀ w ∈ [(51, 3), (51, 4), (50, 0), (50, 5)], ∀ k ∈ [TokKind.data, .hem], CanFire (atEl k k {} {}) (opMv w.1 w.2 0 1 15 0 0) (tokOf k))
    ∧ ∀ p ∈ [24, 25, 27, 28], ∀ k ∈ [TokKind.data, .hem], ((atEl k k {} {}).actor.port p).tok = some (tokOf k) := by
  refine ⟨fun i hi w hw k hk => canFire_of ?_, fun w hw k hk => ⟨?_, canFire_of ?_⟩, fun w hw k hk => canFire_of ?_,
    fun w hw k hk => canFire_of ?_, ?_⟩
  · revert i w k; decide +kernel
  · revert w k; decide +kernel
  · revert w k; decide +kernel
  · revert w k; decide +kernel
  · revert w k; decide +kernel
  · decide +kernel

/-- The partial state of a running sum. -/
def opened : Elem := { part := { accOpen := true, accLanes := List.replicate 16 { valid := true, val := 3 }, accmOpen := true
                                 accmLanes := List.replicate 16 { valid := true, val := 3 }, scanOpen := true, scanSum := 3 } }

theorem witness_ReductionsStart :
    (∀ v ∈ [0, 1, 2, 3, 4, 5, 6], ∀ f ∈ [(0 : BitVec 1), 1], ∀ k ∈ [TokKind.data, .hem], ∀ x ∈ [({} : Elem), opened],
      CanFire (atEl k k {} x) (opMv 54 v 0 1 15 0 (if v = 3 then 0 else f.toNat)) (tokOf k))
    ∧ opened.part.accLanes.length = 16 ∧ opened.part.accmLanes.length = 16
    ∧ ((opMv 54 6 0 1 15 0 0).shape 0 (tokOf .data)).lanes.length = 16 := by
  refine ⟨fun v hv f hf k hk x hx => canFire_of ?_, by decide, by decide, by decide⟩
  revert v f k x
  decide +kernel

/-! ## The exchange unit and the memory nodes -/

/-- What `pack` and the others may hold. -/
def holding : Elem := { part := { packLanes := List.replicate 9 { valid := true, val := 1 }, packKind := .sparse, packPos := 9
                                  reord := List.replicate 7 { valid := true, val := 2 }, topk := [{ valid := true, val := 2, coord := 1 }]
                                  topPos := 3, spa := [(4, some 1)] } }

theorem pairs_of {x : Elem} {k : Token} {ps : List Nat} (h : (ps.all fun p => match (x.port p).tok with
    | some z => if k.kind = .hem then z.kind == .hem && z.level == k.level else z.kind != .hem
    | none => true) = true) : Pairs x k ps := by
  intro p hp z hz
  have := List.all_eq_true.mp h p hp
  rw [hz] at this
  refine ⟨fun e => ?_, fun e => ?_⟩ <;> simp_all

theorem witness_ExchangeOperationsStart :
    (∀ w ∈ [(55, 0, 0), (55, 0, 3), (55, 1, 0), (55, 5, 0), (55, 6, 0), (55, 7, 0), (56, 2, 0), (56, 2, 1), (56, 3, 0)], ∀ k ∈ [TokKind.data, .hem],
      ∀ x ∈ [({} : Elem), holding], CanFire (atEl k k {} x) (opMv w.1 w.2.1 0 1 15 0 w.2.2) (tokOf k))
    ∧ ∀ k ∈ [TokKind.data, .hem], Pairs (atEl k k {} {}).actor (tokOf k) [33] ∧ Pairs (atEl k k {} {}).actor (tokOf k) [33, 34] := by
  refine ⟨fun w hw k hk x hx => canFire_of ?_, fun k hk => ⟨pairs_of ?_, pairs_of ?_⟩⟩
  · revert w k x; decide +kernel
  · revert k; decide +kernel
  · revert k; decide +kernel

def tookOk (r : MergeRes) : Bool := match r with
  | .ok _ => true
  | _ => false
/-- A shape of 2 by 3 lanes in c0, the second index first; and one too large. -/
def shape23 : Plane := { consts := [(0, 1 + 2 * 2 ^ 6 + 3 * 2 ^ 18 + 1 * 2 ^ 28)] }
/-- An element with the isect pair on inputs 1 and 2, sparse tokens at both. -/
def atIsect : State :=
  { one { blk := { side := 4, armed := true, elems := [(0, { inb := [(1, [{ tok := { tokOf .sparse with lanes := [{ valid := true, val := 1, coord := 4 }] }, avail := 0 }]),
      (2, [{ tok := { tokOf .sparse with lanes := [{ valid := true, val := 2, coord := 4 }] }, avail := 0 }])] })] } } with time := 9 }

theorem witness_HoldingOperationsStart :
    (∀ w ∈ [(55, 2, 0), (56, 0, 0), (56, 0, 127), (56, 1, 0), (55, 3, 0), (55, 4, 0)], ∀ k ∈ [TokKind.data, .sparse, .hem], ∀ x ∈ [({} : Elem), holding],
      CanFire (atEl k k shape23 x) (opMv w.1 w.2.1 0 1 15 0 w.2.2) (tokOf k))
    ∧ (let v := (shape23.const 0).toNat; v < 2 ^ 48 ∧ v % 64 + 1 = 2 ∧ v / 2 ^ 6 % 64 + 1 = 3 ∧ v / 2 ^ 18 % 1024 = 3 ∧ v / 2 ^ 28 % 1024 = 1)
    ∧ (∀ v ∈ (tokOf .sparse).lanes, v.coord.toNat < 512) ∧ holding.part.spa.length ≤ 512
    ∧ (∀ m ∈ [MergeMode.merge, .union], tookOk ((holding.part.merge m).take m false { tokOf .sparse with lanes := [{ valid := true, val := 1, coord := 4 }] }) = true)
    ∧ (atIsect.piece.live = true ∧ atIsect.piece.isectReady atIsect.focusE 1 2 atIsect.time = true
      ∧ (atIsect.piece.isectHead atIsect.focusE 1 false atIsect.time).isSome = true
      ∧ (atIsect.piece.isectHead atIsect.focusE 2 true atIsect.time).isSome = true
      ∧ tookOk (({} : MergeSt).take .isect false { tokOf .sparse with lanes := [{ valid := true, val := 1, coord := 4 }] }) = true) := by
  refine ⟨fun w hw k hk x hx => canFire_of ?_, ?_, ?_, ?_, ?_, ?_⟩
  · revert w k x; decide +kernel
  all_goals decide +kernel

def agOk (r : AgAdr) : Bool := match r with
  | .ok _ ps => ps.all (·.pair.isNone)
  | _ => false
/-- Constants c6 and c7: elements of format 2 or 0 from 0x2000, a stride of one element. -/
def nodeFace (fmt : Nat) : Plane := { consts := [(6, 0x2000), (7, BitVec.ofNat 64 (fmt + 4 * 2 ^ 8))] }

theorem witness_MemoryNodesRun :
    (∀ v ∈ [0, 1, 2], ∀ o ∈ [0, 3], ∀ k ∈ [TokKind.data, .hem], ∀ f ∈ [0, 2],
      CanFire (atEl k k (nodeFace f) {}) (opMv 57 v 0 1 15 0 (if v = 0 then 0 else o)) (tokOf k))
    ∧ (∀ f ∈ [0, 2], nodeFmt (nodeFace f) < 10
      ∧ agOk (State.nodePlaces (elemBytes f) (nodeSwz (nodeFace f)) { write := false, turned := .face } [nodeAdr (nodeFace f) 5, nodeAdr (nodeFace f) 7]
          (atEl .data .data (nodeFace f) {})) = true
      ∧ agOk (State.nodePlaces (elemBytes f) (nodeSwz (nodeFace f)) { write := true, host := false } [nodeAdr (nodeFace f) 0, nodeAdr (nodeFace f) 0]
          (atEl .data .data (nodeFace f) {})) = true)
    ∧ (atEl .data .data (nodeFace 0) {}).actor.memOps = [] := by
  refine ⟨fun v hv o ho k hk f hf => canFire_of ?_, ?_, ?_⟩
  · revert v o k f; decide +kernel
  all_goals decide +kernel

/-! ## The block around its elements -/

/-- A machine with a running block of side 4, at cycle 9. -/
def atBlk (p : Piece) (b : Block) : State := { one { p with blk := { b with side := 4, armed := true } } with time := 9 }
/-- An operation of the ALU whose result is due, behind one of the FMU. -/
def waitingOps : List Flight := [{ fam := 51, due := 12, outs := [(29, tok1)] }, { fam := 48, due := 9, outs := [(26, tok1)], fl := 5 }]
/-- A face whose one move goes from input 3 to output 1: `(any, w) (e, all, pass)`. -/
def westToEast : Plane := { slots := [(0, BitVec.ofNat 32 ((encodeMove (.move 0 3 5 15 0)).getD 0))] }

theorem witness_TokensMoveThroughTheBlock :
    (let s := atBlk {} { elems := [(0, { flight := waitingOps })] }
      let x := (s.pieceOf 0).elem 0
      Acting s 0 ∧ x.flight = [{ fam := 51, due := 12, outs := [(29, tok1)] }] ++ { fam := 48, due := 9, outs := [(26, tok1)], fl := 5 } :: []
      ∧ unitOf 51 ≠ unitOf 48 ∧ (s.at 0).updatesDone 0 none = true ∧ (x.port 26).open s.time = true)
    ∧ (∀ n ∈ [({ face := westToEast } : Elem), {}, { face := { route := [(3, 2)] } }],
      let s := atBlk {} { elems := [(0, { ports := [(5, { tok := some tok1 })] }), (1, n)] }
      Acting s 0 ∧ ((s.pieceOf 0).pleat 0 false).count = 1 ∧ neighbour 4 0 1 = some 1
      ∧ (((s.pieceOf 0).elem 0).port 5).ready s.time = some tok1 ∧ (((s.pieceOf 0).elem 0).port 5).syn = 0
      ∧ (s.pieceOf 0).canEnter 1 (facing 1) s.time = true)
    ∧ (∀ k ∈ [([] : List (Option (Nat × List Dep))), [none]],
      let s := atBlk { q := [(3, [{ rid := 0, tok := some tok1, pois := false }])] }
        { elems := [(0, { face := { westToEast with edge := [(3, 256 + 3)] } })], edges := [(12, { kset := k })] }
      let q := s.pieceOf 0
      Acting s 0 ∧ edgeElem 4 12 = (0, 3) ∧ (q.edge 12).hem = none ∧ SMap.get 0 q.blk.turnBind 12 = 0 ∧ (q.face 0).cls 3 = 1 ∧ q.blk.runs s.time = true
      ∧ (q.elem 0).stopped = false ∧ (q.edge 12).mark < 2 ∧ q.qOf ((q.face 0).num 3) = { rid := 0, tok := some tok1, pois := false } :: []
      ∧ q.canEnter 0 3 s.time = true ∧ (q.face 0).exit 3 = 0 ∧ (q.face 0).inBound 3 = true ∧ (q.edge 12).kset = k ∧ q.gives = [] ∧ tok1.kind = .data)
    ∧ (∀ c ∈ [2, 3],
      let s := atBlk {} { elems := [(0, { face := { edge := [(0, 256 * c)] }, ports := [(4, { tok := some tok1 })] })] }
      let q := s.pieceOf 0
      Acting s 0 ∧ edgeElem 4 0 = (0, 0) ∧ (q.edge 0).hem = none ∧ SMap.get 0 q.blk.turnBind 0 = 0 ∧ (q.face 0).cls 0 = c ∧ ((q.elem 0).port 4).ready s.time = some tok1
      ∧ tok1.kind ≠ .turn ∧ tok1.kind ≠ .kset ∧ tok1.kind ≠ .hem ∧ q.yFull ((q.face 0).num 0) = false ∧ (tok1.lane 0).valid = true ∧ q.bq.length < 4) := by
  unfold Acting; dsimp only; refine ⟨?_, ?_, ?_, ?_⟩ <;> decide +kernel

/-- A kset for element 0 (its lane 8 names it or another), or for every element. -/
def aKset (l : LaneV) : Token := { kind := .kset, tag := 4, lanes := (List.range 16).map fun i => if i = 8 then l else { valid := true, val := 3 } }
/-- The last turn at the input of an element that has still to turn. -/
def aTurn : BufTok := { tok := { kind := .turn, lanes := List.replicate 16 {} }, avail := 0 }

theorem witness_ElementsTurnAndTakeKsets :
    (let s := atBlk {} { turning := true, elems := [(0, { face := westToEast, inb := [(3, [aTurn])], turnDue := true })] }
      let q := s.pieceOf 0
      Acting s 0 ∧ (q.pleat 0 false).count = 1 ∧ (q.pleat 0 false).member = 0 ∧ (q.pleat 0 false).origin = 0
      ∧ (s.at 0).turns 0 ((q.pleat 0 false).members q.blk.side) = true ∧ ((q.pleat 0 false).members q.blk.side) = [0] ∧ (q.elem 0).lining.bad = [])
    ∧ ∀ l ∈ [({} : LaneV), { valid := true, val := 0 }, { valid := true, val := 1 }], ∀ k ∈ [([] : List (BitVec 32)), [4]],
      let s := atBlk {} { elems := [(0, { face := westToEast, inb := [(3, [{ tok := aKset l, avail := 0 }])], ksets := k })] }
      let q := s.pieceOf 0
      let x := q.elem 0
      Acting s 0 ∧ x.gate = 0 ∧ x.stopped = false ∧ x.faceAt ≤ s.time ∧ (q.pleat 0 false).member = 0 ∧ (q.pleat 0 false).count = 1
      ∧ ((q.pleat 0 false).members q.blk.side).length = 1 ∧ x.buf 3 = [{ tok := aKset l, avail := 0 }] ∧ (q.face 0).exit 3 = 0
      ∧ (q.pleat 0 false).members q.blk.side = [0] ∧ x.ksets.contains (aKset l).tag = !k.isEmpty ∧ ((q.face 0).moveWrites 1 = true ∧ (x.port 5).open s.time = true) := by
  unfold Acting; dsimp only; refine ⟨?_, ?_⟩ <;> decide +kernel

/-- A machine whose element 1 waits to give element 0 a token, at a cycle. -/
def atGate (x : Elem) (time : Nat) : State :=
  { atBlk {} { elems := [(0, x), (1, { ports := [(7, { tok := some tok1 })] })] } with time := time }

theorem witness_ElementsGateAndWatchdog :
    (∀ g ∈ [(0, 16), (1, 65536), (1, 20), (2, 70000), (3, 20)], Acting (atGate { gate := g.1, wakeAt := 20 } g.2) 0
      ∧ (((atGate { gate := g.1, wakeAt := 20 } g.2).pieceOf 0).elem 0).flight = []
      ∧ (((atGate { gate := g.1, wakeAt := 20 } g.2).pieceOf 0).elem 0).memOps = []
      ∧ ((atGate { gate := g.1, wakeAt := 20 } g.2).at 0).updatesDone 0 (some (atGate {} 0).opCount) = true)
    ∧ (∀ g ∈ [1, 2], ((atGate { gate := g, face := { slots := westToEast.slots, route := [(1, 4)] } } 70000).at 0).wanted 0 = true)
    ∧ ∀ x ∈ [({} : Block), { elems := [(17, { stopped := true })] }],
      let s := atBlk { sys := { wdog := 40 }, stall := 41 } x
      Acting s 0 ∧ (s.pieceOf 0).sys.wdog.toNat % 2 ^ 40 ≤ (s.pieceOf 0).stall ∧ (s.pieceOf 0).active = false ∧ (s.pieceOf 0).traps = []
      ∧ ((s.pieceOf 0).blockedElem s.time).isSome = !x.elems.isEmpty := by
  unfold Acting; dsimp only; refine ⟨?_, ?_, ?_⟩ <;> decide +kernel

/-! ## The hub -/

/-- A record of one level with one task: entry 0x600000, one vault unit, DONE on notify register 9 where `c`. -/
def aRecord (count c : Nat) : List Byte :=
  record [(0, 0x600000), (3, count - 1), (6, 2 ^ 8), (10, 2 ^ 8 + 9 * 2 ^ 16 + c * 2 ^ 24)]
/-- A hub in service with memory, a launch queue 5 whose ring at 0x8000 lists the record `r` at index `head`. -/
def inService (r : List Byte) (q : LQueue) : State :=
  let s := (State.reset.probeMemory).putBytes false 0x8000 r
  { s with hub := { s.hub with svc := s.hub.svc ||| 0x3E, lq := [(5, { q with base := 0x8000 })], keys := [(0, { prov := true })] } }
/-- The hub with launch 0 of a record. -/
def withLaunch (x : Launch) : State :=
  let s := inService [] {}
  { s with hub := { s.hub with launches := [(0, x)], saveunits := 8 } }

theorem witness_LaunchesArePosted :
    (let q : LQueue := { en := true, src := 1, head := 3, tail := 4 };
      ((inService [] q).hub.present .host1 = true ∧ ((inService [] q).lqOf 5).en = true ∧ ((inService [] q).lqOf 5).src = 1 ∧ ((19 : BitVec 16) - 3).toNat ≤ 2 ^ q.size)
      ∧ 2 ^ q.size < ((20 : BitVec 16) - 3).toNat)
    ∧ (∀ c ∈ [(aRecord 1 1, 0), (aRecord 1 1 ++ [], 0), (record [(6, 2 ^ 8)], 3)],
      let s := inService c.1 { tail := 1 };
      (s.lqOf 5).head ≠ (s.lqOf 5).tail ∧ s.hub.svc.toNat % 4 ≠ 0 ∧ s.freeLaunch = some 0
      ∧ ((s.detect false 0x8000 128).ringRecord (s.lqOf 5)) = some c.1
      ∧ (s.detect false 0 0).recordCode (s.lqOf 5) { image := c.1 } = c.2)
    ∧ (((withLaunch { st := .waiting }).launch 0).st = .waiting ∧ ((withLaunch { st := .waiting }).launch 0).waits = [])
    ∧ (((withLaunch { st := .ready, age := 2 ^ 24 }).launch 0).open = true ∧ ((withLaunch { st := .ready, age := 2 ^ 24 }).launch 0).aged = false) := by
  refine ⟨?_, ?_, ?_, ?_⟩ <;> decide +kernel

/-- A launch that is READY for its first task. -/
def readyLaunch : Launch := { st := .ready, image := aRecord 1 0 }

/-- A task of launch 1 holds the whole of the only panel in service, below the priority of launch 0. -/
def heldPanel : State :=
  let s := withLaunch { readyLaunch with prio := 3 }
  { s with hub := { s.hub with svc := (s.hub.svc &&& 0xC3) ||| 4 }, pieces := [(0, { live := true, launch := 1, hLog := 3, wLog := 4 })] }

theorem witness_PiecesAreGranted :
    ((withLaunch readyLaunch).want 0 = some (.start 0) ∧ ((withLaunch readyLaunch).firstFit 0 (.start 0)) = some (0, 0, 0)
      ∧ (withLaunch readyLaunch).granteeIs 0 = true)
    ∧ (heldPanel.want 0 = some (.start 0) ∧ (heldPanel.launch 0).reserve = none ∧ heldPanel.hub.saveunits ≠ 0
      ∧ heldPanel.firstFit 0 (.start 0) = none ∧ heldPanel.reserveAt 0 (.start 0) = some (0, 0, 0)) := by
  refine ⟨?_, ?_⟩ <;> decide +kernel

/-- A piece at its seam that must leave, in a machine whose save pool has `n` units. -/
def atSeamOf (n : Nat) : State :=
  let s := withLaunch { readyLaunch with image := aRecord 2 0, st := .running, next := 2, live := 0, seqs := [{ first := 0, next := 1, place := .held 0 }] }
  { s with hub := { s.hub with saveunits := n }, pieces := [(0, { live := true, atSeam := true, leave := true, vunits := 1 })] }
/-- A machine with a sequence saved at the start of the pool; its area is open, or its 20th line is poisoned. -/
def savedAt (bad : Bool) : State :=
  let s := withLaunch { readyLaunch with image := aRecord 2 0, st := .running, next := 2, live := 0, seqs := [{ first := 0, next := 1, place := .saved 0x100000 }] }
  { s with hub := { s.hub with savebase := 0x100000, saves := [(0, 2)] }, poison := if bad then [(2 * (0x100000 + 19 * 128), true)] else s.poison }
def isOk {α : Type} (r : Except Nat α) : Bool := match r with
  | .ok _ => true
  | .error _ => false
def restoredOk (r : Restored) : Bool := match r with
  | .ok _ => true
  | .bad _ _ => false

theorem witness_SequencesSwitchAndResume :
    (∀ n ∈ [0, 8],
      (((atSeamOf n).pieceOf 0).live = true ∧ ((atSeamOf n).pieceOf 0).atSeam = true ∧ ((atSeamOf n).pieceOf 0).active = false
        ∧ ((atSeamOf n).pieceOf 0).traps = [] ∧ ((atSeamOf n).pieceOf 0).leave = true)
      ∧ (((atSeamOf n).launch 0).ended = false ∧ (atSeamOf n).quiet 0 = true
        ∧ ((atSeamOf n).launch 0).seq 0 = some { first := 0, next := 1, place := .held 0 } ∧ 1 < ((atSeamOf n).launch 0).total)
      ∧ (atSeamOf n).hub.poolFit ((((atSeamOf n).saveShape ((atSeamOf n).pieceOf 0)).size + 65535) / 65536) = if n = 0 then none else some 0)
    ∧ ∀ b ∈ [false, true],
      ((savedAt b).want 0 = some (.resume 0 0x100000) ∧ (savedAt b).firstFit 0 (.resume 0 0x100000) = some (0, 0, 0) ∧ (savedAt b).granteeIs 0 = true)
      ∧ (isOk (((savedAt b).detectArea 0x100000 256).openArea 2 0x100000) = true
        ∧ (((savedAt b).detectArea 0x100000 256).launch 0).seq 0 = some { first := 0, next := 1, place := .saved 0x100000 })
      ∧ restoredOk ((resumed ((savedAt b).detectArea 0x100000 256) 0 0 (0, 0, 0)).2.restoreContext
          (resumed ((savedAt b).detectArea 0x100000 256) 0 0 (0, 0, 0)).1 0 0x100000) = !b := by
  refine ⟨?_, ?_⟩ <;> decide +kernel

/-- A piece whose task is over, or is being aborted with ACT `a`, in a launch of two tasks of which `next` comes next. -/
def atEndOf (a : Option Nat) (next : Nat) : State :=
  let s := withLaunch { readyLaunch with image := aRecord 2 0, st := .running, next := next, live := 1, seqs := [{ first := 0, next := next, place := .held 0 }] }
  let e : EngSt := { atEnd := true }
  { s with pieces := [(0, { live := true, abort := a, s := e, c := e, m := e, f := e })] }
/-- A launch all of whose tasks have ended, of host `src`, with or without a DONE register. -/
def drained (c src : Nat) : Launch := { st := .draining, image := aRecord 1 c, next := 1, src := src }

theorem witness_TasksAndLaunchesEnd :
    (∀ n ∈ [1, 2], (atEndOf none n).taskOver 0 = true ∧ ((atEndOf none n).pieceOf 0).mx.toile = false ∧ ((atEndOf none n).pieceOf 0).mx.badSig = none
      ∧ ((atEndOf none n).pieceOf 0).reshape = none ∧ ((atEndOf none n).launch 0).seq 0 = some { first := 0, next := n, place := .held 0 }
      ∧ ((atEndOf none n).launch 0).ended = false ∧ ((atEndOf none n).launch 0).next = n ∧ ((atEndOf none n).launch 0).total = 2
      ∧ ((atEndOf none n).pieceOf 0).leave = false ∧ (atEndOf none n).overlapped ((atEndOf none n).pieceOf 0) = false)
    ∧ (∀ a ∈ [1, 2], ((atEndOf (some a) 1).pieceOf 0).live = true ∧ ((atEndOf (some a) 1).pieceOf 0).cur = none
      ∧ (atEndOf (some a) 1).abortQuiet 0 = true ∧ ((atEndOf (some a) 1).pieceOf 0).abort = some a ∧ ((atEndOf (some a) 1).pieceOf 0).active = false)
    ∧ (∀ c ∈ [0, 1], ∀ h ∈ [0, 1, 2, 3],
      let s := withLaunch (drained c h)
      (s.launch 0).st = .draining ∧ (s.launch 0).live = 0 ∧ (s.launch 0).total ≤ (s.launch 0).next ∧ s.linksDone 0 = true
      ∧ s.launchQuiet 0 = true ∧ s.hub.hostEn = (true, true)) := by
  refine ⟨?_, ?_, ?_⟩ <;> decide +kernel

/-- A request held by move entry 0 since cycle 0. -/
def heldOne : HeldReq := { id := 7, pair := 3, bytes := record [], since := 0 }
/-- A machine in which it has been held too long. -/
def atHold : State :=
  { State.reset with time := 2 ^ 20, hub := { State.reset.hub with held := [heldOne], movs := [(0, { v := true, src := 0, pages := 1 })] } }
/-- A machine with a subgraph request under way. -/
def atSubgraph (req : W64) (addr : W64) : State :=
  { (State.reset.probeMemory) with hub := { (State.reset.probeMemory).hub with sgbusy := true, sgreq := req, sgaddr := addr } }

theorem witness_RegisterWritesSet :
    (MayNotify (State.reset.ncfgOf 3) .mgmt ∧ (MayNotify { hostw := true } .host1 ∧ MayNotify { sidew := true } .sidecar))
    ∧ (State.reset.hub.errheld = [] ∧ State.reset.hub.present .mgmt = true
      ∧ ({ State.reset.hub with hostEn := (false, true) } : Hub).present .host0 = false)
    ∧ ((State.reset.hub.mov 0).v = false ∧ (atHold.hub.mov 0).v = true)
    ∧ (∀ j, j < 8 → j ≠ 0 → (State.reset.hub.mov j).v = true → MovEntry.overlaps (State.reset.hub.mov j) { (State.reset.hub.mov 0) with v := true } = false)
    ∧ (atHold.hub.held.find? (fun g => g.id == 7) = some heldOne ∧ atHold.holdsReq (unitPa heldOne.bytes) = true ∧ heldOne.since + 2 ^ 20 ≤ atHold.time
      ∧ 3 ≤ atHold.replayRoom heldOne.pair)
    ∧ State.reset.hub.sgbusy = false
    ∧ ((atSubgraph (512 + 128) 0x1000).hub.sgbusy = true ∧ (atSubgraph (2 ^ 15 + 4) 0x1000).hub.sgbusy = true ∧ (atSubgraph 4 0x1000).hub.sgbusy = true) := by
  refine ⟨?_, ?_, ?_, ?_, ?_, ?_, ?_⟩
  · unfold MayNotify; decide +kernel
  all_goals decide +kernel

/-! ## Security, power and boot -/

/-- The machine after reset with its hub changed. -/
def hubOf (f : Hub → Hub) : State := { State.reset with hub := f State.reset.hub }
/-- The same in service, with its memory. -/
def served (f : Hub → Hub) : State :=
  let s := State.reset.probeMemory
  { s with hub := f { s.hub with boot := 5, keys := [(0, { prov := true }), (3, { prov := true })], lpcap := 1 } }

theorem witness_KeysMeasurementsAndLifecycle :
    (IsOwner .mgmt ∧ (served id).hub.served = true ∧ (served id).hub.keybusy = false
      ∧ (served id).hub.keyRefusal (1 + 4 * 5) = 0 ∧ (served id).hub.keyRefusal (1 + 4 * 3) = 2
      ∧ (served id).hub.keyRefusal (2 + 4 * 3) = 0 ∧ (served id).hub.keyRefusal 2 = 3)
    ∧ (let s := served fun h => { h with keybusy := true, keyreq := BitVec.ofNat 64 (1 + 4 * 5 + 4096) };
      s.hub.keybusy = true ∧ s.hub.keyreq.toNat % 4 = 1 ∧ s.hub.keyRefusal s.hub.keyreq.toNat = 0
      ∧ s.inMem (s.hub.keyreq.toNat / 2 ^ 12 % 2 ^ 33 * 4096) = true)
    ∧ (served fun h => { h with keybusy := true, keyreq := 2 + 4 * 3 }).hub.keyreq.toNat % 4 = 2
    ∧ ((2 : BitVec 2).toNat = (served fun h => { h with lc := 1 }).hub.lc.toNat + 1 ∧ (3 : BitVec 2).toNat = (served id).hub.lc.toNat + 1)
    ∧ ((served id).hub.attReq = none ∧ (served id).hub.sigCtr < 2 ^ 40 ∧ (served id).inMem 0x1000 = true
      ∧ (served id).inMem ((0x1000 + 95) / 64 * 64) = true ∧ (served id).hostMay 0x1000 32 false = true
      ∧ (served id).hostMay ((0x1000 + 95) / 64 * 64) 6284 true = true)
    ∧ (served fun h => { h with attReq := some 0x1000 }).hub.attReq = some 0x1000 := by
  refine ⟨?_, ?_, ?_, ?_, ?_, ?_⟩
  · unfold IsOwner; decide +kernel
  all_goals decide +kernel

theorem witness_DebugRequestsAreServed :
    (IsDebugger .host1 ∧ ¬IsDebugger .sidecar)
    ∧ (2 ≤ (served id).hub.boot ∧ (served id).hub.dbgReq = none ∧ (served id).hub.entering = 0 ∧ (served id).hub.power ≤ 1
      ∧ (served id).hub.lc = 2 ∧ (served id).hub.dbgFails < 64 ∧ 64 ≤ (served fun h => { h with dbgFails := 64 }).hub.dbgFails)
    ∧ (∀ n : Bool, (served fun h => { h with dbgReq := some 2, nonceOk := n }).hub.dbgReq = some 2
      ∧ (served fun h => { h with dbgReq := some 2, nonceOk := n }).hub.pwrWait = []
      ∧ (served fun h => { h with dbgReq := some 2, nonceOk := n }).hub.nonceOk = n)
    ∧ (2 ≤ (served fun h => { h with dbg := 2 }).hub.dbg.toNat ∧ ((one {}).pieceOf 0).mayHalt = true
      ∧ ((one { halted := true }).pieceOf 0).live = true ∧ ((one { halted := true }).pieceOf 0).halted = true) := by
  refine ⟨?_, ?_, ?_, ?_⟩
  · unfold IsDebugger; decide +kernel
  all_goals decide +kernel

theorem witness_BootAndPower :
    (∀ b ∈ [1, 2, 3, 4], (hubOf fun h => { h with boot := b }).hub.boot = b ∧ (hubOf fun h => { h with boot := b }).hub.power ≤ 1
      ∧ (hubOf fun h => { h with boot := b }).hub.fatal = false ∧ (hubOf fun h => { h with boot := b }).hub.entering = 0)
    ∧ (IsOwner .host0 ∧ 2 ≤ (served id).hub.boot ∧ (served id).hub.dbgReq = none ∧ (served id).hub.entering = 0
      ∧ (served id).inUse = false ∧ (one {}).inUse = true ∧ (served fun h => { h with power := 2 }).hub.power = 2)
    ∧ (∀ e ∈ [2, 3], (served fun h => { h with entering := e }).memQuiet = true ∧ (served fun h => { h with entering := e }).hub.entering = e)
    ∧ (let s := served fun h => { h with power := 2, wakeDue := true };
      s.hub.power = 2 ∧ s.hub.fatal = false ∧ s.hub.wakeDue = true ∧ s.hub.fenced.contains 0 = false)
    ∧ (8767 ∉ (served id).hub.hot ∧ 8767 ∉ (served id).hub.gated ∧ 3 ≤ (served id).hub.boot ∧ (served id).hub.power ≤ 1
      ∧ { served id with time := 2 ^ 16 }.blockIdle 8767 = true ∧ (served id).elemOfBlock 8767 = none
      ∧ 8767 ∈ (served fun h => { h with gated := [8767] }).hub.gated)
    ∧ (let s := { one { blk := { side := 4, armed := true } } with time := 2 ^ 16 }
      s.blockIdle 576 = true ∧ s.elemOfBlock 576 = some (0, 0)) := by
  refine ⟨?_, ?_, ?_, ?_, ?_, ?_⟩
  · decide +kernel
  · unfold IsOwner; decide +kernel
  all_goals decide +kernel

/-- The served machine with its wall at 0x200000, all granules from 2^40 on for one use. -/
def walled (k : Byte) : State :=
  (served fun h => { h with wallbase := 0x200000 }).putBytes false (0x200000 + 2 ^ 40 / 2 ^ 21) [k]

theorem witness_HostAndSidecarAccesses :
    (∀ k ∈ [(0 : Byte).toNat, 3],
      let s := walled (BitVec.ofNat 8 k)
      s.hub.hostUp false = true ∧ (2 ^ 40 + 8) / 2 ^ 40 = 1 ∧ s.inLpddr (2 ^ 40 + 8) = true ∧ s.inLpddr (2 ^ 40 + 8 + 8 - 1) = true
      ∧ s.choose.1 = 0 ∧ { s with choices := [1] }.choose.1 % 2 ≠ 0 ∧ s.hostMay (2 ^ 40 + 8) 8 false = (k == 0) ∧ s.hostMay (2 ^ 40 + 8) 8 true = (k == 0)
      ∧ ((s.detect false (2 ^ 40 + 8) 8).view (.host false) false (2 ^ 40 + 8) 8 false 0).integ = none)
    ∧ (∀ k ∈ [(0 : Byte).toNat, 1],
      let s := walled (BitVec.ofNat 8 k)
      let a := (2 ^ 40 + 8) % 2 ^ 45
      3 ≤ s.hub.boot ∧ s.hub.power ≤ 1 ∧ (2 ^ 40 + 8) / 2 ^ 45 = s.hub.pkg.toNat ∧ inHubWin a = false ∧ s.sidecarMay a = (k == 0)
      ∧ s.sidecarMay (a + 8 - 1) = (k == 0) ∧ s.ops = [] ∧ s.choose.1 = 0 ∧ a % 8 = 0
      ∧ ((s.detect false a 8).view (.sidecar 3) false a 8 false 0).pois = false
      ∧ ((s.detect false a 8).view (.sidecar 3) false a 8 false 0).integ = none)
    ∧ (let s := { walled 0 with poison := [(2 * 2 ^ 40, true)] };
      ((s.detect false (2 ^ 40 + 8) 8).view (.sidecar 3) false (2 ^ 40 + 8) 8 false 0).pois = true) := by
  refine ⟨?_, ?_, ?_⟩ <;> decide +kernel

/-! ## The Decroth links -/

/-- The machine in service with launch 0 (READY, one unbound entry for pair 5) and pair 5 as given. -/
def atPair (p : Pair) : State :=
  let s := withLaunch { readyLaunch with binds := [theBinding] }
  { s with links := { s.links with pairs := [(5, p)] } }
where
  /-- The entry of link queue 4 for pair 5, peer 2. -/
  theBinding : Binding := { lq := 4, die := false, mem := false, out := true, inn := true, pair := 5, seq := 0, peer := 2, bid := 77 }
/-- A claimed pair. -/
def claimed (bound : Bool) : Pair := { launch := some 0, bid := 77, peer := 2, gout := 2, gin := 2, bound := bound }

theorem witness_BindingsAreMade :
    ((atPair { gout := 2, gin := 2 }).launch 0).binds[0]? = some atPair.theBinding
    ∧ ((atPair { gout := 2, gin := 2 }).launch 0).st = .ready ∧ ((atPair { gout := 2, gin := 2 }).pairOf 5).launch = none
    ∧ ((atPair { gout := 2, gin := 2 }).pairOf 5).early = none ∧ ((atPair { gout := 2, gin := 2 }).pairOf 5).gout ≠ 0
    ∧ ((atPair (claimed false)).pairOf 5).launch = some 0 ∧ ((atPair (claimed false)).pairOf 5).mem = false
    ∧ ((atPair (claimed false)).pairOf 5).bound = false
    ∧ ((atPair { claimed false with mem := true }).pairOf 5).mem = true
    ∧ (let s := withLaunch { readyLaunch with binds := [atPair.theBinding], claimAt := some 3 }
       let late : State := { s with time := 3 + 2 ^ 28 }
       (late.launch 0).claimAt = some 3 ∧ (late.launch 0).st = .ready ∧ 3 + 2 ^ 28 ≤ late.time ∧ (s.launch 0).claimAt = some 3 ∧ s.time < 3 + 2 ^ 28
        ∧ atPair.theBinding.die = false ∧ atPair.theBinding.bound = false ∧ atPair.theBinding.lost = false)
    ∧ (let s := withLaunch { st := .done }
       let t : State := { s with links := { s.links with pairs := [(5, claimed true)] } }
       (t.pairOf 5).launch = some 0 ∧ (t.launch 0).over = true ∧ (t.pairOf 5).replay = [] ∧ t.links.requests = []) := by
  refine ⟨?_, ?_, ?_, ?_, ?_, ?_, ?_, ?_, ?_, ?_, ?_⟩ <;> decide +kernel

/-- A machine with pair 5 and its port. -/
def linked (p : Pair) (f : Links → Links) : State :=
  let s := State.reset.probeMemory
  { s with hub := { s.hub with keys := [(0, { prov := true })] }, links := f { s.links with pairs := [(5, p)] }, time := 5000 }
/-- A flit of pair 5 that has been sent `k` times. -/
def aFlit (k : Nat) : Flit := { payload := record [], seq := 0, sends := k, pair := 5 }
/-- The trailer of an idle flit in answer to nothing, and one spoiled. -/
def aTrailer (payload : List Byte) (seq : BitVec 16) : BitVec 72 := trailer payload seq 0xFFFF false 3

theorem witness_FlitsAreAcknowledged :
    (∀ q ∈ [(0 : BitVec 16).toNat, 1], ∀ b ∈ [([] : List Byte), List.replicate 64 0],
      flitCrc b ((aTrailer b (BitVec.ofNat 16 q)).extractLsb' 0 40).toNat = ((aTrailer b (BitVec.ofNat 16 q)).extractLsb' 40 32).toNat
      ∧ (aTrailer b (BitVec.ofNat 16 q)).extractLsb' 0 16 = BitVec.ofNat 16 q)
    ∧ flitCrc [] (((aTrailer [] 0 ^^^ 1).extractLsb' 0 40).toNat) ≠ ((aTrailer [] 0 ^^^ 1).extractLsb' 40 32).toNat
    ∧ (((linked (claimed true) id).pairOf 5).gin ≠ 0 ∧ ((linked (claimed true) id).pairOf 5).replay = []
      ∧ ((linked { claimed true with nak := true } id).pairOf 5).nak = true ∧ ((linked (claimed true) id).pairOf 5).nak = false
      ∧ ((linked (claimed true) id).pairOf 5).rxack + 1 = 0 ∧ ((linked (claimed true) id).pairOf 5).sends = true)
    ∧ (∀ r ∈ [(1, 0), (16, 0), (16, 2)],
      let p := { claimed true with replay := [aFlit r.1], retrain := r.2 }
      let s := linked p id
      (s.pairOf 5).sends = true ∧ (s.pairOf 5).replay ≠ [] ∧ (s.pairOf 5).sinceAck + 4096 ≤ s.time ∧ (s.pairOf 5).replay = [aFlit r.1]
      ∧ (s.pairOf 5).retrain = r.2 ∧ (s.pairOf 5).bound = true)
    ∧ (let s := linked {} fun l => { l with pairs := (List.range 4).map fun g => (4 + g, { claimed true with retrain := if g = 1 then 1 else 0 }) };
      (s.pairOf 5).retrain = 1 ∧ (s.pairOf 5).lost = false ∧ FullPort s 1) := by
  refine ⟨?_, ?_, ?_, ?_, ?_⟩
  · decide +kernel
  · decide +kernel
  · decide +kernel
  · decide +kernel
  · unfold FullPort; decide +kernel

/-- A port in service whose lane 9 is lost; lane 7 is turned round for its incoming group 0, whose pair is bound. -/
def atLanes (f : LaneSt → LaneSt) : State :=
  linked {} fun l => { l with
    pairs := [(4, claimed true)]
    lanes := (List.range 16).map fun i => (16 + i,
      let x : LaneSt := { up := true, out := decide (i < 8), homeOut := decide (i < 8), home := i % 8 / 2 }
      if i = 9 then { x with up := false } else if i = 7 then f { x with out := false, up := false, serves := some 0, turning := true } else x) }

theorem witness_LanesAreLostAndTurned :
    (let s := atLanes id;
      (s.laneOf 1 0).up = true ∧ (s.laneOf 1 0).unlock = none ∧ (s.laneOf 1 7).turning = true ∧ (s.laneOf 1 7).serves = some 0
      ∧ (∀ d : Bool, ∀ k, k < 4 → 2 ≤ (s.setLane 1 7 { s.laneOf 1 7 with turning := false, up := true }).groupCode 1 d k
          ∨ ((s.pairOf (4 * 1 + k)).bound = false ∧ (s.pairOf (4 * 1 + k)).server = false))
      ∧ (s.pairOf 4).idle = false ∧ (s.pairOf 4).replay = [])
    ∧ (∀ t ∈ [4000, 0], ((atLanes fun _ => { up := true, out := true, unlock := some t }).laneOf 1 7).unlock = some t)
    ∧ (let s := linked {} fun l => { l with pairs := [(4, claimed true)], lanes := [(16 + 7, { serves := some 0, turning := true })] };
      (s.laneOf 1 7).turning = true ∧ (s.setLane 1 7 { s.laneOf 1 7 with turning := false, up := false, unlock := none }).groupCode 1 false 0 = 0
      ∧ (s.pairOf 4).bound = true ∧ (s.pairOf 4).lost = false ∧ ∀ i, i < 16 → i ≠ 7 → (s.laneOf 1 i).turning = false) := by
  refine ⟨?_, ?_, ?_⟩ <;> decide +kernel

/-- A machine with link queue 3 and pair 5. -/
def atLinkQ (q : LinkQ) (p : Pair) : State := linked p fun l => { l with queues := [(3, { q with launch := 0, lq := 4, live := true })] }
/-- A hem of level 2 as a frame of binding 77, the first. -/
def aFrame : List Byte := frameOf { prov := true } 77 0 (hemTok 2)

theorem witness_TokensCrossLinks :
    (let s := atLinkQ { pair := some 5, seqOut := some 0, send := [hemTok 2, tok1] } (claimed true);
      (s.linkQ 3).send = [hemTok 2, tok1] ∧ (s.linkQ 3).pair = some 5 ∧ (s.pairOf 5).bound = true ∧ 0 < (s.pairOf 5).cred
      ∧ (s.pairOf 5).sends = true ∧ frameFlits (hemTok 2).kind ≤ s.replayRoom 5)
    ∧ (let s := { atLinkQ { seqOut := some 0, seqIn := some 1, send := [tok1] } {} with pieces := [(0, { live := true }), (1, { live := true, seqPos := 1, panel := 2 })] };
      (s.linkQ 3).pair = none ∧ (s.linkQ 3).recv.length + (s.linkQ 3).fly.length < 16 ∧ s.panelOf 0 (some 0) = some 0 ∧ s.panelOf 0 (some 1) = some 2)
    ∧ (∀ y ∈ [(0 : BitVec 8).toNat, 1], ((atLinkQ { fly := [{ tok := tok1, avail := 8 }], syn := BitVec.ofNat 8 y } {}).linkQ 3).syn = BitVec.ofNat 8 y
      ∧ ((atLinkQ { fly := [{ tok := tok1, avail := 8 }], syn := BitVec.ofNat 8 y } {}).linkQ 3).fly = [{ tok := tok1, avail := 8 }]
      ∧ 8 ≤ (atLinkQ {} {}).time)
    ∧ (let s := atLinkQ { pair := some 5, seqIn := some 0 } { claimed true with rx := aFrame };
      (s.pairOf 5).rx ≠ [] ∧ 64 * frameFlits (kindOf (ofBytes ((s.pairOf 5).rx.take 1) % 16)) ≤ (s.pairOf 5).rx.length
      ∧ (s.links.queues.find? fun kv => kv.2.live && !kv.2.lost && kv.2.pair == some 5 && kv.2.seqIn.isSome)
          = some (3, { pair := some 5, seqIn := some 0, launch := 0, lq := 4, live := true })
      ∧ (tokenOf (s.keyDom 0) 77 0 (aFrame.take 64)).isSome = true ∧ (tokenOf (s.keyDom 0) 77 0 (List.replicate 64 2)).isSome = false) := by
  refine ⟨?_, ?_, ?_, ?_⟩ <;> decide +kernel

/-- A unit of an operation for address 0x1000 (in memory) or elsewhere, with empty operands. -/
def aUnit (op pa : Nat) : List Byte := unitHead op pa ++ List.replicate (64 * unitFlits op - 8) 0
/-- The memory server of pair 5 with a unit; its key domain revoked, or a move over the address, where asked. -/
def atServer (b : List Byte) (revoked moved : Bool) : State :=
  let s := linked { gout := 2, gin := 2, server := true, rx := b } id
  { s with hub := { s.hub with keys := if revoked then [] else [(0, { prov := true })], movs := if moved then [(0, { v := true, src := 0x1000, pages := 1 })] else [] } }

theorem witness_ServerAppliesRequests :
    (∀ op ∈ [1, 2, 3, 4], ∀ pa ∈ [0x1000, 2 ^ 44], ∀ r : Bool, ∀ m : Bool,
      let s := atServer (aUnit op pa) r m
      (s.serving 5 = true ∧ s.heldAt 5 = none ∧ s.unitAt 5 = some (aUnit op pa) ∧ s.lineBusy 5 (aUnit op pa) = false)
      ∧ unitOp (aUnit op pa) = op ∧ unitPa (aUnit op pa) = pa ∧ s.holdsReq pa = (m && pa == 0x1000)
      ∧ s.revokedFor (s.pairOf 5).served = r ∧ s.servedOk (s.pairOf 5).served pa = (pa == 0x1000) ∧ (m = false → s.hub.moveOf pa = none))
    ∧ ((atServer [] false false).detect false 0x1000 128).poisoned false 0x1000 128 = false
    ∧ (((atServer [] false false).detect false 0x1000 128).plainLine 0x1000).isSome = true := by
  refine ⟨?_, ?_, ?_⟩ <;> decide +kernel

/-- The keys of a provisioned domain. -/
def someKeys : KeyDom := { prov := true }
/-- An invocation's result whose tag holds under them. -/
def aResult : List Byte := unitHead 0x84 0x1000 ++ List.replicate 40 0 ++ bytesOf 7 25755439958350104 ++ List.replicate 9 0
/-- An invocation whose tag holds under them. -/
def anInvoke : List Byte := unitHead 4 0x1000 ++ List.replicate 40 0 ++ bytesOf 7 25755439958350104 ++ List.replicate 9 0
theorem witness_operands :
    (unitValue someKeys anInvoke).isSome = true ∧ (atServer anInvoke false false).unitAt 5 = some anInvoke ∧ unitOp anInvoke = 4 ∧
    (unitValue someKeys aResult).isSome = true ∧ unitValue someKeys (aUnit 0x84 0x1000) = none ∧ unitPa aResult = 0x1000 := by decide +kernel

/-- A remote request of piece 0 on pair 5, of a kind. -/
def aRequest (kind : Nat) : RemoteReq := { id := 7, pair := 5, kind := kind, at_ := 0, piece := 0, va := 0x1000, rd := 3, addr := 0x1000, size := 8, sext := false, key := 0 }
/-- Its operation, of the thread of piece 0. -/
def remoteOp : MemOp := { blankOp 0 (.thread 0) .read false 0x1000 0x1000 8 with id := 7, rd := 3 }
/-- The requester of pair 5 with a unit received, the request outstanding and its word waiting. -/
def atReply (kind : Nat) (b : List Byte) (w : Await) : State :=
  { linked { claimed true with mem := true, rx := b } fun l => { l with requests := [aRequest kind] } with
    ops := [remoteOp], pieces := [(0, { live := true, await := w })] }
/-- A load reply whose tag holds. -/
def sealedReply : List Byte := unitHead 0x81 0x1000 ++ bytesOf 8 0 ++ bytesOf 7 12698184998251664 ++ List.replicate 169 0

theorem witness_RepliesSettleRequests :
    (∀ st ∈ [0, 1, 4, 0x12],
      let b := unitHead 0x81 0x1000 ++ bytesOf 8 st ++ List.replicate 176 0
      let s := atReply 0 b (.load [7])
      ((s.pairOf 5).mem = true ∧ s.unitAt 5 = some b ∧ unitOp b = 0x81)
      ∧ (s.requestOf 5 0 fun q => q.addr / 128 * 128 == unitPa b) = some (aRequest 0) ∧ (aRequest 0).dead = false
      ∧ s.opOf 7 = some remoteOp ∧ s.awaited remoteOp = true ∧ ofBytes ((b.drop 8).take 1) = st)
    ∧ ((openLine someKeys 0x1000 ((sealedReply.drop 64).take 128) (ofBytes ((sealedReply.drop 16).take 7))).isSome = true
      ∧ openLine someKeys 0x1000 (List.replicate 128 0) 0 = none)
    ∧ (∀ st ∈ [0, 1, 0x12], let s := atReply 1 (ackUnit st) .none
      ((s.pairOf 5).mem = true ∧ s.unitAt 5 = some (ackUnit st) ∧ unitOp (ackUnit st) = 0x82)
      ∧ ofBytes (((ackUnit st).drop 8).take 2) = 1 ∧ ofBytes (((ackUnit st).drop 10).take 1) = st
      ∧ s.requestOf 5 1 (fun _ => true) = some (aRequest 1) ∧ (s.pieceOf remoteOp.piece).live = true)
    ∧ (∀ b ∈ [aResult, aUnit 0x84 0x1000], let s := atReply 2 b (.invoke 7)
      ((s.pairOf 5).mem = true ∧ s.unitAt 5 = some b ∧ unitOp b = 0x84)
      ∧ (s.requestOf 5 2 fun q => q.addr == unitPa b) = some (aRequest 2) ∧ (s.pieceOf (aRequest 2).piece).await = .invoke (aRequest 2).id
      ∧ ofBytes ((b.drop 8).take 1) = 0)
    ∧ (∀ k ∈ [0, 2], let s := { atReply k [] (if k = 0 then .load [7] else .invoke 7) with time := 2 ^ 22 }
      (s.links.requests.find? fun q => q.id == 7) = some (aRequest k) ∧ (aRequest k).at_ + 2 ^ 22 ≤ s.time ∧ s.opOf 7 = some remoteOp
      ∧ (s.awaited remoteOp = true))
    ∧ (let s := { atHold with time := 2 ^ 20 };
      (s.hub.held.find? fun q => q.id == heldOne.id) = some heldOne ∧ s.holdsReq (unitPa heldOne.bytes) = true ∧ heldOne.since + 2 ^ 20 ≤ s.time
      ∧ atHold.holdsReq (unitPa heldOne.bytes) = true) := by
  refine ⟨?_, ?_, ?_, ?_, ?_, ?_⟩ <;> decide +kernel

/-! ## Encodings, steps and reset -/

theorem witness_TextDecodesWhatItEncodes :
    (Instr.sAddi 0 31 31 (-512)).wf = true ∧ (encodeText (.sAddi 0 31 31 (-512))).isSome = true
    ∧ decodeText 0x016214C0 = .ok (.sVst 0 4 5 6) ∧ (0x016214C0 : Nat) < 2 ^ 32 := ⟨rfl, rfl, rfl, by decide⟩

theorem witness_MovesDecodeWhatTheyEncode :
    (Instr.move 6 3 42 15 0).wf = true ∧ (encodeMove (.move 6 3 42 15 0)).isSome = true
    ∧ decodeMoveWord (6 * 2 ^ 29 + 48 * 2 ^ 17 + 15 * 2 ^ 10) = .ok (.add 6 0 15 0 0) := ⟨by decide, by decide, rfl⟩

/-- A machine whose turn is the S engine's (or another's) at a word of text. -/
def atTurnOf (e w : Nat) : State :=
  { (mapped { s := { pc := 0x600000 }, c := { pc := 0x600000 } }).putLine 0x600000 w with agenda := [.engine 0 e] }
def fetched (r : FetchRes) (f : Nat → Bool) : Bool := match r with
  | .word _ w => f w
  | _ => false
def fetchBad (r : FetchRes) : Bool := match r with
  | .bad _ _ _ => true
  | _ => false

/-- A machine whose engine `e` holds the word it has fetched, or waits for a tack, or is put off to the end of the cycle. -/
def atHeldWord (e w : Nat) (t : Turn) (late : Bool) : State :=
  let x : EngSt := { pc := 0x600000, word := some (BitVec.ofNat 32 w), tackWait := some none, late := late }
  { mapped (({} : Piece).setEng e x) with agenda := [t] }

theorem witness_StepsRunTheirInstruction :
    (∀ w ∈ [(0, 0x000190A0), (0, 0x00D00000), (1, 0x000190A0)],
      let s0 := State.at { atTurnOf w.1 w.2 with agenda := [] } 0
      s0.engineOn 0 w.1 = true ∧ s0.piece.engIdle w.1 = false ∧ s0.piece.faceDue = false ∧ (s0.piece.eng w.1).word = none
      ∧ fetched (s0.fetch (s0.piece.eng w.1).pc) (fun v => v == w.2) = true)
    ∧ (engOf 0x000190A0 = 0 ∧ decodeText 0x000190A0 = .ok (.sAdd 0 3 4 5))
    ∧ (let s0 := State.at { atTurnOf 1 0x000190A0 with agenda := [] } 0
      ((s0.modPiece fun p => p.pass1 1 0x000190A0).piece.eng 1).pc ≠ (s0.piece.eng 1).pc)
    ∧ (let s0 := State.at { atTurnOf 0 0 with agenda := [], pieces := [(0, { live := true, s := { pc := 0x600002 } })] } 0
      s0.engineOn 0 0 = true ∧ s0.piece.engIdle 0 = false ∧ fetchBad (s0.fetch (s0.piece.eng 0).pc) = true)
    ∧ (∀ e ∈ [0, 3], let s0 := State.at { atHeldWord e 0x000190A0 (.retry 0 e) false with agenda := [] } 0
      (s0.piece.eng e).tackWait ≠ none ∧ (s0.modPiece fun p => p.setEng e { p.eng e with tackWait := none }).piece.engIdle e = false)
    ∧ (∀ l : Bool, let s0 := State.at { atHeldWord 0 0x000190A0 (.late 0) l with agenda := [] } 0
      s0.piece.s.late = l ∧ s0.piece.engIdle 0 = false ∧ s0.piece.s.word = some 0x000190A0)
    ∧ ((State.at { atTurnOf 0 0 with pieces := [] } 0).piece.engIdle 0 = true ∧ (State.at { atTurnOf 0 0 with pieces := [] } 0).engineOn 0 0 = true)
    ∧ (let s := { atTurnOf 0 0 with time := 1, hub := { (atTurnOf 0 0).hub with hot := [512, 544] } }; (State.at s 0).engineOn 0 0 = false)
    ∧ (let s0 := atBlk {} { elems := [(0, { face := westToEast, inb := [(3, [{ tok := tok1, avail := 0 }])] })] };
      s0.piece.live = true ∧ s0.piece.atSeam = false ∧ s0.piece.abort = none ∧ s0.slotNow 0 = some 0
      ∧ (s0.piece.pleat 0 false).plane.slot 0 = 0x018A3C00) := by
  refine ⟨?_, ⟨by decide, rfl⟩, ?_, ?_, ?_, ?_, ?_, ?_, ?_⟩ <;> decide +kernel

theorem witness_ResetLeavesTheStatedValues : 63 < 64 ∧ 255 < 256 := by decide

theorem witness_StepsKeepMemoryCanonical : MemOk State.reset ∧ gives (step State.reset) (fun _ => true) = true := by
  unfold MemOk; decide +kernel

/-! ## One step, with its result worked out from the manual -/

/-- R146, R170: `s.addi s5, zero, -32`, as the first instruction after reset. -/
theorem test_step_addi : gives (step (State.reset.withFetchWord 32 0x002283E0)) (fun t => t.piece.reg 5 == -32) = true := by decide +kernel

/-- R241: a move takes the token of its input, and the token stands on the link for the next cycle. -/
theorem test_step_move :
    gives (step { (atBlk {} { elems := [(0, { face := westToEast, inb := [(3, [{ tok := tok1, avail := 0 }])] })] }) with agenda := [.element 0 0] })
      (fun t => (t.piece.elem 0).buf 3 == [] && ((t.piece.elem 0).port 5).tok == some tok1 && ((t.piece.elem 0).port 5).avail == 10) = true := by
  decide +kernel
end Sys2Proof.Tests
end

section
/-! PROOFS. The hub after reset (R4, R39, R77, R412). -/

namespace Sys2Proof.Machine

/-! ## Regions of the hub window -/

theorem ite_inRegion {α : Type} {lo hi off : Nat} {x y : α} (h : lo ≤ off ∧ off < hi) :
    (if (decide (lo ≤ off) && decide (off < hi)) = true then x else y) = x := if_pos (by simpa using h)

theorem ite_outRegion {α : Type} {lo hi off : Nat} {x y : α} (h : off < lo ∨ hi ≤ off) :
    (if (decide (lo ≤ off) && decide (off < hi)) = true then x else y) = y := if_neg (by simp; omega)

/-! ## What the parts of the hub hold at reset -/

theorem reset_lqOf (q : Nat) : State.reset.lqOf q = {} := rfl
theorem reset_notifyVal (n : Nat) : State.reset.notifyVal n = 0 := rfl
theorem reset_ncfgOf (n : Nat) : State.reset.ncfgOf n = {} := rfl
theorem reset_turnEnt (n : Nat) : State.reset.turnEnt n = {} := rfl
theorem reset_pairOf (n : Nat) : State.reset.pairOf n = {} := rfl
theorem turnWord_empty (i : Nat) : turnWord {} i = 0 := by unfold turnWord; split <;> rfl

theorem reset_lnkstat (p : Nat) : State.reset.lnkstat p = 0 := by
  have hr : SMap.get 0 State.reset.links.replays p = 0 := rfl
  have ho (i : Nat) : (State.reset.laneOf p i).out = false := rfl
  have hu (i : Nat) : (State.reset.laneOf p i).up = false := rfl
  simp only [State.lnkstat, hr, ho, hu, reset_pairOf]
  rfl

theorem hubRead_reset_launchQueue {q k : Nat} (hq : q < 64) (hk : 0x1000 ≤ k ∧ k < 0x1040) :
    State.reset.hubRead (k + 64 * q) = if k = 0x1008 then 4 else 0 := by
  have hmod : (k + 64 * q) % 64 = k - 0x1000 := by omega
  have hin : 0x1000 ≤ k + 64 * q ∧ k + 64 * q < 0x2000 := by omega
  simp only [State.hubRead]
  rw [if_neg (by omega), if_neg (by omega), ite_inRegion hin, hmod, reset_lqOf]
  by_cases h8 : k = 0x1008
  · subst h8; rfl
  · rw [if_neg h8]
    split
    case h_2 h => exact absurd h (by omega)
    all_goals rfl

theorem hubRead_reset_lanes {p : Nat} (hp : p < 32) : State.reset.hubRead (0x2000 + 32 * p) = 0 := by
  simp (disch := omega) only [State.hubRead, if_neg, if_pos, ite_inRegion, ite_outRegion, reset_lnkstat]
  rfl

theorem hubRead_reset_deviceWindow {d : Nat} (hd : d < 64) : State.reset.hubRead (0x3C00 + 8 * d) = 0 := by
  simp (disch := omega) only [State.hubRead, if_neg, ite_inRegion, ite_outRegion]
  rfl

theorem hubRead_reset_notify {n : Nat} (hn : n < 256) : State.reset.hubRead (0x4000 + 8 * n) = 0 := by
  simp (disch := omega) only [State.hubRead, if_neg, ite_inRegion, ite_outRegion, reset_notifyVal]
  rfl

theorem hubRead_reset_notifyConfig {n : Nat} (hn : n < 256) : State.reset.hubRead (0x6000 + 8 * n) = 0x30 := by
  simp (disch := omega) only [State.hubRead, if_neg, ite_inRegion, ite_outRegion, reset_ncfgOf]
  rfl

theorem hubRead_reset_turnTable {n k : Nat} (hn : n < 256) (hk : 0x8000 ≤ k ∧ k < 0x8020) :
    State.reset.hubRead (k + 32 * n) = 0 := by
  simp (disch := omega) only [State.hubRead, if_neg, ite_inRegion, ite_outRegion, reset_turnEnt, turnWord_empty]
  rfl

theorem byte_reset (v : Bool) (a : Nat) : State.reset.byte v a = unlisted v a := by cases v <;> rfl

/-- Settles O56: each region of the window is read at a general index, the registers of their own are closed. -/
theorem resetLeavesTheStatedValues : Obligations.ResetLeavesTheStatedValues := by
  unfold Obligations.ResetLeavesTheStatedValues
  intro q n d hq hn hd
  refine ⟨?rows, fun _ => ⟨rfl, rfl⟩, fun a => rfl, fun a ha => ?wall, fun a ha => ?rest,
    fun p hp => hubRead_reset_lanes hp, rfl, rfl⟩
  case rows =>
    have queue {k : Nat} (hk : 0x1000 ≤ k ∧ k < 0x1040) := hubRead_reset_launchQueue hq hk
    have turn {k : Nat} (hk : 0x8000 ≤ k ∧ k < 0x8020) := hubRead_reset_turnTable hn hk
    simp only [resetRows, List.forall_mem_cons]
    exact ⟨rfl, queue (by decide), queue (by decide), queue (by decide), queue (by decide), queue (by decide),
      hubRead_reset_notify hn, hubRead_reset_notifyConfig hn, hubRead_reset_deviceWindow hd, turn (by decide),
      turn (by decide), turn (by decide), turn (by decide), rfl, rfl, rfl, rfl, rfl, rfl, nofun⟩
  case wall => rw [byte_reset]; simp [unlisted]; omega
  case rest => rw [byte_reset]; simp [unlisted]; omega
end Sys2Proof.Machine
end

section
/-! SUPPORT. What memory accesses and error records leave alone in the hub. -/

namespace Sys2Proof.Machine

/-! ## Memory accesses leave the hub alone -/

@[simp] theorem State.putByte_hub (s : State) (v : Bool) (a : Nat) (b : Byte) : (s.putByte v a b).hub = s.hub := by
  cases v <;> rfl

@[simp] theorem State.putBytes_hub (s : State) (v : Bool) (a : Nat) (bs : List Byte) : (s.putBytes v a bs).hub = s.hub := by
  induction bs generalizing s a with
  | nil => rfl
  | cons b bs ih => rw [State.putBytes, ih, State.putByte_hub]

theorem State.lmeta_hub (s : State) (m : SMap (BitVec 61)) : State.hub { s with lmeta := m } = s.hub := rfl

theorem State.putSealed_hub (s : State) (l d : Nat) (p : List Byte) : (s.putSealed l d p).hub = s.hub := by
  unfold State.putSealed
  generalize sealLine (s.keyDom d) (s.fullPa l) p = c
  exact (State.lmeta_hub ..).trans (State.putBytes_hub s false l c.1)

theorem State.breakLine_hub (s : State) (v : Bool) (l : Nat) : (s.breakLine v l).hub = s.hub := by
  unfold State.breakLine; split <;> rfl

theorem State.writeLine_hub {s u : State} {v : Bool} {l o : Nat} {d : List Byte} (h : s.writeLine v l o d = some u) :
    u.hub = s.hub := by
  rw [← State.breakLine_hub s v l]
  simp only [State.writeLine] at h
  split at h
  · split at h <;> cases h <;> exact State.putBytes_hub ..
  · split at h
    · split at h
      · cases h
      · cases h; exact State.putSealed_hub ..
    · cases h; exact State.putBytes_hub ..

theorem State.writeLines_hub {s u : State} {v : Bool} {n a : Nat} {d : List Byte} (h : s.writeLines v n a d = some u) :
    u.hub = s.hub := by
  induction n generalizing s a d with
  | zero => cases h; rfl
  | succ n ih =>
    cases d with
    | nil => cases h; rfl
    | cons b d =>
      simp only [State.writeLines] at h
      split at h
      · cases h
      · rename_i t ht
        rw [ih h, State.writeLine_hub ht]

@[simp] theorem State.hubWrite_hub (s : State) (a : Nat) (d : List Byte) : (s.hubWrite a d).hub = s.hub := by
  unfold State.hubWrite
  cases h : s.write false a d with
  | none => rfl
  | some u => exact State.writeLines_hub h

/-! ## What error records leave alone in the hub -/

/-- The hub without what an error record may change: the ring and its held records, the service level, and the launches
with their save areas and pocket entries (R49, R357, R358). -/
def Hub.besidesErr (h : Hub) : Hub :=
  { h with errseq := 0, aonbuf := [], errheld := [], errlost := 0, errhead := 0, svc := 0, fused := false, fatal := false
           launches := [], saves := [], pockets := [] }

@[simp] theorem State.hostIrq_hub (s : State) (f : Bool) (v : Nat) : (s.hostIrq f v).hub = s.hub := by
  unfold State.hostIrq
  generalize (if f then s.hub.hostEn.2 else s.hub.hostEn.1) = on
  cases on <;> rfl

@[simp] theorem State.hostIrqs_hub (s : State) : s.hostIrqs.hub = s.hub := by simp [State.hostIrqs]

@[simp] theorem State.sidecarIrq_hub (s : State) : s.sidecarIrq.hub = s.hub := rfl

@[simp] theorem State.sourceErr_hub (s : State) (n : Nat) : (s.sourceErr n).hub = s.hub := by
  unfold State.sourceErr; split <;> simp

theorem State.setLevel_besidesErr (s : State) (n : Nat) : (s.setLevel n).hub.besidesErr = s.hub.besidesErr := by
  unfold State.setLevel; split
  · rfl
  · rw [State.sidecarIrq_hub, State.hostIrqs_hub]; rfl

theorem State.ringWrite_besidesErr (s : State) (b : List Byte) : (s.ringWrite b).hub.besidesErr = s.hub.besidesErr := by
  simp only [State.ringWrite, State.sidecarIrq_hub, State.hostIrqs_hub, State.hubWrite_hub]; rfl

theorem State.record_besidesErr (s : State) (r : ErrRec) : (s.record r).hub.besidesErr = s.hub.besidesErr := by
  simp only [State.record]
  generalize (if r.cls = 2 then r.bytes s.hub.errseq.toNat s.time else s.hub.aonbuf) = buf
  split
  · split <;> rfl
  · exact State.ringWrite_besidesErr ..

theorem Hub.freeSaves_besidesErr (l : List Nat) (h : Hub) : (l.foldl Hub.freeSave h).besidesErr = h.besidesErr := by
  induction l generalizing h with
  | nil => rfl
  | cons a l ih => rw [List.foldl_cons, ih]; rfl

theorem State.unfitLaunch_besidesErr (s : State) (l : Nat) : (s.unfitLaunch l).hub.besidesErr = s.hub.besidesErr := by
  rw [State.unfitLaunch, State.sourceErr_hub, State.record_besidesErr]
  exact Hub.freeSaves_besidesErr ..

theorem State.foldl_besidesErr {α : Type} (f : State → α → State) (hf : ∀ s a, (f s a).hub.besidesErr = s.hub.besidesErr)
    (l : List α) (s : State) : (l.foldl f s).hub.besidesErr = s.hub.besidesErr := by
  induction l generalizing s with
  | nil => rfl
  | cons a l ih => rw [List.foldl_cons, ih, hf]

theorem State.endLaunches_besidesErr (s : State) : s.endLaunches.hub.besidesErr = s.hub.besidesErr := by
  refine State.foldl_besidesErr _ (fun s kv => ?_) _ s
  split
  · exact State.unfitLaunch_besidesErr ..
  · rfl

theorem State.err_besidesErr (s : State) (r : ErrRec) : (s.err r).hub.besidesErr = s.hub.besidesErr := by
  unfold State.err
  split
  · calc ((s.record r).endLaunches.setLevel 0).hub.besidesErr
      _ = (s.record r).endLaunches.hub.besidesErr := State.setLevel_besidesErr ..
      _ = (s.record r).hub.besidesErr := State.endLaunches_besidesErr ..
      _ = s.hub.besidesErr := State.record_besidesErr ..
  · exact State.record_besidesErr ..

theorem State.detectLine_besidesErr (s : State) (v : Bool) (l : Nat) :
    (s.detectLine v l).hub.besidesErr = s.hub.besidesErr := by
  simp only [State.detectLine]
  split
  · rfl
  all_goals rw [State.err_besidesErr]

theorem State.detect_besidesErr (s : State) (v : Bool) (a n : Nat) : (s.detect v a n).hub.besidesErr = s.hub.besidesErr := by
  unfold State.detect
  split
  · rfl
  · exact State.foldl_besidesErr _ (fun s l => State.detectLine_besidesErr s v l) _ s

end Sys2Proof.Machine
end

section
/-! PROOFS. Register writes of agents outside the pieces (R3, R68, R85, R89, R357, R363, R364). -/

namespace Sys2Proof.Machine

/-! ## Notify writes (R89, R196) -/

/-- A change of every listed value that leaves the default as it is. -/
theorem SMap.get_mapValue {α : Type} (d : α) (f : α → α) (hd : f d = d) (m : SMap α) (a : Nat) :
    SMap.get d (m.map fun kv => (kv.1, f kv.2)) a = f (SMap.get d m a) := by
  induction m with
  | nil => exact hd.symm
  | cons kv m ih =>
    obtain ⟨k, v⟩ := kv
    simp only [List.map_cons, SMap.get, ih]
    split <;> rfl

theorem State.setNotify_pieceOf (s : State) (n p : Nat) (v : W64) :
    (s.setNotify n v).pieceOf p = (s.pieceOf p).seeNotify n v :=
  SMap.get_mapValue ({} : Piece) (fun p => p.seeNotify n v) rfl s.pieces p

theorem Piece.seeNotify_met {p : Piece} {n : Nat} {m v : W64} (h : p.await = .wfn n m)
    (hv : v &&& (if m = 0 then BitVec.allOnes 64 else m) ≠ 0) : (p.seeNotify n v).await = .result v := by
  have hv' : (v &&& (if m = 0 then -1 else m) != 0) = true := by simpa using hv
  simp only [Piece.seeNotify, h]
  rw [if_pos]
  simp
  exact hv

theorem Piece.seeNotify_other {p : Piece} {n : Nat} (v : W64) (h : ∀ m, p.await ≠ .wfn n m) : p.seeNotify n v = p := by
  unfold Piece.seeNotify
  split
  case h_1 k m hk =>
    have hn : k ≠ n := fun e => h m (e ▸ hk)
    simp [hn]
  case h_2 => rfl

theorem State.setNotify_notified (s : State) (n : Nat) (v : W64) : Notified s (s.setNotify n v) n v where
  value := SMap.get_set_self ..
  others k hk := (SMap.get_set ..).trans (if_neg (Ne.symm hk))
  wakes p m hm hv := by rw [State.setNotify_pieceOf]; exact Piece.seeNotify_met hm hv
  waits p hp := by rw [State.setNotify_pieceOf]; exact Piece.seeNotify_other v hp
  memory _ _ := rfl

theorem NCfg.mayWrite_of_mayNotify {c : NCfg} {ag : HubAgent} (h : MayNotify c ag) : c.mayWrite ag = true := by
  obtain ⟨hhost, hside⟩ := h
  cases ag with
  | host0 => exact hhost (.inl rfl)
  | host1 => exact hhost (.inr rfl)
  | sidecar => exact hside rfl
  | mgmt | thread => rfl

/-- A notify write that is let through sets the register to what it combines to. -/
theorem State.agentNotify_notified {s : State} {ag : HubAgent} {n : Nat} (how : Nat) (v : W64) (hn : n < 256)
    (hp : s.hub.present ag = true) (hm : MayNotify (s.ncfgOf n) ag) :
    ∃ u, s.byAgent ag (fun s => s.agentNotify ag how n v) = .next u ∧ Notified s u n (notifyCombine how (s.notifyVal n) v) := by
  have h256 : ¬ 256 ≤ n := by omega
  refine ⟨_, by simp only [State.byAgent, hp, if_true, State.agentNotify, h256, if_false, NCfg.mayWrite_of_mayNotify hm]; rfl,
    State.setNotify_notified ..⟩

/-! ## Registers of the management core (R3, R68) -/

/-- The state in which a register of `firmwareRows` holds a value. -/
def State.setFirmware (s : State) (off : Nat) (x : W64) : State :=
  match off with
  | 0x3000 => { s with hub := { s.hub with wallbase := x } }
  | 0x3100 => { s with hub := { s.hub with toilcfg := x } }
  | 0x3318 => { s with hub := { s.hub with scirq := x } }
  | 0x3710 => { s with hub := { s.hub with supvec := x } }
  | 0x3718 => { s with hub := { s.hub with rootvec := x } }
  | 0x3800 => { s with hub := { s.hub with errbase := x } }
  | 0x3E08 => { s with hub := { s.hub with sgaddr := x } }
  | _ => s

theorem State.setFirmware_hub (s : State) (off : Nat) (x : W64) :
    s.setFirmware off x = { s with hub := (s.setFirmware off x).hub } := by
  unfold State.setFirmware; split <;> rfl

/-- Such a register reads the value, and every other offset of the window what it read before. -/
theorem State.hubRead_setFirmware (s : State) (x : W64) (off : Nat) :
    ∀ r ∈ firmwareRows, (s.setFirmware r.1 x).hubRead off = if off = r.1 then x else s.hubRead off := by
  simp only [firmwareRows, List.forall_mem_cons]
  refine ⟨?_, ?_, ?_, ?_, ?_, ?_, ?_, nofun⟩
  all_goals
    split
    case isTrue h => subst h; exact BitVec.ofNat_toNat ..
    simp only [State.hubRead]
    congr 1
    iterate 12 refine ite_congr rfl (fun _ => rfl) (fun _ => ?_)
    split
    any_goals contradiction
    all_goals rfl

/-- A field that `keep` cuts out of a value is the value under the mask that has ones there. -/
theorem keep_eq_and {mask : W64} {lo n : Nat} (v : W64)
    (hm : ∀ i, i < 64 → mask.getLsbD i = decide (lo ≤ i ∧ i < lo + n)) : keep v lo n = v &&& mask := by
  apply BitVec.eq_of_getLsbD_eq
  intro i hi
  rw [BitVec.getLsbD_and, hm i hi]
  simp only [keep, bits, BitVec.getLsbD_ofNat, hi, decide_true, Bool.true_and, Nat.testBit_mul_two_pow,
    Nat.testBit_mod_two_pow, Nat.testBit_div_two_pow, BitVec.testBit_toNat]
  by_cases h : lo ≤ i
  · have hlt : (i - lo < n) ↔ (i < lo + n) := by omega
    simp [h, hlt, Bool.and_comm]
  · simp [h]

theorem exec_registerWrite_firmware (s : State) (v : W64) :
    ∀ r ∈ firmwareRows, exec (.registerWrite .mgmt r.1 v) s = .next (s.setFirmware r.1 (v &&& r.2)) := by
  simp only [firmwareRows, List.forall_mem_cons]
  have field (lo n : Nat) (mask : W64) (hm : ∀ i, i < 64 → mask.getLsbD i = decide (lo ≤ i ∧ i < lo + n)) :
      v &&& mask = keep v lo n := (keep_eq_and v hm).symm
  rw [field 20 25 0x1FFFFFF00000 (by decide), field 0 16 0xFFFF (by decide), field 0 4 0xF (by decide),
    field 12 33 0x1FFFFFFFF000 (by decide), field 8 37 0x1FFFFFFFFF00 (by decide), BitVec.and_allOnes]
  exact ⟨rfl, rfl, rfl, rfl, rfl, rfl, rfl, nofun⟩

/-! ## ERRTAIL (R357) -/

theorem State.drainHeld_empty (n : Nat) (s : State) (h : s.hub.errheld = []) : State.drainHeld n s = s := by
  cases n with
  | zero => rfl
  | succ n => simp only [State.drainHeld, h]

theorem exec_errtailWrite {s : State} {ag : HubAgent} (v : W64) (ha : ag = .host0 ∨ ag = .sidecar ∨ ag = .mgmt)
    (hp : s.hub.present ag = true) (hh : s.hub.errheld = []) :
    exec (.errtailWrite ag v) s = .next { s with hub := { s.hub with errtail := v.setWidth 16 } } := by
  have hag : (ag == .host0 || ag == .sidecar || ag == .mgmt) = true := by
    rcases ha with rfl | rfl | rfl <;> rfl
  change s.byAgent ag (fun s => s.errtail ag v) = _
  simp only [State.byAgent, hp, if_true, State.errtail, hag]
  exact congrArg _ (State.drainHeld_empty 64 _ hh)

/-! ## Move entries (R363) -/

theorem State.movByAgent_eq {s : State} {ag : HubAgent} {n : Nat} (v : W64) (ha : ag = .mgmt ∨ ag = .thread) (hn : n < 8) :
    s.movByAgent ag n v = s.movCtl n v := by
  have hag : (ag == .mgmt || ag == .thread) = true := by rcases ha with rfl | rfl <;> rfl
  simp only [State.movByAgent, hag, hn, decide_true, Bool.and_self, if_true]

/-- An entry that is not valid takes force where its pages overlap those of no other valid entry. -/
theorem State.movCtl_start {s : State} {n : Nat} {v : W64} (hv : (s.hub.mov n).v = false) (h0 : bitAt v.toNat 0 = true)
    (hfit : ∀ j, j < 8 → j ≠ n → (s.hub.mov j).v = true →
      MovEntry.overlaps (s.hub.mov j) { s.hub.mov n with v := true } = false) :
    s.movCtl n v = s.setMov n { s.hub.mov n with v := true, fwd := bitAt v.toNat 1 } := by
  have hclash : s.movClash n { s.hub.mov n with v := true, fwd := bitAt v.toNat 1 } = false := by
    simp only [State.movClash, List.any_eq_false, List.mem_range, Bool.and_eq_true, bne_iff_ne, not_and, Bool.not_eq_true]
    exact fun j hj ⟨hne, hjv⟩ => hfit j hj hne hjv
  simp only [State.movCtl, hv, h0, hclash, Bool.and_false, Bool.false_eq_true, if_false]

theorem State.movCtl_valid {s : State} {n : Nat} {v : W64} (hv : (s.hub.mov n).v = true) (h0 : bitAt v.toNat 0 = true) :
    s.movCtl n v = s.setMov n { s.hub.mov n with fwd := (s.hub.mov n).fwd || bitAt v.toNat 1 } := by
  simp only [State.movCtl, hv, h0, if_true]

theorem State.movCtl_end {s : State} {n : Nat} {v : W64} (hv : (s.hub.mov n).v = true) (h0 : bitAt v.toNat 0 = false) :
    s.movCtl n v = s.setMov n { s.hub.mov n with v := false } := by
  simp only [State.movCtl, hv, h0, if_true, Bool.false_eq_true, if_false]

/-! ## Held requests (R364) -/

theorem exec_moveHoldExpire {s : State} {n : Nat} {h : HeldReq} (hf : s.hub.held.find? (fun g => g.id == n) = some h)
    (hh : s.holdsReq (unitPa h.bytes) = true) (ht : h.since + 2 ^ 20 ≤ s.time) (hr : 3 ≤ s.replayRoom h.pair) :
    exec (.moveHoldExpire n) s = .next ((s.dropHeld n).refuseReq h.pair h.bytes 3) := by
  change execMoveHoldExpire n s = _
  simp only [execMoveHoldExpire, hf, hh]
  rw [if_neg (by simp; omega)]

/-! ## Subgraph loads (R85) -/

/-- A load request: bit 15 of the value written is cleared. -/
theorem keep_putBits_load (v : W64) : keep (BitVec.ofNat 64 (putBits v.toNat 15 1 0)) 0 16 = v &&& 0x7FFF := by
  rw [← keep_eq_and (lo := 0) (n := 15) v (by decide)]
  apply BitVec.eq_of_toNat_eq
  have hv := v.isLt
  simp only [keep, putBits, bits, BitVec.toNat_ofNat]
  omega

/-- An unload request: bit 15 of the value written is set. -/
theorem keep_putBits_unload (v : W64) : keep (BitVec.ofNat 64 (putBits v.toNat 15 1 1)) 0 16 = (v &&& 0x7FFF) ||| 0x8000 := by
  rw [← keep_eq_and (lo := 0) (n := 15) v (by decide)]
  apply BitVec.eq_of_toNat_eq
  have hv := v.isLt
  have hor := Nat.two_pow_add_eq_or_of_lt (i := 15) (b := v.toNat % 2 ^ 15) (by omega) 1
  have hlow : (keep v 0 15).toNat = v.toNat % 2 ^ 15 := by
    simp only [keep, bits, BitVec.toNat_ofNat]; omega
  rw [BitVec.toNat_or, hlow, Nat.or_comm]
  refine Eq.trans ?_ hor
  simp only [keep, putBits, bits, BitVec.toNat_ofNat]
  omega

theorem State.sgWrite_start {s : State} {ag : HubAgent} (v : W64) (ha : ag = .mgmt ∨ ag = .thread) (hb : s.hub.sgbusy = false) :
    s.sgWrite ag v = { s with hub := { s.hub with
      sgbusy := true, sgreq := keep v 0 16, sgfrom := s.hub.sgaddr, sgdom := if ag = .mgmt then none else some s.domain } } := by
  rcases ha with rfl | rfl
  · simp [State.sgWrite, State.sgStart, hb]
  · simp [State.sgWrite, State.sgStart, hb]

/-- The place that a subgraph request names: the owner's number and side, and the subgraph's number. -/
def sgPlace (req : Nat) : Nat := 32 * (512 * (req / 2 ^ 9 % 2) + req % 2 ^ 9) + req / 2 ^ 10 % 32

/-- A request that names a memory-side owner which is not there. -/
abbrev SgOutside (req : Nat) : Prop := req / 2 ^ 9 % 2 = 1 ∧ 128 ≤ req % 2 ^ 9

theorem sgKey_request (v : Nat) : sgKey ((if bitAt v 9 then 512 else 0) + bits v 0 9) (bits v 10 5) = sgPlace v := by
  have hi : bits v 0 9 = v % 2 ^ 9 := by simp [bits]
  have hside : (if bitAt v 9 then 512 else 0) = 512 * (v / 2 ^ 9 % 2) := by
    simp only [bitAt, beq_iff_eq]; split <;> omega
  rw [hi, hside]; rfl

theorem sgRequest_outside (v : Nat) : (bitAt v 9 && decide (128 ≤ bits v 0 9)) = decide (SgOutside v) := by
  have hi : bits v 0 9 = v % 2 ^ 9 := by simp [bits]
  rw [hi, bitAt, Bool.beq_eq_decide_eq, Bool.decide_and]

theorem State.detect_subgraph (s : State) (v : Bool) (a n k : Nat) : (s.detect v a n).subgraph k = s.subgraph k := by
  have h := congrArg Hub.subgraphs (State.detect_besidesErr s v a n)
  exact congrArg (SMap.get none · k) h

theorem State.setSubgraph_subgraph (s : State) (k m : Nat) (x : Option Plane) :
    (s.setSubgraph k x).subgraph m = if k = m then x else s.subgraph m := SMap.get_set ..

/-- The state after a subgraph request has been answered with a status. -/
def State.sgAnswer (s : State) (st : Nat) : State := { s with hub := { s.hub with sgbusy := false, sgstat := st } }

@[simp] theorem State.sgAnswer_subgraph (s : State) (st k : Nat) : (s.sgAnswer st).subgraph k = s.subgraph k := rfl

@[simp] theorem State.extend_subgraph (s : State) (i k : Nat) (d : BitVec 256) : (s.extend i d).subgraph k = s.subgraph k := rfl

section
variable {s : State} (hb : s.hub.sgbusy = true)
include hb

theorem subgraphLoadDone_outside (ho : SgOutside s.hub.sgreq.toNat) :
    exec .subgraphLoadDone s = .next (s.sgAnswer 3) := by
  have hout := (sgRequest_outside _).trans (decide_eq_true ho)
  change execSubgraphLoadDone s = _
  simp only [execSubgraphLoadDone, hb, hout, Bool.not_true, Bool.false_eq_true, if_false, if_true]
  rfl

theorem subgraphLoadDone_unload (ho : ¬SgOutside s.hub.sgreq.toNat) (hu : s.hub.sgreq.toNat / 2 ^ 15 % 2 = 1) :
    exec .subgraphLoadDone s = .next ((s.setSubgraph (sgPlace s.hub.sgreq.toNat) none).sgAnswer 0) := by
  have h15 : bitAt s.hub.sgreq.toNat 15 = true := by rw [bitAt, hu]; rfl
  have hout := (sgRequest_outside _).trans (decide_eq_false ho)
  change execSubgraphLoadDone s = _
  simp only [execSubgraphLoadDone, hb, hout, Bool.not_true, Bool.false_eq_true, if_false, h15, if_true, sgKey_request]
  rfl

theorem subgraphLoadDone_load {st : Nat} {f : Plane} {b : List Byte} (ho : ¬SgOutside s.hub.sgreq.toNat)
    (hu : s.hub.sgreq.toNat / 2 ^ 15 % 2 = 0) (hr : (s.detect false s.hub.sgfrom.toNat 256).sgRecord = (f, st, b)) :
    exec .subgraphLoadDone s =
      let s0 := s.detect false s.hub.sgfrom.toNat 256
      .next (if st = 0 then ((s0.setSubgraph (sgPlace s.hub.sgreq.toNat) (some f)).extend 2
          (BitVec.ofNat 256 (bytesNat (sha256 (nats b))))).sgAnswer 0
        else s0.sgAnswer st) := by
  have h15 : bitAt s.hub.sgreq.toNat 15 = false := by rw [bitAt, hu]; rfl
  have hout := (sgRequest_outside _).trans (decide_eq_false ho)
  change execSubgraphLoadDone s = _
  simp only [execSubgraphLoadDone, hb, hout, Bool.not_true, Bool.false_eq_true, if_false, h15, sgKey_request, hr]
  cases st <;> rfl

end

/-- Settles O41, register by register. -/
theorem registerWritesSet : Obligations.RegisterWritesSet := by
  unfold Obligations.RegisterWritesSet
  intro s ag n v only fw
  refine ⟨?notify, ?firmware, exec_errtailWrite v, ?moves, fun h hf hh ht hr => exec_moveHoldExpire hf hh ht hr,
    ?sgStart, ?sgDone⟩
  case notify =>
    intro hn hp hm
    simp only [List.forall_mem_cons]
    exact ⟨State.agentNotify_notified 0 v hn hp hm, State.agentNotify_notified 1 v hn hp hm,
      State.agentNotify_notified 2 v hn hp hm, fun _ h => absurd h List.not_mem_nil⟩
  case firmware =>
    intro r hr
    refine ⟨_, exec_registerWrite_firmware s v r hr, State.setFirmware_hub .., ?_, fun off hne => ?_⟩
    · rw [State.hubRead_setFirmware s _ _ r hr, if_pos rfl]
    · rw [State.hubRead_setFirmware s _ _ r hr, if_neg hne]
  case moves =>
    intro ha hn m set fits
    have write {v : W64} {u : State} (h : s.movCtl n v = u) :
        (.next (s.movByAgent ag n v) : Host.Outcome State Fault Refusal) = .next u :=
      congrArg _ ((State.movByAgent_eq v ha hn).trans h)
    refine ⟨fun hv hfit => ⟨write (State.movCtl_start hv rfl hfit), write (State.movCtl_start hv rfl hfit)⟩,
      fun hv => ⟨write ?_, write ?_, write (State.movCtl_end hv rfl)⟩⟩
    · rw [State.movCtl_valid hv rfl, show bitAt (1 : W64).toNat 1 = false from rfl, Bool.or_false]; rfl
    · rw [State.movCtl_valid hv rfl, show bitAt (3 : W64).toNat 1 = true from rfl, Bool.or_true]; rfl
  case sgStart =>
    intro ha hb dom ask
    refine ⟨congrArg Host.Outcome.next ((State.sgWrite_start _ ha hb).trans ?_),
      congrArg Host.Outcome.next ((State.sgWrite_start _ ha hb).trans ?_)⟩
    · rw [keep_putBits_load]
    · rw [keep_putBits_unload]
  case sgDone =>
    intro hb side i key s0
    have hkey : sgPlace s.hub.sgreq.toNat = key := rfl
    refine ⟨fun hs hi => subgraphLoadDone_outside hb ⟨hs, hi⟩, fun ho hu => ?unload, fun ho hu f st b hr => ?load⟩
    case unload =>
      refine ⟨_, subgraphLoadDone_unload hb ho hu, ?_, fun m hm => ?_, rfl, rfl⟩
      · rw [State.sgAnswer_subgraph, State.setSubgraph_subgraph, if_pos hkey]
      · rw [State.sgAnswer_subgraph, State.setSubgraph_subgraph, hkey, if_neg (Ne.symm hm)]
    case load =>
      refine ⟨_, subgraphLoadDone_load hb ho hu hr, ?_⟩
      have frame (m : Nat) : s0.subgraph m = s.subgraph m := State.detect_subgraph ..
      by_cases h0 : st = 0
      · simp only [h0, if_true, State.sgAnswer_subgraph, State.extend_subgraph, State.setSubgraph_subgraph, hkey]
        exact ⟨rfl, rfl, trivial, fun m hm => (if_neg (Ne.symm hm)).trans (frame m)⟩
      · simp only [h0, if_false, State.sgAnswer_subgraph]
        exact ⟨rfl, rfl, frame key, fun m _ => frame m⟩

end Sys2Proof.Machine
end

section
/-! PROOFS. System registers, counters, shapes and invalidations of S (R150, R194, R198, R199, R201). -/

namespace Sys2Proof.Machine

/-! ## Words of S that change their piece -/

/-- What issue may change in the piece of a word of S. -/
def Piece.issuedAs (p : Piece) (x : EngSt) (tk : SMap (List (List Dep))) (c : SMap W64) (m : Bool) : Piece :=
  { p with s := x, tacks := tk, sys := { p.sys with cnt := c }, moved := m }

/-- A piece with other system registers. -/
def Piece.withSys (p : Piece) (y : SysRegs) : Piece := { p with sys := y }

theorem Piece.begun_issuedAs (p : Piece) (t : BitVec 4) : ∃ x tk c m, p.begun 0 t = p.issuedAs x tk c m := by
  obtain ⟨x, tk, c, m, hb, -⟩ := Piece.begun_form p 0 t (by decide)
  exact ⟨x, tk, c, m, hb⟩

/-- A word of S whose effect leaves engines and tacks alone completes with what the effect makes of the rest. -/
theorem Ran.of_setPiece {s : State} {t : BitVec 4} {p q : Piece} (h : CanRun s 0 t)
    (he : ∀ k, k < 4 → q.eng k = (s.piece.begun 0 t).eng k) (hk : q.tacks = (s.piece.begun 0 t).tacks)
    (hp : q.besidesWord = p.besidesWord) :
    Ran s ((Res.done ((s.begun 0 t).setPiece q)).apply 0 t) 0 t (s.piece.s.pc + 4) p s := by
  refine Ran.of_done h (by decide) ?_ ?_ ?_ fun x => ?_
  · simpa using he
  · simpa using hk
  · simpa using hp
  · simp only [State.begun, State.setPiece_setPiece]; rfl

/-- A word of S whose effect changes its piece, and leaves engines and tacks alone. -/
theorem Ran.of_modPiece {s : State} {t : BitVec 4} {f : Piece → Piece} {p : Piece} (h : CanRun s 0 t)
    (hf : ∀ x tk c m, (∀ k, k < 4 → (f (s.piece.issuedAs x tk c m)).eng k = (s.piece.issuedAs x tk c m).eng k)
      ∧ (f (s.piece.issuedAs x tk c m)).tacks = tk
      ∧ (f (s.piece.issuedAs x tk c m)).besidesWord = p.besidesWord) :
    Ran s ((Res.done ((s.begun 0 t).modPiece f)).apply 0 t) 0 t (s.piece.s.pc + 4) p s := by
  obtain ⟨x, tk, c, m, hb⟩ := Piece.begun_issuedAs s.piece t
  obtain ⟨he, hk, hp⟩ := hf x tk c m
  rw [State.modPiece_eq, State.begun_piece]
  refine Ran.of_setPiece h ?_ ?_ ?_ <;> rw [hb]
  · exact he
  · exact hk
  · exact hp

/-- A register written at the end of a word of S. -/
theorem Ran.of_setReg {s : State} {t : BitVec 4} (d : BitVec 5) (v : W64) (h : CanRun s 0 t) :
    Ran s ((Res.done ((s.begun 0 t).setPiece ((s.piece.begun 0 t).setReg d v))).apply 0 t) 0 t (s.piece.s.pc + 4)
      (s.piece.setReg d v) s := by
  obtain ⟨x, tk, c, m, hb⟩ := Piece.begun_issuedAs s.piece t
  refine Ran.of_setPiece h ?_ ?_ ?_ <;> rw [hb] <;> unfold Piece.setReg Piece.setRegN <;> split <;> intros <;> rfl

/-! ## Reading system registers (R150, R194) -/

/-- The system registers below the pocket map, with what they read (R150). -/
def State.lowRegs (s : State) : SMap W64 :=
  (0x00, s.hub.ident) :: (0x21, BitVec.ofNat 64 s.piece.vshareReg) :: (0x38, BitVec.ofNat 64 s.piece.tstatReg)
    :: (0x41, BitVec.ofNat 64 s.hub.svc.toNat) :: (0x42, BitVec.ofNat 64 s.piece.pieceReg) :: sysRows s.piece

/-- A key that is not listed reads as the default. -/
theorem SMap.get_absent {α : Type} (d : α) {m : SMap α} {k : Nat} (h : k ∉ m.map (·.1)) : SMap.get d m k = d := by
  induction m with
  | nil => rfl
  | cons kv m ih =>
    obtain ⟨a, v⟩ := kv
    simp only [List.map_cons, List.mem_cons, not_or] at h
    rw [SMap.get, if_neg (Ne.symm h.1), ih h.2]

/-- One listed value replaced. -/
theorem SMap.get_replace {α : Type} (d x : α) {m : SMap α} {r : Nat} (k : Nat) (hr : r ∈ m.map (·.1)) :
    SMap.get d (m.map fun kv => if kv.1 = r then (kv.1, x) else kv) k = if k = r then x else SMap.get d m k := by
  induction m with
  | nil => cases hr
  | cons kv m ih =>
    obtain ⟨a, v⟩ := kv
    by_cases hak : a = k
    · subst hak
      by_cases har : a = r <;> simp [SMap.get, har]
    · have hcons (y : α) (n : SMap α) : SMap.get d ((a, y) :: n) k = SMap.get d n k := if_neg hak
      have hhead : (if a = r then (a, x) else (a, v)) = (a, if a = r then x else v) := by split <;> rfl
      rw [List.map_cons, hhead, hcons, hcons]
      by_cases hmem : r ∈ m.map (·.1)
      · exact ih hmem
      · have har : r = a := by simpa [hmem] using hr
        have hid : (m.map fun kv => if kv.1 = r then (kv.1, x) else kv) = m := by
          refine (List.map_congr_left fun kv hkv => if_neg ?_).trans (List.map_id m)
          exact fun h => hmem (h ▸ List.mem_map_of_mem hkv)
        rw [hid, if_neg (fun h => hak (har ▸ h.symm))]

theorem State.sysRead_low (s : State) {k : Nat} (hk : k < 0x100) : s.sysRead k = SMap.get 0 s.lowRegs k := by
  have h1 : ¬ (decide (0x100 ≤ k) && decide (k ≤ 0x13F)) = true := by simp; omega
  have h2 : ¬ (decide (0x180 ≤ k) && decide (k ≤ 0x1BF)) = true := by simp; omega
  have h3 : ¬ (decide (0x200 ≤ k) && decide (k ≤ 0x23F)) = true := by simp; omega
  simp only [State.sysRead, if_neg h1, if_neg h2, if_neg h3]
  split
  case h_29 =>
    refine (SMap.get_absent 0 fun h => ?_).symm
    simp only [State.lowRegs, sysRows, List.map_cons, List.map_nil, List.mem_cons, List.not_mem_nil, or_false] at h
    repeat' (rcases h with h | h)
    all_goals contradiction
  all_goals rfl

/-- Below the pocket map, a system register is read from the hub's IDENT and SVC and from what no word changes. -/
theorem State.sysRead_congr {s u : State} (hp : u.piece.besidesWord = s.piece.besidesWord) (hi : u.hub.ident = s.hub.ident)
    (hv : u.hub.svc = s.hub.svc) {k : Nat} (hk : k < 0x100) : u.sysRead k = s.sysRead k := by
  have key (x : State) : x.lowRegs = (x.setPiece x.piece.besidesWord).lowRegs := by
    simp only [State.lowRegs, State.piece_setPiece, State.setPiece_hub]; rfl
  rw [State.sysRead_low _ hk, State.sysRead_low _ hk, key u, key s, hp]
  simp only [State.lowRegs, State.piece_setPiece, State.setPiece_hub, hi, hv]

/-! ## Writing system registers (R3, R194) -/

/-- The registers that a thread writes and that have bits of their own, with a value put into one of them. -/
def SysRegs.put (y : SysRegs) (r : Nat) (x : W64) : SysRegs :=
  match r with
  | 0x10 => { y with slip := x }
  | 0x11 => { y with qtrap := x }
  | 0x12 => { y with lodc := x, lodDone := false }
  | 0x13 => { y with lodlim := x, lodDone := false }
  | 0x14 => { y with lodev := x }
  | 0x16 => { y with sem := x }
  | 0x20 => { y with troot := x }
  | 0x22 => { y with vwin := SMap.set 0 y.vwin 0 x }
  | 0x23 => { y with vwin := SMap.set 0 y.vwin 1 x }
  | 0x24 => { y with vwin := SMap.set 0 y.vwin 2 x }
  | 0x25 => { y with vwin := SMap.set 0 y.vwin 3 x }
  | 0x26 => { y with stack := x }
  | 0x31 => { y with tpcs := x }
  | 0x36 => { y with tvec := x }
  | 0x40 => { y with wdog := x }
  | _ => y

/-- The state in which a system register of the acting piece holds a value. -/
def State.putSys (s : State) (r : Nat) (x : W64) : State := s.setPiece (s.piece.withSys (s.piece.sys.put r x))

theorem State.putSys_piece (s : State) (r : Nat) (x : W64) :
    (s.putSys r x).piece = s.piece.withSys (s.piece.sys.put r x) := State.piece_setPiece ..

theorem sysMasks_below (p : Piece) (v : W64) : ∀ m ∈ sysMasks p v, m.1 < 0x100 := by
  simp [sysMasks]

/-- A system register that has been put reads the value, and every other one below the pocket map what it read before. -/
theorem State.sysRead_put (s : State) (v x : W64) {k : Nat} (hk : k < 0x100) :
    ∀ m ∈ sysMasks s.piece v, (s.putSys m.1 x).sysRead k = if k = m.1 then x else s.sysRead k := by
  have of_replace (r : Nat) (hr : r ∈ s.lowRegs.map (·.1))
      (h : (s.putSys r x).lowRegs = s.lowRegs.map fun kv => if kv.1 = r then (kv.1, x) else kv) :
      (s.putSys r x).sysRead k = if k = r then x else s.sysRead k := by
    rw [State.sysRead_low _ hk, State.sysRead_low _ hk, h, SMap.get_replace _ _ _ hr]
  simp only [sysMasks, List.forall_mem_cons]
  refine ⟨?_, ?_, ?_, ?_, ?_, ?_, ?_, ?_, ?_, ?_, ?_, ?_, ?_, ?_, ?_, fun _ h => absurd h List.not_mem_nil⟩
  all_goals
    refine of_replace _ ?_ ?_
    · simp [State.lowRegs, sysRows]
    · simp [State.putSys, State.lowRegs, sysRows, Piece.withSys, SysRegs.put, SMap.get_set, Piece.level, Piece.vshareReg,
        Piece.tstatReg, Piece.active, Piece.pieceReg, Piece.shape]

theorem bits_low (v n : Nat) : bits v 0 n = v % 2 ^ n := by simp [bits]

theorem toNat_extractLsb (v : W64) (lo n : Nat) : (v.extractLsb' lo n).toNat = bits v.toNat lo n := by
  rw [BitVec.extractLsb'_toNat, Nat.shiftRight_eq_div_pow]; rfl

/-- The low bits of a value are the value under their mask. -/
theorem and_lowMask (v mask : W64) (n : Nat) (hm : ∀ i, i < 64 → mask.getLsbD i = decide (0 ≤ i ∧ i < 0 + n)) :
    v &&& mask = BitVec.ofNat 64 (v.toNat % 2 ^ n) := by
  rw [← keep_eq_and v hm, keep, bits_low, Nat.pow_zero, Nat.mul_one]

/-- Two fields of a value, one of them its low bits, are the value under both masks. -/
theorem and_twoMasks (v m1 m2 : W64) (a b n : Nat) (hd : m1 &&& m2 = 0)
    (h1 : ∀ i, i < 64 → m1.getLsbD i = decide (0 ≤ i ∧ i < 0 + a))
    (h2 : ∀ i, i < 64 → m2.getLsbD i = decide (b ≤ i ∧ i < b + n)) :
    v &&& (m1 ||| m2) = BitVec.ofNat 64 (v.toNat % 2 ^ a + bits v.toNat b n * 2 ^ b) := by
  have hor : v &&& (m1 ||| m2) = (v &&& m1) ||| (v &&& m2) := by
    ext i hi; simp [Bool.and_or_distrib_left]
  have hdis : (v &&& m1) &&& (v &&& m2) = 0 := by
    calc (v &&& m1) &&& (v &&& m2) = (v &&& v) &&& (m1 &&& m2) := by ac_rfl
      _ = 0 := by rw [hd]; exact BitVec.and_zero
  rw [hor, ← BitVec.add_eq_or_of_and_eq_zero _ _ hdis, and_lowMask v m1 a h1, ← keep_eq_and v h2, keep, BitVec.ofNat_add]

/-- The range that a window register's bits give is that of the value written (R69). -/
theorem winFits_window (v : W64) : winFits (BitVec.ofNat 64 (bits v.toNat 0 2 + bits v.toNat 16 26 * 2 ^ 16)) =
    decide (bits v.toNat 16 10 + bits v.toNat 31 11 ≤ 1024) := by
  have h10 : bits (BitVec.ofNat 64 (bits v.toNat 0 2 + bits v.toNat 16 26 * 2 ^ 16)).toNat 16 10 = bits v.toNat 16 10 := by
    simp only [bits, BitVec.toNat_ofNat]; omega
  have h11 : bits (BitVec.ofNat 64 (bits v.toNat 0 2 + bits v.toNat 16 26 * 2 ^ 16)).toNat 31 11 = bits v.toNat 31 11 := by
    simp only [bits, BitVec.toNat_ofNat]; omega
  rw [winFits, h10, h11]

theorem Piece.sysWrite_window (p : Piece) (v : W64) {r : Nat} (hr : 0x22 ≤ r ∧ r ≤ 0x25) :
    p.sysWrite r v = if decide (bits v.toNat 16 10 + bits v.toNat 31 11 ≤ 1024) then
        let w := BitVec.ofNat 64 (bits v.toNat 0 2 + bits v.toNat 16 26 * 2 ^ 16)
        .ok { p with sys := { p.sys with vwin := SMap.set 0 p.sys.vwin (r - 0x22) w } }
      else .refused := by
  have h1 : ¬ (decide (0x180 ≤ r) && decide (r ≤ 0x1BF)) = true := by simp; omega
  have h2 : (decide (0x22 ≤ r) && decide (r ≤ 0x25)) = true := by simp; omega
  rw [← winFits_window]
  exact (if_neg h1).trans (if_pos h2)

/-- A thread's write puts the bits that the register has, or is refused. -/
theorem Piece.sysWrite_put (p : Piece) (v : W64) : ∀ m ∈ sysMasks p v,
    p.sysWrite m.1 v = if m.2.2 then .ok (p.withSys (p.sys.put m.1 (v &&& m.2.1))) else .refused := by
  have all : v &&& bitRange 63 0 = v := by
    rw [and_lowMask v _ 64 (by decide), Nat.mod_eq_of_lt v.isLt, BitVec.ofNat_toNat, BitVec.setWidth_eq]
  simp only [sysMasks, List.forall_mem_cons, toNat_extractLsb, bits_low, all,
    and_twoMasks v (bitRange 1 0) (bitRange 41 16) 2 16 26 (by decide) (by decide) (by decide),
    and_twoMasks v (bitRange 15 0) (bitRange 55 21) 16 21 35 (by decide) (by decide) (by decide),
    and_lowMask v (bitRange 6 0) 7 (by decide), and_lowMask v (bitRange 51 0) 52 (by decide),
    and_lowMask v (bitRange 31 0) 32 (by decide), and_lowMask v (bitRange 4 0) 5 (by decide),
    and_lowMask v (bitRange 15 0) 16 (by decide), and_lowMask v (bitRange 39 0) 40 (by decide)]
  have window (r : Nat) (hr : 0x22 ≤ r ∧ r ≤ 0x25) := p.sysWrite_window v hr
  simp only [bits_low] at window
  refine ⟨?slip, rfl, rfl, rfl, rfl, ?sem, ?troot, window 0x22 (by decide),
    window 0x23 (by decide), window 0x24 (by decide), window 0x25 (by decide), ?stack, rfl, ?tvec, ?wdog,
    fun _ h => absurd h List.not_mem_nil⟩
  case slip => rw [Bool.decide_and]; rfl
  case sem =>
    change (if 4 < bits v.toNat 2 3 then _ else _) = _
    simp only [← Nat.not_le, ite_not, decide_eq_true_eq]
    rfl
  case troot => rfl
  case stack =>
    change (if p.vunits * 16 < v.toNat % 65536 then _ else _) = _
    simp only [← Nat.not_le, ite_not, decide_eq_true_eq]
    rfl
  case tvec =>
    change (if (v.toNat % 4 != 0) = true then _ else _) = _
    simp only [bne_iff_ne, ne_eq, ite_not, decide_eq_true_eq]
    rfl
  case wdog =>
    have hfit : (decide (1 ≤ v.toNat % 2 ^ 40) && decide (v.toNat % 2 ^ 40 ≤ 1023)) = true ↔
        ¬(v.toNat % 2 ^ 40 = 0 ∨ 1024 ≤ v.toNat % 2 ^ 40) := by simp; omega
    change (if (decide (1 ≤ v.toNat % 2 ^ 40) && decide (v.toNat % 2 ^ 40 ≤ 1023)) = true then _ else _) = _
    simp only [hfit, ite_not, decide_eq_true_eq]
    rfl

/-! ## `s.mvfs` and `s.mvts` (R194) -/

/-- A level above TASK passes every privilege check, and TASK those of the registers open to it. -/
theorem privilege_ok {level : Nat} {closed : Bool} (hl : level ≠ 0 ∨ closed = false) :
    (if level = 0 && closed then some cPRIV else none) = none := by
  rcases hl with hl | hl <;> simp [hl]

theorem exec_sMvfs {s : State} {t : BitVec 4} (d : BitVec 5) {r : BitVec 10} (h : CanS s t 0 [])
    (hl : s.piece.level ≠ 0 ∨ superRead r.toNat = false) :
    Completes (.sMvfs t d r) s 0 t (s.piece.s.pc + 4) (s.piece.setReg d ((s.begun 0 t).sysRead r.toNat)) s := by
  refine ⟨_, State.runS_eq h.run h.fits (privilege_ok hl) h.regs, ?_⟩
  rw [State.modPiece_eq, State.begun_piece]
  exact Ran.of_setReg d _ h.run

theorem sysMasks_begun (p : Piece) (t : BitVec 4) (v : W64) : sysMasks (p.begun 0 t) v = sysMasks p v := by
  obtain ⟨x, tk, c, m, hb⟩ := Piece.begun_issuedAs p t
  rw [hb]; rfl

section
variable {s : State} {t : BitVec 4} {d : BitVec 5} {r : BitVec 10} (h : CanS s t 0 []) (hd : RegsReady s.piece [d])
  (hl : s.piece.level ≠ 0 ∨ superWrite r.toNat = false)
include h hd hl

/-- The word completes with what a write that is taken leaves of the piece. -/
theorem exec_sMvts_ok {p : Piece} (hw : (s.piece.begun 0 t).sysWrite r.toNat (s.piece.reg d) = .ok p) :
    exec (.sMvts t d r) s = .next ((Res.done (if r = 0x20 then ((s.begun 0 t).setPiece p).keepTroot
      else (s.begun 0 t).setPiece p)).apply 0 t) := by
  refine (State.runS_eq h.run h.fits (privilege_ok hl) hd).trans ?_
  simp only [State.begun_piece, Piece.begun_reg, hw]

/-- A value that the register does not take is refused at the word. -/
theorem exec_sMvts_refused (hw : (s.piece.begun 0 t).sysWrite r.toNat (s.piece.reg d) = .refused) :
    exec (.sMvts t d r) s = .next ((s.begun 0 t).wordTrap 0 t 0x01 (s.piece.reg d) 0) := by
  refine (State.runS_eq h.run h.fits (privilege_ok hl) hd).trans ?_
  simp only [State.begun_piece, Piece.begun_reg, hw]
  rfl

/-- A write that is taken changes the system registers alone. -/
theorem sMvts_completes {y : SysRegs}
    (hw : (s.piece.begun 0 t).sysWrite r.toNat (s.piece.reg d) = .ok ((s.piece.begun 0 t).withSys y)) :
    ∃ u, exec (.sMvts t d r) s = .next u ∧ WordDone s u 0 t (s.piece.s.pc + 4)
      ∧ u.piece.besidesWord = ((s.piece.begun 0 t).withSys y).besidesWord
      ∧ u.hub.ident = s.hub.ident ∧ u.hub.svc = s.hub.svc ∧ (∀ v a, u.byte v a = s.byte v a) := by
  refine ⟨_, exec_sMvts_ok h hd hl hw, ?_⟩
  generalize hx : (if r = 0x20 then ((s.begun 0 t).setPiece ((s.piece.begun 0 t).withSys y)).keepTroot
    else (s.begun 0 t).setPiece ((s.piece.begun 0 t).withSys y)) = x
  obtain ⟨hpiece, hident, hsvc, hbyte⟩ : x.piece = (s.piece.begun 0 t).withSys y ∧ x.hub.ident = s.hub.ident
      ∧ x.hub.svc = s.hub.svc ∧ ∀ v a, x.byte v a = s.byte v a := by
    subst hx
    split <;> exact ⟨State.piece_setPiece .., rfl, rfl, fun _ _ => rfl⟩
  rw [Res.apply_done, hpiece]
  refine ⟨WordDone.of_begun h.run (by decide) _ (State.piece_setPiece ..) (fun _ _ => rfl) rfl, ?_, hident, hsvc, hbyte⟩
  rw [State.piece_setPiece]
  exact Piece.ended_besidesWord (h.run.room_begun (by decide))

/-- A register takes its bits, and every other one below the pocket map, and every S register, keeps its value. -/
theorem sMvts_puts {m : Nat × W64 × Bool} (hm : m ∈ sysMasks s.piece (s.piece.reg d)) (hr : r.toNat = m.1)
    (ht : m.2.2 = true) :
    ∃ u, exec (.sMvts t d r) s = .next u ∧ WordDone s u 0 t (s.piece.s.pc + 4)
      ∧ u.sysRead m.1 = s.piece.reg d &&& m.2.1
      ∧ (∀ k, k ≠ m.1 → k < 0x100 → u.sysRead k = s.sysRead k)
      ∧ (∀ q, u.piece.reg q = s.piece.reg q) ∧ (∀ v a, u.byte v a = s.byte v a) := by
  have hm' : m ∈ sysMasks (s.begun 0 t).piece (s.piece.reg d) := by
    rw [State.begun_piece, sysMasks_begun]; exact hm
  have hw := Piece.sysWrite_put _ _ m hm'
  rw [ht, if_pos rfl, State.begun_piece, ← hr] at hw
  obtain ⟨u, hu, hdone, hrest, hident, hsvc, hbyte⟩ := sMvts_completes h hd hl hw
  have hread (k : Nat) (hk : k < 0x100) : u.sysRead k = if k = m.1 then s.piece.reg d &&& m.2.1 else s.sysRead k := by
    have hb : (s.begun 0 t).sysRead k = s.sysRead k :=
      State.sysRead_congr ((congrArg Piece.besidesWord (State.begun_piece s 0 t)).trans
        (Piece.begun_besidesWord s.piece 0 t (by decide))) rfl rfl hk
    have hput : u.piece.besidesWord = ((s.begun 0 t).putSys m.1 (s.piece.reg d &&& m.2.1)).piece.besidesWord := by
      refine hrest.trans ?_
      rw [State.putSys_piece, State.begun_piece, hr]
    rw [← hb, ← State.sysRead_put _ _ _ hk m hm']
    exact State.sysRead_congr hput hident hsvc hk
  refine ⟨u, hu, hdone, ?_, fun k hne hk => (hread k hk).trans (if_neg hne), fun q => ?_, hbyte⟩
  · exact (hread m.1 (sysMasks_below _ _ m hm)).trans (if_pos rfl)
  · have hregs : u.piece.regs = (s.piece.begun 0 t).regs := (Piece.regs_of_besidesWord hrest).1
    rw [← Piece.begun_reg s.piece t, Piece.reg, Piece.reg, hregs]

end

/-- A write of FPFLAGS clears the bits written as one, and keeps the flags that this cycle has raised (R122). -/
theorem sMvts_fpflags {s : State} {t : BitVec 4} {d : BitVec 5} (h : CanS s t 0 []) (hd : RegsReady s.piece [d]) :
    Completes (.sMvts t d 0x17) s 0 t (s.piece.s.pc + 4) (s.piece.withSys { s.piece.sys with
      fpflags := (s.piece.sys.fpflags &&& ~~~(s.piece.reg d &&& 0xFFF)) ||| s.piece.sys.flagsNow }) s := by
  have hw : (s.piece.begun 0 t).sysWrite (0x17#10).toNat (s.piece.reg d) = .ok ((s.piece.begun 0 t).withSys
      { (s.piece.begun 0 t).sys with fpflags := ((s.piece.begun 0 t).sys.fpflags &&& ~~~(s.piece.reg d &&& 0xFFF))
                                                  ||| (s.piece.begun 0 t).sys.flagsNow }) := by
    rw [and_lowMask (s.piece.reg d) 0xFFF 12 (by decide)]; rfl
  refine ⟨_, exec_sMvts_ok h hd (.inr rfl) hw, ?_⟩
  rw [if_neg (by decide)]
  refine Ran.of_setPiece h.run (fun _ _ => rfl) rfl ?_
  obtain ⟨x, tk, c, mv, hb⟩ := Piece.begun_issuedAs s.piece t
  rw [hb]; rfl

/-- A write of TSTAT sets PLEVEL and ACT, and ACTIVE reads as it was (R339). -/
theorem sMvts_tstat {s : State} {t : BitVec 4} {d : BitVec 5} (h : CanS s t 0 []) (hd : RegsReady s.piece [d])
    (hl : s.piece.level ≠ 0) (hle : (s.piece.reg d).toNat % 4 ≤ s.piece.level) (h3 : (s.piece.reg d).toNat % 4 ≠ 3) :
    ∃ u, exec (.sMvts t d 0x38) s = .next u ∧ WordDone s u 0 t (s.piece.s.pc + 4)
        ∧ u.piece.sys.tstat.toNat = (s.piece.reg d).toNat % 4 + (if s.piece.active then 4 else 0)
          + ((s.piece.reg d).extractLsb' 3 2).toNat * 8 := by
  have hb : (s.piece.begun 0 t).level = s.piece.level ∧ (s.piece.begun 0 t).active = s.piece.active := by
    obtain ⟨x, tk, c, mv, hb⟩ := Piece.begun_issuedAs s.piece t
    rw [hb]; exact ⟨rfl, rfl⟩
  have h21 : ¬ (decide ((s.piece.reg d).toNat % 4 = 2) && decide ((s.piece.begun 0 t).level = 1)) = true := by
    rw [hb.1]; simp; omega
  have hw : (s.piece.begun 0 t).sysWrite (0x38#10).toNat (s.piece.reg d) = .ok ((s.piece.begun 0 t).withSys
      { (s.piece.begun 0 t).sys with tstat := BitVec.ofNat 64 ((s.piece.reg d).toNat % 4
          + (if (s.piece.begun 0 t).active then 4 else 0) + bits (s.piece.reg d).toNat 3 2 * 8) }) :=
    (if_neg h3).trans (if_neg h21)
  obtain ⟨u, hu, hdone, hrest, -⟩ := sMvts_completes h hd (.inl hl) hw
  refine ⟨u, hu, hdone, ?_⟩
  have htstat := congrArg (fun p : Piece => p.sys.tstat) hrest
  refine (congrArg BitVec.toNat htstat).trans ?_
  rw [hb.2, toNat_extractLsb]
  refine (BitVec.toNat_ofNat ..).trans (Nat.mod_eq_of_lt ?_)
  have : bits (s.piece.reg d).toNat 3 2 < 4 := Nat.mod_lt _ (by decide)
  split <;> omega

theorem systemRegistersMovePart : SystemRegistersMovePart := by
  intro s t d r h
  refine ⟨exec_sMvfs d h, ?rows, fun hd hl m hm hr => ⟨sMvts_puts h hd hl hm hr, fun ht => ?refused⟩, sMvts_fpflags h,
    fun hd => sMvts_tstat h hd⟩
  case rows =>
    simp only [sysRows, List.forall_mem_cons]
    refine ⟨?_, ?_, ?_, ?_, ?_, ?_, ?_, ?_, ?_, ?_, ?_, ?_, ?_, ?_, ?_, ?_, ?_, ?_, ?_, ?_, ?_, ?_, ?_,
      fun _ h => absurd h List.not_mem_nil⟩
    all_goals rfl
  case refused =>
    have hw := Piece.sysWrite_put (s.piece.begun 0 t) (s.piece.reg d) m (by rw [sysMasks_begun]; exact hm)
    exact exec_sMvts_refused h hd hl (by rw [hr, hw, ht]; rfl)

/-! ## Shapes (R198) -/

theorem exec_sPcut {s : State} {t : BitVec 4} {a : BitVec 5} (h : CanS s t 0 [a]) :
    Completes (.sPcut t a) s 0 t (s.piece.s.pc + 4) { s.piece with reshape := some (false, s.piece.reg a), result := 14 } s :=
  ⟨_, State.runS_eq h.run h.fits rfl h.regs, Ran.of_modPiece h.run fun _ _ _ _ => ⟨fun _ _ => rfl, rfl, rfl⟩⟩

theorem exec_sPjoin {s : State} {t : BitVec 4} {a : BitVec 5} (h : CanS s t 0 [a]) :
    Completes (.sPjoin t a) s 0 t (s.piece.s.pc + 4) { s.piece with reshape := some (true, s.piece.reg a), result := 14 } s :=
  ⟨_, State.runS_eq h.run h.fits rfl h.regs, Ran.of_modPiece h.run fun _ _ _ _ => ⟨fun _ _ => rfl, rfl, rfl⟩⟩

theorem exec_sPqry {s : State} {t : BitVec 4} {d : BitVec 5} (h : CanS s t 0 []) :
    Completes (.sPqry t d) s 0 t (s.piece.s.pc + 4)
      (s.piece.setReg d (BitVec.ofNat 64 (s.piece.row0 + s.piece.col0 * 8 + s.piece.hLog * 128 + s.piece.wLog * 512
        + s.piece.eb * 4096 + s.piece.panel * 2 ^ 14 + s.piece.result * 2 ^ 16))) s := by
  refine ⟨_, State.runS_eq h.run h.fits rfl h.regs, ?_⟩
  have hshape : (s.piece.begun 0 t).shape = s.piece.shape ∧ (s.piece.begun 0 t).result = s.piece.result := by
    obtain ⟨x, tk, c, m, hb⟩ := Piece.begun_issuedAs s.piece t
    rw [hb]; exact ⟨rfl, rfl⟩
  rw [State.modPiece_eq, State.begun_piece, hshape.1, hshape.2]
  exact Ran.of_setReg d _ h.run

/-! ## Counters (R201) -/

/-- The piece once counter `i` selects event `e` and restarts. -/
def Piece.selectEvent (p : Piece) (i e : Nat) : Piece :=
  { p with sys := { p.sys with cnt := p.sys.cnt.erase i, cntEv := SMap.set 0 p.sys.cntEv i e } }

/-- A word of S counts as event 1 once its effect is complete. -/
theorem Piece.ended_cnt (p : Piece) (t : BitVec 4) : (p.ended 0 t).sys.cnt = (p.count 1 1).sys.cnt := by
  change ((p.count 1 1).retire 0 t _ (p.carry 0)).sys.cnt = _
  unfold Piece.retire
  cases (tackG t && decide (15 ≤ ((p.count 1 1).tackQ 0 (tackP t)).length)) <;> cases tackG t <;> rfl

theorem exec_sCnt {s : State} {t : BitVec 4} {a b : BitVec 5} (h : CanS s t 0 [a, b]) (hi : (s.piece.reg a).toNat ≤ 63)
    (he : (s.piece.reg b).toNat ≤ 21) : exec (.sCnt t a b) s =
      .next ((Res.done ((s.begun 0 t).modPiece (·.selectEvent (s.piece.reg a).toNat (s.piece.reg b).toNat))).apply 0 t) := by
  refine (State.runS_eq h.run h.fits rfl h.regs).trans ?_
  simp only [State.begun_piece, Piece.begun_reg]
  rw [if_neg (by omega), if_neg (by omega)]
  rfl

/-- After `s.cnt`, the counters hold what counting the word itself leaves of them. -/
theorem sCnt_counters {s u : State} {t : BitVec 4} {a b : BitVec 5} (h : CanS s t 0 [a, b]) (hi : (s.piece.reg a).toNat ≤ 63)
    (he : (s.piece.reg b).toNat ≤ 21) (hu : exec (.sCnt t a b) s = .next u) :
    u.piece.sys.cnt = (((s.piece.begun 0 t).selectEvent (s.piece.reg a).toNat (s.piece.reg b).toNat).count 1 1).sys.cnt := by
  rw [exec_sCnt h hi he] at hu
  cases hu
  rw [Res.apply_done, State.piece_setPiece, Piece.ended_cnt, State.piece_modPiece, State.begun_piece]

/-- What an event adds to the counter of one selection. -/
def tally (ev n : Nat) (c : SMap W64) (kv : Nat × Nat) : SMap W64 :=
  if kv.2 = ev then SMap.set 0 c kv.1 (SMap.get 0 c kv.1 + BitVec.ofNat 64 n) else c

theorem Piece.count_cnt (p : Piece) (ev n : Nat) : (p.count ev n).sys.cnt = p.sys.cntEv.foldl (tally ev n) p.sys.cnt := by
  unfold Piece.count
  split
  · rfl
  · rename_i hnone
    have hid : ∀ m : SMap Nat, (m.any fun kv => kv.2 == ev) = false → ∀ c, m.foldl (tally ev n) c = c := by
      intro m
      induction m with
      | nil => intro _ _; rfl
      | cons kv m ih =>
        intro h c
        simp only [List.any_cons, Bool.or_eq_false_iff, beq_eq_false_iff_ne] at h
        rw [List.foldl_cons, tally, if_neg h.1, ih h.2]
    exact (hid _ ((Bool.not_eq_true _).mp hnone) _).symm

/-- Where no counter is listed twice, an event counts once in each counter that selects it. -/
theorem get_foldl_tally {ev n : Nat} (hev : ev ≠ 0) (m : SMap Nat) {b : Nat} (h : SMap.sortedFrom b m = true) (c : SMap W64)
    (i : Nat) : SMap.get 0 (m.foldl (tally ev n) c) i =
      SMap.get 0 c i + if SMap.get 0 m i = ev then BitVec.ofNat 64 n else 0 := by
  induction m generalizing b c with
  | nil => simp [Ne.symm hev]
  | cons kv m ih =>
    obtain ⟨k, v⟩ := kv
    simp only [SMap.sortedFrom, Bool.and_eq_true, decide_eq_true_eq] at h
    rw [List.foldl_cons, ih h.2, SMap.get, tally]
    by_cases hk : k = i
    · subst hk
      rw [SMap.get_below 0 m h.2 (Nat.lt_succ_self k), if_neg (Ne.symm hev), if_pos rfl]
      split <;> simp
    · rw [if_neg hk]
      split
      · rw [SMap.get_set_ne _ _ _ _ hk]
      · rfl

/-- In canonical contents, `s.cnt` selects its event and restarts the counter, and counts itself where that is event 1. -/
theorem sCnt_restarts {s : State} {t : BitVec 4} {a b : BitVec 5} (h : CanS s t 0 [a, b]) (hi : (s.piece.reg a).toNat ≤ 63)
    (he : (s.piece.reg b).toNat ≤ 21) (hwf : SMap.wf 0 s.piece.sys.cntEv = true) :
    ∃ u, exec (.sCnt t a b) s = .next u
      ∧ Ran s u 0 t (s.piece.s.pc + 4)
          { s.piece with sys := { s.piece.sys with cntEv := SMap.set 0 s.piece.sys.cntEv (s.piece.reg a).toNat (s.piece.reg b).toNat } } s
      ∧ SMap.get 0 u.piece.sys.cnt (s.piece.reg a).toNat = (if s.piece.reg b = 1 then 1 else 0) := by
  have hrun := exec_sCnt h hi he
  refine ⟨_, hrun, Ran.of_modPiece h.run fun _ _ _ _ => ⟨fun _ _ => rfl, rfl, rfl⟩, ?_⟩
  have hsel : ((s.piece.begun 0 t).selectEvent (s.piece.reg a).toNat (s.piece.reg b).toNat).sys.cntEv =
      SMap.set 0 s.piece.sys.cntEv (s.piece.reg a).toNat (s.piece.reg b).toNat := by
    obtain ⟨x, tk, c, m, hb⟩ := Piece.begun_issuedAs s.piece t
    rw [hb]; rfl
  have hsorted := (Bool.and_eq_true_iff.1 (SMap.wf_set hwf (s.piece.reg a).toNat (s.piece.reg b).toNat)).1
  have hzero : SMap.get 0 ((s.piece.begun 0 t).selectEvent (s.piece.reg a).toNat (s.piece.reg b).toNat).sys.cnt
      (s.piece.reg a).toNat = 0 := (SMap.get_erase ..).trans (if_pos rfl)
  have hone : (s.piece.reg b).toNat = 1 ↔ s.piece.reg b = 1 := ⟨fun h => BitVec.eq_of_toNat_eq h, fun h => by rw [h]; rfl⟩
  rw [sCnt_counters h hi he hrun, Piece.count_cnt, hsel, get_foldl_tally (by decide) _ hsorted, hzero, SMap.get_set_self]
  simp only [hone]
  exact BitVec.zero_add _

/-! ## Invalidations (R199) -/

/-- The hub without the cached translations that a test selects. -/
def Hub.withoutEntries (h : Hub) (sel : TlbEntry → Bool) : Hub :=
  { h with tlbs := h.tlbs.map fun kv => (kv.1, kv.2.filter fun e => !sel e)
           gtlbs := h.gtlbs.map fun kv => (kv.1, kv.2.filter fun e => !sel e) }

section
variable {s : State} {t : BitVec 4} {i : Instr} {sel : TlbEntry → Bool} (h : CanRun s 0 t)
  (hx : exec i s = .next (((s.begun 0 t).tlbi sel).apply 0 t))
include h hx

/-- An invalidation that waited completes once what it waited for has performed. -/
theorem tlbi_waited {ids : List Nat} (ha : s.piece.await = .drain ids) (hd : ∀ id ∈ ids, (s.begun 0 t).opDone id 3 = true) :
    Completes i s 0 t (s.piece.s.pc + 4) { s.piece with await := .none } s := by
  have hb : (s.begun 0 t).piece.await = .drain ids := by
    obtain ⟨x, tk, c, m, hb⟩ := Piece.begun_issuedAs s.piece t
    rw [State.begun_piece, hb]; exact ha
  have hr : (s.begun 0 t).tlbi sel = .done (s.begun 0 t).unwait := by
    simp only [State.tlbi, hb, List.all_eq_true.2 hd, if_true]
  rw [hr] at hx
  exact ⟨_, hx, Ran.of_modPiece h fun _ _ _ _ => ⟨fun _ _ => rfl, rfl, rfl⟩⟩

/-- An invalidation that has nothing to wait for removes the entries and completes. -/
theorem tlbi_removes (ha : Fresh s)
    (hd : ∀ id ∈ (s.begun 0 t).tlbiWaits (((s.hub.tlbs ++ s.hub.gtlbs).map fun kv => kv.2.filter sel).flatten),
      (s.begun 0 t).opDone id 3 = true) :
    Completes i s 0 t (s.piece.s.pc + 4) s.piece { s with hub := s.hub.withoutEntries sel } := by
  have hb : (s.begun 0 t).piece.await = .none := by
    obtain ⟨x, tk, c, m, hb⟩ := Piece.begun_issuedAs s.piece t
    rw [State.begun_piece, hb]; exact ha
  have hr : (s.begun 0 t).tlbi sel = .done { s.begun 0 t with hub := s.hub.withoutEntries sel } := by
    simp only [State.tlbi, hb]
    exact if_pos (List.all_eq_true.2 hd)
  rw [hr] at hx
  refine ⟨_, hx, Ran.of_done h (by decide) (fun k _ => ?_) ?_ ?_ fun q => ?_⟩
  · exact congrArg (Piece.eng · k) (State.begun_piece s 0 t)
  · exact congrArg Piece.tacks (State.begun_piece s 0 t)
  · exact (congrArg Piece.besidesWord (State.begun_piece s 0 t)).trans (Piece.begun_besidesWord s.piece 0 t (by decide))
  · simp only [State.setPiece, State.begun, SMap.insert_insert]

end

theorem invalidationsRemoveEntriesPart : InvalidationsRemoveEntriesPart := by
  intro s t a b hl
  have hchk : superLevel s.piece = none := if_neg hl
  have both {i : Instr} {sel : TlbEntry → Bool} (h : CanRun s 0 t)
      (hx : exec i s = .next (((s.begun 0 t).tlbi sel).apply 0 t)) :=
    And.intro (fun ids => tlbi_waited h hx (ids := ids)) (tlbi_removes h hx)
  simp only [List.forall_mem_cons]
  refine ⟨fun h => both h.run ?va, fun h => both h.run ?asid, fun h => both h.run ?all, fun _ h => absurd h List.not_mem_nil⟩
  case va =>
    refine (State.runS_eq h.run h.fits hchk h.regs).trans ?_
    simp only [State.begun_piece, Piece.begun_reg, TlbEntry.hits, Bool.beq_eq_decide_eq, Bool.decide_and]
  case asid =>
    refine (State.runS_eq h.run h.fits hchk h.regs).trans ?_
    simp only [State.begun_piece, Piece.begun_reg, Bool.beq_eq_decide_eq]
  case all => exact State.runS_eq h.run h.fits hchk h.regs

/-- A piece whose counter 0 is listed twice, once with event 1: contents that no write of the model leaves. -/
def twiceSelected : State :=
  { State.reset with pieces := [(0, { live := true, sys := { cntEv := [(0, 2), (0, 1)] }, regs := [(1, 2)] })] }

theorem twiceSelected_canS : CanS twiceSelected 0 0 [0, 1] where
  run := { live := rfl, field := rfl, going := rfl, take := .inr (.inl rfl), room := .inl rfl }
  fits := rfl
  regs := by unfold RegsReady; decide

/-- Refutes O16 by its clause on `s.cnt`: where the selections list a counter twice, replacing its first entry leaves the
second, and the word that selects event 2 counts itself as event 1. Canonical selections keep the clause
(`sCnt_restarts`), and the claim's other clauses hold of every state (`systemRegistersMovePart`, `exec_sPcut`, `exec_sPjoin`,
`exec_sPqry`, `invalidationsRemoveEntriesPart`). -/
theorem not_systemRegistersMove : ¬ Obligations.SystemRegistersMove := by
  unfold Obligations.SystemRegistersMove
  rintro ⟨-, hcounters, -⟩
  obtain ⟨u, hu, -, hcnt⟩ := (hcounters twiceSelected 0 0 0 1).1 twiceSelected_canS (by decide) (by decide)
  rw [sCnt_counters twiceSelected_canS (by decide) (by decide) hu] at hcnt
  exact absurd hcnt (by decide)

end Sys2Proof.Machine
end
